-- ==== Sys2Proof/Word.lean ====
section
/-! DEFINITION. The word types of the exchange memory and the port (spec/00_scope.md, Numbers: multi-byte fields are
little-endian). What takes a word apart or puts one together stands in Machine/Bytes.lean. -/

namespace Sys2Proof

/-- One byte of the exchange memory or of the SPI port. -/
abbrev Byte := BitVec 8

/-- A 2-byte field, and a 16-bit byte address of the port (R21). -/
abbrev Half := BitVec 16

/-- An audit counter (R182). -/
abbrev Word32 := BitVec 32

end Sys2Proof
end

