-- ==== Sys2Proof/Syntax.lean ====
section
/-! DEFINITION. The commands the part takes: one constructor of Instr for each row of spec/opcode_table.json, in the table's
order. The table gives no operands and no bits; the operands here are what the row's own rule reads from outside the part.
Indices are counted from 0: channel 0 is coin channel 1, tube 0 is tube 1, column 0 is column 1. -/

namespace Sys2Proof

/-- The level of a cam sense line (R84): CLOSED at the home position. -/
inductive CamLevel where
  | closed | opened
deriving DecidableEq, Repr

/-- The door state (R112). -/
inductive DoorState where
  | closed | opened
deriving DecidableEq, Repr

/-- The switch levels that a restart takes without a filter, as they stand at its start: the door switch (R112), the four
tube-full switches (R114) and the drop beam (R76). -/
structure Pins where
  door : DoorState
  full : Vector Bool 4
  beamBlocked : Bool
deriving DecidableEq, Repr

/-- One bit for each input of which an activation gives one event: the six coin channels (R99) and the exit sensor (R133). -/
structure PulseInputs where
  coin : Vector Bool 6
  exit : Bool
deriving DecidableEq, Repr

/-- Every input is inactive. -/
def PulseInputs.idle : PulseInputs := { coin := Vector.replicate 6 false, exit := false }

/-- A REGISTER READ of register number `register` in which `count` data bytes are sent in full (R24). -/
structure RegisterRead where
  register : Byte
  count : Nat
deriving DecidableEq, Repr

/-- The commands of the part, a row of the table each. An operand named `after` is the time in milliseconds that has passed
since the command before it (notes/assumptions/3.md). An operand `returned` says that the input has been inactive since its
last activation; without it the activation is a new one (notes/assumptions/43.md). -/
inductive Instr where
  /-- R22: `count` data bytes are clocked out, from `addr` onward in a transaction that begins here, or, without an address,
  as the next bytes of the read that is open. A transaction may come in several such pieces, with other commands between
  them: each byte is taken at the moment it is sent. -/
  | memoryRead (start : Option Half) (count : Nat)
  /-- R23: `data` is applied from `addr` onward at the release of chip select. `completed` names the slots that the part
  completed while the transaction was open: their bodies were locked when it began. -/
  | memoryWrite (addr : Half) (data : List Byte) (completed : List Nat)
  /-- R21: a transaction whose first byte is `command`. -/
  | unknownCommand (command : Byte)
  /-- R24, R42: a REGISTER READ. NOTICE is register 0x01; a read of another register changes nothing and has no row of its
  own (notes/assumptions/31.md). -/
  | noticeRead (read : RegisterRead)
  /-- R43: a REGISTER WRITE to NOTICE_MASK that carries `data`. -/
  | noticeMaskWrite (data : List Byte)
  /-- R24: a REGISTER WRITE of `data` to register number `register`. -/
  | registerWriteRefused (register : Byte) (data : List Byte)
  /-- R47: chip select has been asserted for 35 ms without a clock edge. `released` says that this assertion is not the one
  of the port reset before it (notes/assumptions/45.md). -/
  | portReset (released : Bool := true)
  | keepalivePeriodEnd
  | silentReturnExpiry
  | badCard
  | vend
  | cancel
  | returnCredit
  | payout
  | tubeFill
  | setSpiral
  | setCoin
  | setMoney
  | setVend
  | setCooling
  | setLoad
  | setPort
  | defaults
  | releaseZone
  | defrostNow
  | testSpiral
  | resumeDrive
  | snapshot
  | store
  | vendCheckStage
  | testCheckStage
  | loadWaitExpiry
  /-- R82, R84: the cam of `spiral` changes to `level`. The sense line of its column shows the change while the row of the
  spiral is enabled; otherwise the next motor start finds the cam there (notes/assumptions/9.md). -/
  | camLineChange (after : Nat) (spiral : Fin 80) (level : CamLevel)
  /-- R85: the pending edge of the energised cam of `column` has held for 20 ms. -/
  | camEdgeConsumed (column : Fin 10)
  | camLeaveLimit
  | revolutionLimit
  /-- R89: the measured current becomes `current`, in units of 0.01 A. -/
  | motorCurrentChange (after : Nat) (current : Nat)
  | jamTimerExpiry
  /-- R90: the measured current is `current`, in units of 0.01 A, above the short limit. -/
  | motorShort (current : Nat)
  /-- R92: the check ends; `highest` is the highest current measured during it, in units of 0.01 A. -/
  | offCurrentCheckPass (highest : Nat)
  /-- R92: the current reached 0.05 A; `highest` is the highest current measured up to that moment. -/
  | offCurrentCheckFail (highest : Nat)
  /-- R76: the drop beam becomes blocked or clear. -/
  | beamChange (after : Nat) (blocked : Bool)
  | dropRecognised
  | dropSensorFault
  | dropSensorRecovery
  | dropWaitExpiry
  /-- R112: the door switch has stood at `door` for 50 ms. -/
  | doorStateChange (door : DoorState)
  /-- R99: the input of `channel` has been active for 10 ms. -/
  | coinArrival (channel : Fin 6) (returned : Bool := true)
  | gateTimerExpiry (tube : Fin 4)
  /-- R102: the full switch of `tube` has stood at `full` for 50 ms. -/
  | fullSensorChange (tube : Fin 4) (full : Bool)
  | coinReturnLever
  | payoutStart
  /-- R132: the 100 ms of the ejector pulse that ends first are over. -/
  | ejectorPulseEnd
  /-- R133: the exit sensor's input has been active for 2 ms. -/
  | exitCoinSeen (returned : Bool := true)
  | confirmWindowExpiry
  /-- R152: the 12-bit codes read from the three thermistor inputs. -/
  | sample (cabA cabB evap : BitVec 12)
  | minOffExpiry
  | minOnExpiry
  | startWindowExpiry
  | fallbackPhaseExpiry
  | defrostDue
  | defrostForcedStop
  | defrostTimerExpiry
  | drainingEnd
  | recoveryGraceEnd
  /-- R179: the save in progress writes its CRC. `pins` is read when this starts a restart (R180). -/
  | saveComplete (pins : Pins)
  | pfailAssert
  /-- R180: PFAIL is released while the supply holds. `pins` is read when this starts a restart. -/
  | pfailRelease (pins : Pins)
  | resetAssert (pins : Pins)
  | powerOn (pins : Pins)
  /-- R181: the restart sequence finishes; `active` are the inputs with an activation in progress (R99, R139). -/
  | restartSequenceEnd (active : PulseInputs := PulseInputs.idle)
  | runTimeAccumulatorSecond
deriving DecidableEq, Repr

end Sys2Proof
end

