-- ==== Sys2Proof/WellFormed.lean ====
section
/-! DEFINITION. Which operands belong to a command: those that its row of the table describes. The machine answers the others
too. -/

namespace Sys2Proof

/-- The four command bytes of R21 are no unknown commands. -/
def unknownOk (command : Byte) : Bool := command != 0x51 && command != 0x52 && command != 0x61 && command != 0x62

/-- A REGISTER WRITE that R24 refuses: every one but a write of two bytes or more to NOTICE_MASK. -/
def refusedOk (register : Byte) (data : List Byte) : Bool := register != 0x02 || decide (data.length < 2)

/-- The operands of a command are such as its row describes. -/
def Instr.wellFormed : Instr → Bool
  | .memoryWrite _ _ completed => completed.all fun slot => decide (slot < 128)
  | .unknownCommand command => unknownOk command
  | .noticeMaskWrite data => decide (2 ≤ data.length)
  | .registerWriteRefused register data => refusedOk register data
  | .motorShort current => decide (300 < current)
  | .offCurrentCheckPass highest => decide (highest < 5)
  | .offCurrentCheckFail highest => decide (5 ≤ highest)
  | .memoryRead _ _ => true
  | .noticeRead _ => true
  | .portReset _ => true
  | .keepalivePeriodEnd => true
  | .silentReturnExpiry => true
  | .badCard => true
  | .vend => true
  | .cancel => true
  | .returnCredit => true
  | .payout => true
  | .tubeFill => true
  | .setSpiral => true
  | .setCoin => true
  | .setMoney => true
  | .setVend => true
  | .setCooling => true
  | .setLoad => true
  | .setPort => true
  | .defaults => true
  | .releaseZone => true
  | .defrostNow => true
  | .testSpiral => true
  | .resumeDrive => true
  | .snapshot => true
  | .store => true
  | .vendCheckStage => true
  | .testCheckStage => true
  | .loadWaitExpiry => true
  | .camLineChange _ _ _ => true
  | .camEdgeConsumed _ => true
  | .camLeaveLimit => true
  | .revolutionLimit => true
  | .motorCurrentChange _ current => decide (current ≤ 300)
  | .jamTimerExpiry => true
  | .beamChange _ _ => true
  | .dropRecognised => true
  | .dropSensorFault => true
  | .dropSensorRecovery => true
  | .dropWaitExpiry => true
  | .doorStateChange _ => true
  | .coinArrival _ _ => true
  | .gateTimerExpiry _ => true
  | .fullSensorChange _ _ => true
  | .coinReturnLever => true
  | .payoutStart => true
  | .ejectorPulseEnd => true
  | .exitCoinSeen _ => true
  | .confirmWindowExpiry => true
  | .sample _ _ _ => true
  | .minOffExpiry => true
  | .minOnExpiry => true
  | .startWindowExpiry => true
  | .fallbackPhaseExpiry => true
  | .defrostDue => true
  | .defrostForcedStop => true
  | .defrostTimerExpiry => true
  | .drainingEnd => true
  | .recoveryGraceEnd => true
  | .saveComplete _ => true
  | .pfailAssert => true
  | .pfailRelease _ => true
  | .resetAssert _ => true
  | .powerOn _ => true
  | .restartSequenceEnd _ => true
  | .runTimeAccumulatorSecond => true

end Sys2Proof
end

