-- ==== Sys2Proof/Decode.lean ====
section
/-! DEFINITION. How the bytes of an SPI transaction spell a command of the port (R21), and the bytes a host sends for one.
The rows of spec/opcode_table.json carry no bits: a word spells a command by the bytes of its transaction
(notes/assumptions/1.md). -/

namespace Sys2Proof

/-- The transaction that begins with the four bytes of a MEMORY READ: `rest` is what the host clocks after the turnaround
byte (R21, R22). -/
def decodeRead : List Byte → Option Instr
  | low :: high :: _turnaround :: rest => some (.memoryRead (some (high ++ low)) rest.length)
  | [low, high] => some (.memoryRead (some (high ++ low)) 0)
  | _ => none

/-- A MEMORY WRITE: the address and the data (R21, R23). -/
def decodeWrite (completed : List Nat) : List Byte → Option Instr
  | low :: high :: data => some (.memoryWrite (high ++ low) data completed)
  | _ => none

/-- A REGISTER READ of any number (R24): `rest` begins with the turnaround byte. -/
def decodeRegisterRead : List Byte → Option Instr
  | register :: rest => some (.noticeRead ⟨register, rest.length - 1⟩)
  | [] => none

/-- A REGISTER WRITE (R24, R43). -/
def decodeRegisterWrite : List Byte → Option Instr
  | register :: data =>
    if refusedOk register data then some (.registerWriteRefused register data) else some (.noticeMaskWrite data)
  | [] => none

/-- The command that the bytes of one transaction spell (R21); `completed` as in MEMORY_WRITE. A transaction released before
its address or register number is complete has no effect and spells none. -/
def decodeTransaction (completed : List Nat) (bytes : List Byte) : Option Instr :=
  match bytes with
  | [] => none
  | command :: rest =>
    if command = 0x51 then decodeRead rest
    else if command = 0x52 then decodeWrite completed rest
    else if command = 0x61 then decodeRegisterRead rest
    else if command = 0x62 then decodeRegisterWrite rest
    else some (.unknownCommand command)

/-- The `n` bytes of a word, the lowest first. -/
def wordBytes : Nat → Nat → List Byte
  | 0, _ => []
  | n + 1, w => BitVec.ofNat 8 w :: wordBytes n (w / 256)

/-- DESIGN CHOICE (notes/assumptions/1.md): a word is the bytes of one transaction, the lowest byte first, and its first byte
selects the command (R21). A word that ends before its address or register number is complete spells none, as the
transaction of its bytes has no effect. -/
def decodeTableWord (nbits w : Nat) : Option Instr := decodeTransaction [] (wordBytes (nbits / 8) w)

/-- The two address bytes, the low one first (R21). -/
def addressBytes (addr : Half) : List Byte := [addr.extractLsb' 0 8, addr.extractLsb' 8 8]

/-- The bytes that a host sends for a command of the port that is a transaction of its own. -/
def encodeTransaction : Instr → Option (List Byte)
  | .memoryRead (some addr) count => some (0x51 :: addressBytes addr ++ 0x00 :: List.replicate count 0x00)
  | .memoryWrite addr data _ => some (0x52 :: addressBytes addr ++ data)
  | .unknownCommand command => some [command]
  | .noticeRead ⟨register, count⟩ => some (0x61 :: register :: 0x00 :: List.replicate count 0x00)
  | .noticeMaskWrite data => some (0x62 :: 0x02 :: data)
  | .registerWriteRefused register data => some (0x62 :: register :: data)
  | _ => none

end Sys2Proof
end

