-- ==== Sys2Proof/Machine/Records.lean ====
section
/-! DEFINITION. The names and records that the state is made of: outcome codes, card kinds, settings groups with their
factory values, the spiral, channel and tube records, and the persistent image (spec/01, 02, 03, 06, 09, 10, 12). -/

namespace Sys2Proof.Machine

/-! ## Cards -/

/-- The outcome codes of 2.7.3. -/
inductive CardOutcome where
  | none | ok | badCard | queueFull | busy | outOfRange | serviceOnly | notSelectable | spiralBusy | twinConflict
  | tubeBusy | alreadyQueued | stillFaulted | stillWarm | alreadyDefrosting | tooLate | notCancellable | badChain
  | chainAborted
  | vended | vendedUnconfirmed | noDrop | jammed | cancelled | loadTimeout | doorOpenAbort | doorOpen | driveFaulted
  | badSelection | soldOut | spiralJammed | disabled | zoneUnverified | zoneLocked | insufficientCredit
  | insufficientFunds | changeUnavailable | dropSensorFault
  | homeOk | testJammed | testAborted
  | paid | partialPaid | nothingToPay
  | complete | timedOut
deriving DecidableEq, Repr

/-- The 16-bit code of an outcome (2.7.3). -/
def CardOutcome.code : CardOutcome → Nat
  | .none => 0x0000 | .ok => 0x0001 | .badCard => 0x0002 | .queueFull => 0x0003 | .busy => 0x0004
  | .outOfRange => 0x0005 | .serviceOnly => 0x0006 | .notSelectable => 0x0007 | .spiralBusy => 0x0008
  | .twinConflict => 0x0009 | .tubeBusy => 0x000A | .alreadyQueued => 0x000B | .stillFaulted => 0x000C
  | .stillWarm => 0x000D | .alreadyDefrosting => 0x000E | .tooLate => 0x000F | .notCancellable => 0x0010
  | .badChain => 0x0011 | .chainAborted => 0x0012
  | .vended => 0x0100 | .vendedUnconfirmed => 0x0101 | .noDrop => 0x0102 | .jammed => 0x0103 | .cancelled => 0x0104
  | .loadTimeout => 0x0105 | .doorOpenAbort => 0x0106 | .doorOpen => 0x0107 | .driveFaulted => 0x0108
  | .badSelection => 0x0109 | .soldOut => 0x010A | .spiralJammed => 0x010B | .disabled => 0x010C
  | .zoneUnverified => 0x010D | .zoneLocked => 0x010E | .insufficientCredit => 0x010F | .insufficientFunds => 0x0110
  | .changeUnavailable => 0x0111 | .dropSensorFault => 0x0112
  | .homeOk => 0x0180 | .testJammed => 0x0181 | .testAborted => 0x0182
  | .paid => 0x0200 | .partialPaid => 0x0201 | .nothingToPay => 0x0202
  | .complete => 0x0280 | .timedOut => 0x0281

/-- The holder values of R27. -/
inductive Holder where
  | free | posted | taken | done | linked
deriving DecidableEq, Repr

/-- The holder byte of a holder (R27). -/
def Holder.code : Holder → Nat
  | .free => 0 | .posted => 1 | .taken => 2 | .done => 3 | .linked => 4

/-- The holder a byte names, if it names one (R27). -/
def Holder.ofCode (n : Nat) : Option Holder :=
  match n with
  | 0 => some .free | 1 => some .posted | 2 => some .taken | 3 => some .done | 4 => some .linked | _ => Option.none

/-- A slot's body is locked against the host while its holder is POSTED, TAKEN or LINKED (R27). -/
def Holder.locksBody : Holder → Bool
  | .free => false | .done => false | .posted => true | .taken => true | .linked => true

/-- The 19 card kinds of R37. -/
inductive CardKind where
  | vend | cancel | returnCredit | payout | tubeFill | setSpiral | setCoin | setMoney | setVend | setCooling | setLoad
  | setPort | releaseZone | defrostNow | testSpiral | resumeDrive | snapshot | store | defaults
deriving DecidableEq, Repr

/-- The kind a code at offset 1 names, if it names one (R37). -/
def CardKind.ofCode (n : Nat) : Option CardKind :=
  match n with
  | 1 => some .vend | 2 => some .cancel | 3 => some .returnCredit | 4 => some .payout | 5 => some .tubeFill
  | 6 => some .setSpiral | 7 => some .setCoin | 8 => some .setMoney | 9 => some .setVend | 10 => some .setCooling
  | 11 => some .setLoad | 12 => some .setPort | 13 => some .releaseZone | 14 => some .defrostNow | 15 => some .testSpiral
  | 16 => some .resumeDrive | 17 => some .snapshot | 18 => some .store | 19 => some .defaults | _ => Option.none

/-! ## Notices -/

/-- The nine notice classes of R41. -/
inductive NoticeClass where
  | restart | drive | zone | cooling | money | cards | spiral | door | port
deriving DecidableEq, Repr

/-- The pending flag, and the mask bit, of a class: bit k − 1 for class k (R43). -/
def NoticeClass.bit : NoticeClass → BitVec 9
  | .restart => 0x001 | .drive => 0x002 | .zone => 0x004 | .cooling => 0x008 | .money => 0x010 | .cards => 0x020
  | .spiral => 0x040 | .door => 0x080 | .port => 0x100

/-! ## Spirals -/

/-- The role of a spiral (R5). -/
inductive Role where
  | single | lead | follower
deriving DecidableEq, Repr

/-- The zone of a spiral (R3). -/
inductive Zone where
  | ambient | chilled
deriving DecidableEq, Repr

/-- The state of a spiral (R9). -/
inductive SpiralState where
  | ready | soldOut | jammed | disabled
deriving DecidableEq, Repr

/-- The stock value NOT_TRACKED (R12). -/
def stockNotTracked : Nat := 255

/-- A spiral record (1.1.1). The number field is the record's place in the table. `jamClass` 0 is class 1. -/
structure Spiral where
  role : Role
  zone : Zone
  price : Nat
  state : SpiralState
  stock : Nat
  jamClass : Fin 4
  sales : Nat
  lastRevolution : Nat
  lastOutcome : CardOutcome
  inFlight : Bool
deriving DecidableEq, Repr

/-- The factory record (1.1.1, R18). -/
def Spiral.factory : Spiral :=
  { role := .single, zone := .ambient, price := 0, state := .disabled, stock := stockNotTracked, jamClass := 1, sales := 0,
    lastRevolution := 0, lastOutcome := .none, inFlight := false }

/-- The record as the image holds it: without its in-flight flag (R13, R178). -/
def Spiral.saved (r : Spiral) : Spiral := { r with inFlight := false }

/-- The record after a DEFAULTS card for the spiral group: the settings fields take their factory values, the sales count,
last revolution time and last outcome are kept (R18). -/
def Spiral.defaulted (r : Spiral) : Spiral :=
  { Spiral.factory with sales := r.sales, lastRevolution := r.lastRevolution, lastOutcome := r.lastOutcome,
                        inFlight := r.inFlight }

/-! ## Coins -/

/-- A coin channel record (R97); its inhibit output is computed (R104). A route of none is CASH_BOX. -/
structure Channel where
  value : Nat
  route : Option (Fin 4)
  enable : Bool
deriving DecidableEq, Repr

/-- The factory channel record (R97). -/
def Channel.factory : Channel := { value := 0, route := Option.none, enable := false }

/-- A channel is enabled while its enable is 1 and its value is not 0 (R97). -/
def Channel.enabled (c : Channel) : Bool := c.enable && c.value != 0

/-- A tube record (R98). `gate` is the moment at which the running gate timer expires. -/
structure Tube where
  value : Nat
  count : Nat
  capacity : Nat
  reserve : Nat
  full : Bool
  gate : Option Nat
  busy : Bool
deriving DecidableEq, Repr

/-- The factory tube record (R98). -/
def Tube.factory : Tube :=
  { value := 0, count := 0, capacity := 100, reserve := 0, full := false, gate := Option.none, busy := false }

/-- The part of a tube record that the image holds (R178). -/
structure SavedTube where
  value : Nat
  count : Nat
  capacity : Nat
  reserve : Nat
deriving DecidableEq, Repr

def Tube.saved (t : Tube) : SavedTube :=
  { value := t.value, count := t.count, capacity := t.capacity, reserve := t.reserve }

/-- A tube as a restart builds it: gate closed, marker clear, full sensor read from its switch (R114). -/
def SavedTube.restored (t : SavedTube) (full : Bool) : Tube :=
  { value := t.value, count := t.count, capacity := t.capacity, reserve := t.reserve, full := full, gate := Option.none,
    busy := false }

/-! ## Settings groups -/

/-- The change mode (R109). -/
inductive ChangeMode where
  | immediate | hold
deriving DecidableEq, Repr

/-- The overpay rule (R109). -/
inductive OverpayRule where
  | refuse | accept
deriving DecidableEq, Repr

/-- The MONEY group (R109). -/
structure MoneySettings where
  baseUnit : Nat
  maxCredit : Nat
  changeMode : ChangeMode
  overpay : OverpayRule
  guaranteeLimit : Nat
deriving DecidableEq, Repr

def MoneySettings.factory : MoneySettings :=
  { baseUnit := 5, maxCredit := 400, changeMode := .immediate, overpay := .refuse, guaranteeLimit := 100 }

/-- The drop assurance (R38). -/
inductive DropAssurance where
  | off | preferred | required
deriving DecidableEq, Repr

/-- The VEND group (R38): the load wait limit in seconds, the revolution limit in tenths of a second, and the jam current
limits of classes 1 to 4 in units of 0.01 A. -/
structure VendSettings where
  loadWait : Nat
  revolutionLimit : Nat
  extraTurns : Nat
  assurance : DropAssurance
  jamLimit : Vector Nat 4
deriving DecidableEq, Repr

def VendSettings.factory : VendSettings :=
  { loadWait := 20, revolutionLimit := 60, extraTurns := 1, assurance := .preferred, jamLimit := #v[60, 90, 120, 160] }

/-- The LOAD group (R142). -/
structure LoadSettings where
  budget : Nat
  startSize : Nat
  runSize : Nat
  heaterSize : Nat
  singleSize : Nat
  payoutSize : Nat
deriving DecidableEq, Repr

def LoadSettings.factory : LoadSettings :=
  { budget := 12, startSize := 10, runSize := 3, heaterSize := 6, singleSize := 2, payoutSize := 1 }

/-- The PORT group (R52): the keepalive period and the silent return delay in seconds. -/
structure PortSettings where
  keepalivePeriod : Nat
  silentDelay : Nat
  maskDefault : BitVec 9
deriving DecidableEq, Repr

def PortSettings.factory : PortSettings := { keepalivePeriod := 10, silentDelay := 60, maskDefault := 0x1FF }

/-- The fan mode (R160). -/
inductive FanMode where
  | continuous | withCompressor
deriving DecidableEq, Repr

/-- The defrost type (R162). -/
inductive DefrostType where
  | heater | offCycle
deriving DecidableEq, Repr

/-- The COOLING group, in the units of R167. -/
structure CoolingSettings where
  setpoint : Int
  differential : Nat
  minOff : Nat
  minOn : Nat
  startWindow : Nat
  fanMode : FanMode
  cabBEnable : Bool
  trimA : Int
  trimB : Int
  trimEvap : Int
  filterK : Nat
  spreadLimit : Nat
  defrostInterval : Nat
  defrostType : DefrostType
  termination : Int
  maxDuration : Nat
  dripTime : Nat
  recoveryGrace : Nat
  safeLimit : Int
  allowedExposure : Nat
deriving DecidableEq, Repr

def CoolingSettings.factory : CoolingSettings :=
  { setpoint := 30, differential := 20, minOff := 180, minOn := 60, startWindow := 2, fanMode := .continuous,
    cabBEnable := false, trimA := 0, trimB := 0, trimEvap := 0, filterK := 3, spreadLimit := 80, defrostInterval := 6,
    defrostType := .heater, termination := 80, maxDuration := 30, dripTime := 2, recoveryGrace := 20, safeLimit := 70,
    allowedExposure := 1800 }

/-! ## Zone, audit and image -/

/-- The zone state (R172). -/
inductive ZoneState where
  | unverified | safe | exposed | locked
deriving DecidableEq, Repr

/-- The 26 counters of R182; counter i stands at index i − 1. -/
abbrev Counters := Vector Word32 26

/-- The places of the counters in the order of R182. -/
inductive Counter where
  | sales | coinSales | hostSales | coinsIn (channel : Fin 6) | coinsToTube (tube : Fin 4) | cashBox
  | coinsPaid (tube : Fin 4) | manualPayout | retained | failedVends | strayDrops | strayCoins | tubeEmpty
  | interruptedVends | restarts
deriving DecidableEq, Repr

def Counter.index : Counter → Fin 26
  | .sales => 0
  | .coinSales => 1
  | .hostSales => 2
  | .coinsIn c => ⟨3 + c.val, by omega⟩
  | .coinsToTube t => ⟨9 + t.val, by omega⟩
  | .cashBox => 13
  | .coinsPaid t => ⟨14 + t.val, by omega⟩
  | .manualPayout => 18
  | .retained => 19
  | .failedVends => 20
  | .strayDrops => 21
  | .strayCoins => 22
  | .tubeEmpty => 23
  | .interruptedVends => 24
  | .restarts => 25

/-- The records of the persistent image (R178). -/
structure Image where
  money : MoneySettings
  vend : VendSettings
  load : LoadSettings
  port : PortSettings
  cooling : CoolingSettings
  spirals : Vector Spiral 80
  channels : Vector Channel 6
  tubes : Vector SavedTube 4
  credit : Nat
  zone : ZoneState
  exposure : Nat
  driveFaulted : Bool
  runTime : Nat
  live : Counters
  snapshot : Counters
deriving DecidableEq, Repr

/-- The records a restart takes when the image is invalid (R181, step 4). -/
def Image.factory : Image :=
  { money := .factory, vend := .factory, load := .factory, port := .factory, cooling := .factory,
    spirals := Vector.replicate 80 .factory, channels := Vector.replicate 6 .factory,
    tubes := Vector.replicate 4 Tube.factory.saved, credit := 0, zone := .locked, exposure := 0, driveFaulted := true,
    runTime := 0, live := Vector.replicate 26 0, snapshot := Vector.replicate 26 0 }

end Sys2Proof.Machine
end

