-- ==== Sys2Proof/Config.lean ====
section
/-! DEFINITION. What the manual leaves open: constants without a body, so that nothing can be proved of their values
(notes/assumptions names each). -/

namespace Sys2Proof.Config

/-- R20: the silicon revision, "a value this manual does not fix". -/
opaque siliconRevision : Byte

/-- R178: the bytes of an image in storage order; "the storage order and encoding of the image's bytes are internal to the
part". -/
opaque imageBytes : Machine.Image → List Byte

/-- What a 2-byte field shows of a number above 65,535: the manual gives no value for it. -/
opaque wideField : Nat → Half

/-- R164, R169: whether a defrost time with a broken last second counts that second; the manual names no rounding. -/
opaque defrostRoundsUp : Nat → Bool

end Sys2Proof.Config
end

