-- ==== Sys2Proof/Machine/Bytes.lean ====
section
/-! DEFINITION. Byte order and field widths of the exchange memory (spec/00_scope.md, Numbers; spec/02, 2.7). -/

namespace Sys2Proof.Machine

/-- The byte of `value` that stands `index` bytes above the lowest address of its field: little-endian. -/
def byteAt (value index : Nat) : Byte := BitVec.ofNat 8 (value / 256 ^ index)

/-- The `size` bytes of a field that holds `value`, least significant first. -/
def leBytes (value : Nat) : Nat → List Byte
  | 0 => []
  | size + 1 => BitVec.ofNat 8 value :: leBytes (value / 256) size

/-- The number that a list of bytes spells, least significant first. -/
def ofLe : List Byte → Nat
  | [] => 0
  | b :: rest => b.toNat + 256 * ofLe rest

/-- The 16-bit two's-complement number of a temperature or trim field (R40). -/
def signed16 (n : Nat) : Int := if n < 32768 then (n : Int) else (n : Int) - 65536

/-- The 16 bits of a signed field, as a number from 0 to 65,535. -/
def unsigned16 (i : Int) : Nat := (i % 65536).toNat

/-- 1 for a set flag and 0 for a clear one, the coding of every flag of 2.7. -/
def flag (b : Bool) : Nat := if b then 1 else 0

/-- One bit of a CRC-16 with the polynomial x^16 + x^12 + x^5 + 1, not reflected (R178). -/
def crcBit (crc : Half) : Half := if crc.msb then (crc <<< 1) ^^^ 0x1021 else crc <<< 1

/-- One byte of a CRC-16, its most significant bit first (R178). -/
def crcByte (crc : Half) (b : Byte) : Half := (List.range 8).foldl (fun c _ => crcBit c) (crc ^^^ (b.zeroExtend 16 <<< 8))

/-- The CRC-16 of R178: initial value 0xFFFF, the result neither reflected nor inverted. -/
def crc16 (bytes : List Byte) : Half := bytes.foldl crcByte 0xFFFF

/-- One field of a layout of 2.7: where it begins, its width in bytes and the number it shows. -/
structure Field where
  at_ : Nat
  size : Nat
  value : Nat
deriving DecidableEq, Repr

/-- The byte that a layout shows at `addr`: a byte of the field that covers it, 0x00 where no field does (R19). -/
def fieldByte : List Field → Nat → Byte
  | [], _ => 0
  | f :: rest, addr =>
    if f.at_ ≤ addr ∧ addr < f.at_ + f.size then byteAt f.value (addr - f.at_) else fieldByte rest addr

/-- The width of the field that begins at `addr`; 1 where none does. -/
def fieldWidth : List Field → Nat → Nat
  | [], _ => 1
  | f :: rest, addr => if f.at_ = addr then f.size else fieldWidth rest addr

/-- Lays fields of the given widths and values one after the other from `base`. -/
def layOut : Nat → List (Nat × Nat) → List Field
  | _, [] => []
  | base, (size, value) :: rest => ⟨base, size, value⟩ :: layOut (base + size) rest

end Sys2Proof.Machine
end

