-- ==== Sys2Proof/Machine/State.lean ====
section
/-! DEFINITION. The state of the part as plain data, one field for each piece of state the manual names, and the state right
after reset. Every timer is the moment, on the part's millisecond clock `now`, at which it expires. -/

namespace Sys2Proof.Machine

/-- The kinds of restart (R181). -/
inductive RestartReason where
  | powerOn | resetPin | supplyDip
deriving DecidableEq, Repr

/-- PFAIL (R180): `released` is a PFAIL released before the restart that ends it. -/
inductive Pfail where
  | clear | asserted | released
deriving DecidableEq, Repr

/-- Host supervision (R48 to R51). -/
structure Supervision where
  alive : Bool
  reference : Nat
  period : Option Nat
  silentReturn : Option Nat
deriving DecidableEq, Repr

/-- The stages of a vend in flight (R54). -/
inductive Stage where
  | claiming | leavingHome | turning | dropWait
deriving DecidableEq, Repr

/-- An entry of the vend queue (R53); `basket` is the slot of the head of the basket it is an item of. -/
structure QueueEntry where
  slot : Nat
  basket : Option Nat
deriving DecidableEq, Repr

/-- The vend or test in flight (R54, R61, R64, R78). `loadTimer` and `dropTimer` are the load wait and drop wait timers. -/
structure Flight where
  slot : Nat
  basket : Option Nat
  isTest : Bool
  spiral : Fin 80
  twin : Bool
  chilled : Bool
  price : Nat
  coin : Bool
  loadWait : Nat
  revolutionLimit : Nat
  extraTurns : Nat
  assurance : DropAssurance
  stage : Stage
  revolutions : Nat
  firstStart : Option Nat
  dropSeen : Option Nat
  loadTimer : Option Nat
  dropTimer : Option Nat
deriving DecidableEq, Repr

/-- The basket in flight (R58): the remaining authorised amount, the sum charged so far, and the outcome of the head's own
item once that has ended. -/
structure Basket where
  head : Nat
  remaining : Nat
  charged : Nat
  headOutcome : Option CardOutcome
deriving DecidableEq, Repr

/-- The phase of a cam in one revolution (R85). -/
inductive CamPhase where
  | awaitOpen | turningOpen | home
deriving DecidableEq, Repr

/-- A cam record (R84, R85). `edge` is the time of the pending edge on the revolution timer; `limitWaits` says that a cam
limit has come and its judgement waits for that edge (R87). -/
structure Cam where
  spiral : Fin 80
  level : CamLevel
  edge : Option Nat
  phase : CamPhase
  openTime : Option Nat
  closeTime : Option Nat
  limitWaits : Bool
deriving DecidableEq, Repr

/-- The energised selection (R82): when its revolution timer was 0, the class limit and the measured current in units of
0.01 A, when the jam timer started, and its cam records. -/
structure Revolution where
  started : Nat
  classLimit : Nat
  current : Nat
  jamSince : Option Nat
  cams : List Cam
deriving DecidableEq, Repr

/-- A held RESUME_DRIVE and the end of its off-current check (R92); none once the check is abandoned, while the card stays
TAKEN (R30, R93). -/
structure OffCheck where
  slot : Nat
  ends : Option Nat
deriving DecidableEq, Repr

/-- The drop sensor (R76). `since` is when the beam took its present level. -/
structure DropSensor where
  blocked : Bool
  fault : Bool
  latch : Bool
  since : Nat
deriving DecidableEq, Repr

/-- The origins of a payout (R128). -/
inductive Origin where
  | lever | card | postVend | silentReturn | service
deriving DecidableEq, Repr

/-- The forms of a payout (R127). -/
inductive PayForm where
  | creditReturn | amount | tubeList
deriving DecidableEq, Repr

/-- The card an entry carries; a vend card comes with the vend outcome it will end with (R69, R128). -/
structure AttachedCard where
  slot : Nat
  vendOutcome : Option CardOutcome
deriving DecidableEq, Repr

/-- A payout entry (R127); `amount` and `coins` are read from a PAYOUT card. -/
structure PayEntry where
  origin : Origin
  form : PayForm
  card : Option AttachedCard
  amount : Nat
  coins : Vector Nat 4
deriving DecidableEq, Repr

/-- The coins left to pay: by denomination, largest first, or by tube (R131). -/
inductive CoinsLeft where
  | byValue (coins : List (Nat × Nat))
  | byTube (coins : Vector Nat 4)
deriving DecidableEq, Repr

/-- The coin in the air and the end of its confirm window (R132, R134). -/
structure AirCoin where
  tube : Fin 4
  value : Nat
  retried : Bool
  window : Nat
deriving DecidableEq, Repr

/-- The payout in flight (R131 to R135). `pulse` is the tube whose running ejector pulse the next coin waits for. -/
structure Payout where
  entry : PayEntry
  due : Nat
  paid : Nat
  left : CoinsLeft
  coinsPaid : Vector Nat 4
  emptyEvents : Nat
  air : Option AirCoin
  pulse : Option (Fin 4)
deriving DecidableEq, Repr

/-- The claimants of the load arbiter (R143). -/
inductive Claimant where
  | compressor | heater | drive | payout
deriving DecidableEq, Repr

/-- A claim, waiting or granted, and its size in load units (R142). -/
structure Claim where
  claimant : Claimant
  size : Nat
deriving DecidableEq, Repr

/-- The states of a temperature channel (R154). -/
inductive ChannelState where
  | unseeded | valid | fault | disabled
deriving DecidableEq, Repr

/-- A temperature channel: the filter state S and the two counts (R153, R154). -/
structure TempChannel where
  state : ChannelState
  filter : Int
  invalidCount : Nat
  validCount : Nat
deriving DecidableEq, Repr

/-- The setpoint and the differential as the last sample took them (R157, R168). -/
structure Thermostat where
  setpoint : Int
  differential : Nat
deriving DecidableEq, Repr

/-- The compressor states (R157). -/
inductive CompressorState where
  | offResting | offIdle | claiming | starting | running
deriving DecidableEq, Repr

/-- The compressor and its minimum off, minimum on and start window timers (R157, R158). -/
structure Compressor where
  state : CompressorState
  minOff : Option Nat
  minOn : Option Nat
  window : Option Nat
deriving DecidableEq, Repr

/-- Fallback cycling (R159): the phase and the end of its timer. -/
structure Fallback where
  on : Bool
  ends : Nat
deriving DecidableEq, Repr

/-- The defrost states (R161). -/
inductive DefrostState where
  | notDue | due | claimingHeat | heating | offCycle | draining
deriving DecidableEq, Repr

/-- The result of a defrost, kept for the DEFROST_NOW card (R164); `evap` is none for NO_READING. -/
structure DefrostResult where
  kind : CardOutcome
  seconds : Nat
  evap : Option Int
deriving DecidableEq, Repr

/-- The defrost state machine (R161 to R165, R169): the 60-minute count and whether it has run out, the defrost, drip and
grace timers, the DEFROST_TIMEOUT flag, the result kept and the DEFROST_NOW held. -/
structure Defrost where
  state : DefrostState
  forcedAt : Option Nat
  forced : Bool
  startedAt : Nat
  timer : Option Nat
  drip : Option Nat
  grace : Option Nat
  timeoutFlag : Bool
  result : Option DefrostResult
  card : Option Nat
deriving DecidableEq, Repr

/-- The store states (R179). -/
inductive StoreState where
  | ok | saving | lost
deriving DecidableEq, Repr

/-- A held STORE or SNAPSHOT; `covered` says that a save that began in or after its take is in progress (R183). -/
structure HeldSave where
  slot : Nat
  covered : Bool
deriving DecidableEq, Repr

/-- The stored image (R178): its records, its CRC and the mark that it is incomplete. -/
structure StoredImage where
  records : Image
  crc : Half
  incomplete : Bool
deriving DecidableEq, Repr

/-- The persistent store (R178, R179, R183). `capture` is what the save in progress writes, and `ends` the end of the 200 ms
it may take. -/
structure Store where
  state : StoreState
  mark : Bool
  stored : StoredImage
  capture : Option Image
  ends : Option Nat
  heldStore : Option HeldSave
  heldSnapshot : Option HeldSave
deriving DecidableEq, Repr

/-- What the clock brings out on data out for the rest of an assertion of chip select: the bytes of a MEMORY READ, `next` the
address of the one that follows and `captured` what is left to send of a captured field (R22), or 0x00 after a port reset
has discarded the transaction (R47). -/
inductive Reading where
  | bytes (next : Half) (captured : List Byte)
  | discarded
deriving DecidableEq, Repr

/-- The state of the part. `pending` is the queue of commands that wait, `now` the millisecond clock, and `missedAt` the moment
of the last expiry of a confirm window, which says whether a coin comes together with it (R133, notes/assumptions/49.md). -/
structure State where
  pending : List Instr
  now : Nat
  ready : Bool
  pfail : Pfail
  reason : RestartReason
  storeLost : Bool
  mem : List Host.Cell
  dataOut : List Byte
  reading : Option Reading
  refused : Nat
  intake : List Nat
  noticePending : BitVec 9
  noticeMask : BitVec 9
  sup : Supervision
  door : DoorState
  spirals : Vector Spiral 80
  moneySet : MoneySettings
  vendSet : VendSettings
  loadSet : LoadSettings
  portSet : PortSettings
  coolSet : CoolingSettings
  channels : Vector Channel 6
  tubes : Vector Tube 4
  credit : Nat
  held : Nat
  exactOnly : Bool
  guaranteed : Nat
  vendQueue : List QueueEntry
  flight : Option Flight
  basket : Option Basket
  driveFaulted : Bool
  rev : Option Revolution
  camLevel : Vector CamLevel 80
  offCheck : Option OffCheck
  drop : DropSensor
  payQueue : List PayEntry
  returnMark : Option Origin
  payout : Option Payout
  ejectors : Vector (Option Nat) 4
  spent : PulseInputs
  missedAt : Option Nat
  waiting : List Claim
  grants : List Claim
  cabA : TempChannel
  cabB : TempChannel
  evap : TempChannel
  nextSample : Option Nat
  airflow : Bool
  aboveCount : Nat
  withinCount : Nat
  thermostat : Thermostat
  comp : Compressor
  fallback : Option Fallback
  defrost : Defrost
  runTime : Nat
  runSecond : Option Nat
  zone : ZoneState
  exposure : Nat
  store : Store
  live : Counters
  snap : Counters
deriving DecidableEq, Repr

/-- The part has no faults: the manual gives every command an effect in every state, and no access to the exchange memory
stops the part (R19: a read beyond it returns 0x00, a write beyond it is discarded). No command raises one: safe. -/
inductive Fault where
deriving DecidableEq, Repr

/-- Why a command is turned away. -/
inductive Refusal where
  /-- A command whose meaning is not modelled yet, by the row's mnemonic. Raised by an arm of exec alone; safe. -/
  | notModelled (mnemonic : String)
deriving DecidableEq, Repr

/-- The part right after reset: a POWER_ON restart that found no valid image (R181), its sequence just finished. The
switch levels, the cams and the clock are the model's choice (notes/assumptions/4.md). -/
def State.reset : State :=
  { pending := [], now := 0, ready := true, pfail := .clear, reason := .powerOn, storeLost := true,
    mem := [], dataOut := [], reading := none, refused := 0, intake := [],
    noticePending := NoticeClass.restart.bit, noticeMask := 0x1FF,
    sup := { alive := false, reference := 0, period := none, silentReturn := none },
    door := .closed, spirals := Vector.replicate 80 .factory,
    moneySet := .factory, vendSet := .factory, loadSet := .factory, portSet := .factory, coolSet := .factory,
    channels := Vector.replicate 6 .factory, tubes := Vector.replicate 4 .factory,
    credit := 0, held := 0, exactOnly := true, guaranteed := 0,
    vendQueue := [], flight := none, basket := none, driveFaulted := true, rev := none,
    camLevel := Vector.replicate 80 .closed, offCheck := none,
    drop := { blocked := false, fault := false, latch := false, since := 0 },
    payQueue := [], returnMark := none, payout := none, ejectors := Vector.replicate 4 none, spent := .idle,
    missedAt := none, waiting := [], grants := [],
    cabA := { state := .unseeded, filter := 0, invalidCount := 0, validCount := 0 },
    cabB := { state := .disabled, filter := 0, invalidCount := 0, validCount := 0 },
    evap := { state := .unseeded, filter := 0, invalidCount := 0, validCount := 0 },
    nextSample := some 1000, airflow := false, aboveCount := 0, withinCount := 0,
    thermostat := { setpoint := 30, differential := 20 },
    comp := { state := .offResting, minOff := some 180000, minOn := none, window := none },
    fallback := none,
    defrost := { state := .notDue, forcedAt := none, forced := false, startedAt := 0, timer := none, drip := none,
                 grace := none, timeoutFlag := false, result := none, card := none },
    runTime := 0, runSecond := none, zone := .locked, exposure := 0,
    store := { state := .lost, mark := false, stored := { records := .factory, crc := 0, incomplete := true },
               capture := none, ends := none, heldStore := none, heldSnapshot := none },
    live := (Vector.replicate 26 0).set 25 1, snap := Vector.replicate 26 0 }

end Sys2Proof.Machine
end

