-- ==== Sys2Proof/Machine/Memory.lean ====
section
/-! DEFINITION. The stored bytes of the exchange memory: the host words and the card pool (R19, R27). The other areas show
state that other blocks hold, and Machine/View.lean computes them. A byte that is not listed reads 0x00, to which every
restart clears the memory (R20). -/

namespace Sys2Proof.Machine

/-- The stored byte at an address. -/
def readCell : List Host.Cell → Nat → Byte
  | [], _ => 0
  | (a, b) :: rest, addr => if a = addr then b else readCell rest addr

/-- Stores a byte, keeping the addresses rising and listing no byte that is 0x00. -/
def writeCell : List Host.Cell → Nat → Byte → List Host.Cell
  | [], addr, v => if v = 0 then [] else [(addr, v)]
  | (a, b) :: rest, addr, v =>
    if addr < a then (if v = 0 then (a, b) :: rest else (addr, v) :: (a, b) :: rest)
    else if addr = a then (if v = 0 then rest else (addr, v) :: rest)
    else (a, b) :: writeCell rest addr v

/-- Stores bytes one after the other from an address onward. -/
def writeCells : List Host.Cell → Nat → List Byte → List Host.Cell
  | m, _, [] => m
  | m, addr, v :: rest => writeCells (writeCell m addr v) (addr + 1) rest

/-- The canonical form from an address onward: rising addresses, no byte 0x00. -/
def wfFrom : Nat → List Host.Cell → Bool
  | _, [] => true
  | low, (a, b) :: rest => decide (low ≤ a) && b != 0 && wfFrom (a + 1) rest

/-- The canonical form of the stored bytes. -/
def Memory.wf (m : List Host.Cell) : Bool := wfFrom 0 m

/-! ## Slots -/

/-- The address of byte `off` of slot `slot` (R19). -/
def slotAddr (slot off : Nat) : Nat := 0x0400 + 64 * slot + off

def State.slotByte (s : State) (slot off : Nat) : Nat := (readCell s.mem (slotAddr slot off)).toNat

def State.slotHalf (s : State) (slot off : Nat) : Nat := s.slotByte slot off + 256 * s.slotByte slot (off + 1)

/-- Writes bytes into a slot from offset `off` onward. -/
def State.putSlot (s : State) (slot off : Nat) (bytes : List Byte) : State :=
  { s with mem := writeCells s.mem (slotAddr slot off) bytes }

/-- The holder of a slot (R27). -/
def State.holder (s : State) (slot : Nat) : Holder := (Holder.ofCode (s.slotByte slot 0)).getD .free

def State.setHolder (s : State) (slot : Nat) (h : Holder) : State :=
  s.putSlot slot 0 [BitVec.ofNat 8 h.code]

/-- The kind of the card in a slot, if its code names one (R37). -/
def State.cardKind (s : State) (slot : Nat) : Option CardKind := CardKind.ofCode (s.slotByte slot 1)

/-- The QUIET flag of a card (2.7.1). -/
def State.quiet (s : State) (slot : Nat) : Bool := s.slotByte slot 5 % 2 == 1

end Sys2Proof.Machine
end

