-- ==== Sys2Proof/Machine/Solver.lean ====
section
/-! DEFINITION. The change solver (spec/07): denominations, availabilities, the exact solution, best-under, plans and the
exact-change status. -/

namespace Sys2Proof.Machine

/-- The last of `k`, k − 1, …, 0 at which `f` answers, tried downward: the order of every search of R117 and R119. -/
def firstDown {β : Type} (f : Nat → Option β) : Nat → Option β
  | 0 => f 0
  | k + 1 => match f (k + 1) with
    | some x => some x
    | none => firstDown f k

/-- Puts a value into a list ordered largest first, once. -/
def insertValue (v : Nat) : List Nat → List Nat
  | [] => [v]
  | w :: rest => if w < v then v :: w :: rest else if w = v then w :: rest else w :: insertValue v rest

/-- The denomination values, largest first, equal values merged, tubes of value 0 left out (R115). -/
def denominations (tubes : Vector Tube 4) : List Nat :=
  tubes.toList.foldr (fun t l => if t.value = 0 then l else insertValue t.value l) []

/-- The number of coins of value `v` that a pass may use, tube by tube (R116). -/
def availability (share : Tube → Nat) (tubes : Vector Tube 4) (v : Nat) : Nat :=
  (tubes.toList.map fun t => if t.value = v then share t else 0).sum

/-- A tube's part in pass 1: its reserve is kept, and the part is floored at 0 (R116). -/
def keptShare (t : Tube) : Nat := t.count - t.reserve

/-- Value and availability of each denomination in pass 1, reserve kept (R116). -/
def pass1 (tubes : Vector Tube 4) : List (Nat × Nat) :=
  (denominations tubes).map fun v => (v, availability keptShare tubes v)

/-- Value and availability of each denomination in pass 2, the full counts (R116). -/
def pass2 (tubes : Vector Tube 4) : List (Nat × Nat) :=
  (denominations tubes).map fun v => (v, availability Tube.count tubes v)

/-- The exact solution of an amount, by the search of R117: the coin numbers in the order of the denominations. -/
def exactSolution : List (Nat × Nat) → Nat → Option (List Nat)
  | [], amount => if amount = 0 then some [] else none
  | (v, a) :: rest, amount =>
    firstDown (fun k => (exactSolution rest (amount - k * v)).map (k :: ·)) (min a (amount / v))

/-- An amount is payable when it has an exact solution in pass 1 or in pass 2 (R121). -/
def payable (tubes : Vector Tube 4) (amount : Nat) : Bool :=
  (exactSolution (pass1 tubes) amount).isSome || (exactSolution (pass2 tubes) amount).isSome

/-- The best-under of an amount and its pass-2 exact solution (R119). -/
def bestUnder (tubes : Vector Tube 4) (amount : Nat) : Option (Nat × List Nat) :=
  firstDown (fun b => (exactSolution (pass2 tubes) b).map fun ks => (b, ks)) amount

/-- A plan (R122): coin numbers per denomination, largest first, the planned total and the RESERVE_USED mark. -/
structure Plan where
  coins : List (Nat × Nat)
  total : Nat
  reserveUsed : Bool
deriving DecidableEq, Repr

/-- Some coin number exceeds the pass-1 availability of its denomination (R122). -/
def usesReserve : List (Nat × Nat) → List Nat → Bool
  | (_, a) :: rest, k :: ks => decide (a < k) || usesReserve rest ks
  | _, _ => false

/-- The plan of an amount (R118, R122). -/
def planFor (tubes : Vector Tube 4) (amount : Nat) : Plan :=
  match exactSolution (pass1 tubes) amount with
  | some ks => { coins := (denominations tubes).zip ks, total := amount, reserveUsed := false }
  | none =>
    match exactSolution (pass2 tubes) amount with
    | some ks => { coins := (denominations tubes).zip ks, total := amount, reserveUsed := true }
    | none =>
      match bestUnder tubes amount with
      | some (b, ks) =>
        { coins := (denominations tubes).zip ks, total := b, reserveUsed := usesReserve (pass1 tubes) ks }
      | none => { coins := [], total := 0, reserveUsed := false }

/-- The amount has a solution that keeps the reserve. -/
def guaranteedAmountOk (tubes : Vector Tube 4) (amount : Nat) : Bool := (exactSolution (pass1 tubes) amount).isSome

/-- The exact-change flag (R123): set when an examined multiple of the smallest denomination has no pass-1 solution. -/
def exactChangeFlag (tubes : Vector Tube 4) (limit : Nat) : Bool :=
  match (denominations tubes).getLast? with
  | none => decide (0 < limit)
  | some g => (List.range (limit / g)).any fun i => !guaranteedAmountOk tubes ((i + 1) * g)

/-- The length of the unbroken run of `ok` that goes on from n, at most `fuel` steps. -/
def unbrokenRun (ok : Nat → Bool) : Nat → Nat → Nat
  | 0, n => n
  | fuel + 1, n => if ok (n + 1) then unbrokenRun ok fuel (n + 1) else n

/-- The guaranteed amount (R124). -/
def guaranteedAmount (tubes : Vector Tube 4) (limit : Nat) : Nat :=
  match (denominations tubes).getLast? with
  | none => 0
  | some g => g * unbrokenRun (fun n => guaranteedAmountOk tubes (n * g)) (limit / g) 0

end Sys2Proof.Machine
end

