-- ==== Sys2Proof/Machine/Ops.lean ====
section
/-! DEFINITION. The operations that the blocks share: notices, audit counters, the credit record, spiral records, card
completion, saves of the image, the exact-change status, and the temperatures. -/

namespace Sys2Proof.Machine

/-- The blocks are at work: the port is ready and PFAIL has not been asserted since the restart (R25, R180). -/
def State.working (s : State) : Bool := s.ready && s.pfail == .clear

/-- The clock stands at `moment`, or later if it has passed it. -/
def State.reach (s : State) (moment : Nat) : State := { s with now := max s.now moment }

/-- `ms` milliseconds pass. -/
def State.wait (s : State) (ms : Nat) : State := { s with now := s.now + ms }

/-! ## Notices and refused writes -/

/-- An event raises a class: its pending flag is set, whatever the mask (R41). During a restart sequence none is (R45). -/
def raise (c : NoticeClass) (s : State) : State :=
  if s.ready then { s with noticePending := s.noticePending ||| c.bit } else s

/-- A refusal is counted and raises PORT (R26). -/
def countRefused (s : State) : State := raise .port { s with refused := min 255 (s.refused + 1) }

/-! ## Audit and credit -/

/-- Adds to a live audit counter, which wraps (R182). -/
def count (c : Counter) (n : Nat) (s : State) : State :=
  { s with live := s.live.set c.index (s.live[c.index] + BitVec.ofNat 32 n) }

/-- The available credit C − H (R105). -/
def State.available (s : State) : Nat := s.credit - s.held

/-- Writes C and H and raises MONEY (R105). -/
def putCredit (c h : Nat) (s : State) : State := raise .money { s with credit := c, held := h }

/-! ## Spiral records -/

/-- A tracked stock of 0 together with READY does not persist: the state becomes SOLD_OUT instead (R12). -/
def Spiral.settled (r : Spiral) : Spiral :=
  if r.state = .ready ∧ r.stock = 0 then { r with state := .soldOut } else r

/-- Writes a spiral record; a change of its state or role raises SPIRAL (R9). -/
def putSpiral (i : Fin 80) (r : Spiral) (s : State) : State :=
  let old := s.spirals[i]
  let s' := { s with spirals := s.spirals.set i r }
  if old.state = r.state ∧ old.role = r.role then s' else raise .spiral s'

/-- The spiral at the next column, the partner of a lead (R5). -/
def nextSpiral (i : Fin 80) : Fin 80 := if h : i.val + 1 < 80 then ⟨i.val + 1, h⟩ else i

/-- The spirals a selection energises: the one of a single, both of a twin (R81). -/
def selection (i : Fin 80) (twin : Bool) : List (Fin 80) := if twin then [i, nextSpiral i] else [i]

/-- The column of a spiral, counted from 0 (R1). -/
def columnOf (i : Fin 80) : Fin 10 := ⟨i.val % 10, by omega⟩

/-- The row of a spiral, counted from 0 (R1). -/
def rowOf (i : Fin 80) : Fin 8 := ⟨i.val / 10, by omega⟩

/-- The spiral a number from 1 to 80 names (R1). -/
def spiralOf (n : Nat) : Option (Fin 80) := if h : 1 ≤ n ∧ n ≤ 80 then some ⟨n - 1, by omega⟩ else none

/-- The mirrored write of R5: price, zone, state and stock of the lead go to its follower. -/
def mirror (i : Fin 80) (s : State) : State :=
  let lead := s.spirals[i]
  let partner := s.spirals[nextSpiral i]
  putSpiral (nextSpiral i)
    { partner with price := lead.price, zone := lead.zone, state := lead.state, stock := lead.stock } s

/-- Sets or clears the in-flight flag on every record of a selection (R13). -/
def setInFlight (b : Bool) : List (Fin 80) → State → State
  | [], s => s
  | i :: rest, s => setInFlight b rest (putSpiral i { s.spirals[i] with inFlight := b } s)

/-! ## Cards -/

/-- Completes a card: its outcome is written, then its holder becomes DONE, and CARDS is raised unless QUIET (R29). -/
def complete (slot : Nat) (o : CardOutcome) (s : State) : State :=
  let s := (s.putSlot slot 6 (leBytes o.code 2)).setHolder slot .done
  if s.quiet slot then s else raise .cards s

/-- A move to TAKEN: the outcome is NONE and the result body zero, in the same step (R29). -/
def takeSlot (slot : Nat) (s : State) : State :=
  ((s.setHolder slot .taken).putSlot slot 6 [0, 0]).putSlot slot 40 (List.replicate 24 0)

/-- What a 2-byte field holds of a number: the number itself up to 65,535; above that the manual gives no value. -/
def field16 (n : Nat) : Nat := if n < 65536 then n else (Config.wideField n).toNat

/-- Writes a 2-byte result field. -/
def putHalf (slot off n : Nat) (s : State) : State := s.putSlot slot off (leBytes (field16 n) 2)

/-- The value 65,535 of the drop seen time: no drop was seen (2.7.2). -/
def dropTimeField (t : Option Nat) : Nat :=
  match t with
  | none => 65535
  | some t => field16 t

/-- The result fields of a VEND as it ends (R55): charged amount, revolutions made and drop seen time. -/
def putVendResult (slot charged revolutions : Nat) (drop : Option Nat) (s : State) : State :=
  (putHalf slot 40 charged s).putSlot slot 42
    (BitVec.ofNat 8 revolutions :: 0 :: leBytes (dropTimeField drop) 2)

/-! ## Saves (R179) -/

/-- The records of the image as they stand (R178). -/
def State.image (s : State) : Image :=
  { money := s.moneySet, vend := s.vendSet, load := s.loadSet, port := s.portSet, cooling := s.coolSet,
    spirals := s.spirals.map Spiral.saved, channels := s.channels, tubes := s.tubes.map Tube.saved, credit := s.credit,
    zone := s.zone, exposure := s.exposure, driveFaulted := s.driveFaulted, runTime := s.runTime, live := s.live,
    snapshot := s.snap }

/-- The CRC that a save writes (R178): over the image's bytes in storage order. -/
def imageCrc (i : Image) : Half := crc16 (Config.imageBytes i)

/-- The stored image, if it is valid (R178): not marked incomplete, its CRC that of its records. -/
def Store.image (st : Store) : Option Image :=
  if st.stored.incomplete then none
  else if st.stored.crc = imageCrc st.stored.records then some st.stored.records else none

/-- A save that begins covers the cards held at that moment (R183). -/
def HeldSave.cover (h : HeldSave) : HeldSave := { h with covered := true }

/-- A save begins, or begins again: it captures every record, and the stored image is marked incomplete until it completes.
The model's choice (notes/assumptions/36.md): a restart during the save therefore finds no image (R178), where R91 speaks of
the last completed save. -/
def beginSave (s : State) : State :=
  { s with store := { s.store with state := .saving, stored := { s.store.stored with incomplete := true }, capture := some s.image,
                                   ends := some (s.now + 200),
                                   heldStore := s.store.heldStore.map HeldSave.cover,
                                   heldSnapshot := s.store.heldSnapshot.map HeldSave.cover } }

/-- A save is scheduled or requested: it begins when the store is idle, and sets the pending-save mark otherwise. -/
def requestSave (s : State) : State :=
  if s.store.state = .saving then { s with store := { s.store with mark := true } } else beginSave s

/-- A settings card, TUBE_FILL, RELEASE_ZONE or RESUME_DRIVE that ends OK: it completes and schedules a save (R35). -/
def completeOk (slot : Nat) (s : State) : State := requestSave (complete slot .ok s)

/-! ## Change solver -/

/-- The exact-change status is computed anew and written; a change of the flag raises MONEY (R125). -/
def recomputeChange (s : State) : State :=
  let f := exactChangeFlag s.tubes s.moneySet.guaranteeLimit
  let s' := { s with exactOnly := f, guaranteed := guaranteedAmount s.tubes s.moneySet.guaranteeLimit }
  if f = s.exactOnly then s' else raise .money s'

/-- A plan is handed over; one marked RESERVE_USED raises MONEY (R122). -/
def handOverPlan (p : Plan) (s : State) : State := if p.reserveUsed then raise .money s else s

/-- Writes a tube record. -/
def putTube (t : Fin 4) (r : Tube) (s : State) : State := { s with tubes := s.tubes.set t r }

/-- Sets or clears the payout-busy marker on all four tube records (R98). -/
def setBusy (b : Bool) (s : State) : State := { s with tubes := s.tubes.map fun t => { t with busy := b } }

/-! ## Temperatures -/

/-- The reported value F of a filter state (R153). -/
def reported (filter : Int) : Int := (filter + 8) / 16

/-- The reading of a channel: its F while it is VALID (R153). -/
def TempChannel.reading (c : TempChannel) : Option Int :=
  if c.state = .valid then some (reported c.filter) else none

/-- The control temperature (R155). -/
def State.controlTemp (s : State) : Option Int :=
  match s.cabA.reading with
  | some f => some f
  | none => s.cabB.reading

/-- The safety temperature (R155). -/
def State.safetyTemp (s : State) : Option Int :=
  match s.cabA.reading, s.cabB.reading with
  | some a, some b => some (max a b)
  | some a, none => some a
  | none, b => b

/-- Warm (R171): the safety temperature is above the safe limit, or there is none. -/
def State.warm (s : State) : Bool :=
  match s.safetyTemp with
  | none => true
  | some t => decide (s.coolSet.safeLimit < t)

/-- A defrost is in progress (R161). -/
def Defrost.inProgress (d : Defrost) : Bool :=
  match d.state with
  | .notDue => false | .due => false | .claimingHeat => true | .heating => true | .offCycle => true | .draining => true

/-- Paused (R171): a defrost is in progress, or the recovery grace is running. -/
def State.paused (s : State) : Bool := s.defrost.inProgress || s.defrost.grace.isSome

/-- CHILLED selections may be sold (R176). -/
def State.zoneSells (s : State) : Bool := s.zone == .safe || s.zone == .exposed

/-- The outcome of a vend that the zone state turns away (R176). -/
def zoneRefusal (z : ZoneState) : CardOutcome := if z = .locked then .zoneLocked else .zoneUnverified

end Sys2Proof.Machine
end

