-- ==== Sys2Proof/Machine/Claims.lean ====
section
/-! DEFINITION. The load arbiter's list of waiting claims and its grants (spec/09). Who acts on a grant, and the judgement of
the head, stand in Machine/Load.lean. An operation of this file and of the blocks below Load.lean takes the judgement as its
argument `judge`, and calls it where the manual says that the head is judged. -/

namespace Sys2Proof.Machine

/-- The sum of the units granted (R142). -/
def State.granted (s : State) : Nat := (s.grants.map Claim.size).sum

/-- The claimant holds a grant. -/
def State.hasGrant (s : State) (c : Claimant) : Bool := s.grants.any fun g => g.claimant == c

/-- A claim joins the tail of the wait list and is judged (R144). -/
def placeClaim (judge : State → State) (c : Claimant) (size : Nat) (s : State) : State :=
  judge { s with waiting := s.waiting ++ [⟨c, size⟩] }

/-- The claimant withdraws its claim if it waits, releases its grant if it holds one, and the head is judged (R147). -/
def giveUp (judge : State → State) (c : Claimant) (s : State) : State :=
  judge { s with waiting := s.waiting.filter fun w => w.claimant != c,
                 grants := s.grants.filter fun g => g.claimant != c }

/-- The compressor's grant shrinks to the lesser of its size and the run size, and the head is judged (R146). -/
def shrinkStart (judge : State → State) (s : State) : State :=
  judge { s with grants := s.grants.map fun g =>
    if g.claimant = .compressor then { g with size := min g.size s.loadSet.runSize } else g }

/-- The size of a claim placed now (R142); the twin size is twice the single size. -/
def claimSize (l : LoadSettings) (twin : Bool) : Claimant → Nat
  | .compressor => l.startSize
  | .heater => l.heaterSize
  | .drive => if twin then 2 * l.singleSize else l.singleSize
  | .payout => l.payoutSize

end Sys2Proof.Machine
end

