-- ==== Sys2Proof/Machine/Cooling.lean ====
section
/-! DEFINITION. The temperature front end, the compressor, fallback cycling, the defrost and the zone safety monitor
(spec/10, spec/11). -/

namespace Sys2Proof.Machine

/-- The relay of the compressor state is closed (R157). -/
def CompressorState.runs : CompressorState → Bool
  | .starting => true | .running => true | .offResting => false | .offIdle => false | .claiming => false

/-! ## Defrost -/

/-- The compressor enters OFF_RESTING with its minimum off timer started in full (R158). -/
def restCompressor (s : State) : State :=
  { s with comp := { state := .offResting, minOff := some (s.now + 1000 * s.coolSet.minOff), minOn := none, window := none },
           runSecond := none }

/-- A defrost starts (R162): the compressor's claim is withdrawn or its grant released, it stands in OFF_RESTING with no
timer, the accumulator is cleared, the grace stopped, and the defrost timer starts. -/
def startDefrost (judge : State → State) (s : State) : State :=
  let s := { s with comp := { state := .offResting, minOff := none, minOn := none, window := none }, runSecond := none }
  let s := giveUp judge .compressor s
  let s := { s with runTime := 0,
                    defrost := { s.defrost with state := .offCycle, forcedAt := none, forced := false, startedAt := s.now,
                                                timer := some (s.now + 60000 * s.coolSet.maxDuration), grace := none } }
  match s.coolSet.defrostType with
  | .offCycle => s
  | .heater =>
    placeClaim judge .heater s.loadSet.heaterSize { s with defrost := { s.defrost with state := .claimingHeat } }

/-- A defrost in NOT_DUE becomes DUE, and the 60 minutes begin (R161, R162). -/
def callDefrost (s : State) : State :=
  if s.defrost.state = .notDue then
    { s with defrost := { s.defrost with state := .due, forcedAt := some (s.now + 3600000), forced := false } }
  else s

/-- A DUE defrost starts unless the compressor runs (R162). -/
def startIfOff (judge : State → State) (s : State) : State :=
  if s.defrost.state = .due ∧ s.comp.state.runs = false then startDefrost judge s else s

/-- The defrost becomes DUE (R161, R162): it starts at once unless the compressor runs. -/
def becomeDue (judge : State → State) (s : State) : State := startIfOff judge (callDefrost s)

/-- The accumulator has reached the interval (R161). -/
def State.intervalReached (s : State) : Bool :=
  s.coolSet.defrostInterval != 0 && decide (s.coolSet.defrostInterval * 3600 ≤ s.runTime)

/-- The judgement of R161 without the start that R162 makes of it. -/
def callIfReached (s : State) : State := if s.intervalReached then callDefrost s else s

/-- The largest value of the run-time accumulator (R161). -/
def maxRunTime : Nat := 4294967295

/-- The whole seconds of running that have passed and are not counted yet (R161). -/
def State.secondsDue (s : State) : Nat :=
  match s.runSecond with
  | some t => if t ≤ s.now then (s.now - t) / 1000 + 1 else 0
  | none => 0

/-- The accumulator counts the seconds that are whole as the relay opens (R161), and the interval is judged on the change.
DEDUCED (notes/assumptions/20.md): a last second that is not whole is dropped. -/
def settleRun (s : State) : State :=
  if s.secondsDue = 0 then s
  else callIfReached { s with runTime := min maxRunTime (s.runTime + s.secondsDue),
                              runSecond := s.runSecond.map (· + 1000 * s.secondsDue) }

/-- The judgement of R161, made whenever the accumulator or the interval changes. -/
def judgeDue (judge : State → State) (s : State) : State :=
  if s.intervalReached then becomeDue judge s else s

/-- The result fields of a DEFROST_NOW (R169). -/
def putDefrostResult (slot : Nat) (r : DefrostResult) (s : State) : State :=
  (putHalf slot 40 r.seconds s).putSlot slot 42 (leBytes (unsigned16 (r.evap.getD (-32768))) 2)

/-- A held DEFROST_NOW completes with the kind of the defrost (R165, R169). -/
def completeDefrostCard (s : State) : State :=
  match s.defrost.card, s.defrost.result with
  | some slot, some r =>
    complete slot r.kind (putDefrostResult slot r { s with defrost := { s.defrost with card := none } })
  | _, _ => s

/-- DRAINING ends (R165). -/
def endDraining (s : State) : State :=
  let s := restCompressor s
  completeDefrostCard
    { s with defrost := { s.defrost with state := .notDue, drip := none,
                                         grace := if s.coolSet.recoveryGrace = 0 then none
                                                  else some (s.now + 60000 * s.coolSet.recoveryGrace) } }

/-- The seconds from the start of a defrost to now (R164); a broken last second is left open. -/
def defrostSeconds (s : State) : Nat :=
  let ms := s.now - s.defrost.startedAt
  if ms % 1000 = 0 then ms / 1000 else ms / 1000 + flag (Config.defrostRoundsUp ms)

/-- A defrost ends by temperature or by time (R164): the heater is switched off and its load given up, DRAINING begins, and
a drip time of 0 ends it in the same step (R165). -/
def endDefrost (judge : State → State) (byTime : Bool) (s : State) : State :=
  let result : DefrostResult :=
    { kind := if byTime then .timedOut else .complete, seconds := defrostSeconds s, evap := s.evap.reading }
  let s := { s with defrost := { s.defrost with state := .draining, timer := none, timeoutFlag := byTime,
                                                drip := some (s.now + 60000 * s.coolSet.dripTime),
                                                result := some result } }
  let s := giveUp judge .heater s
  let s := if byTime then raise .cooling s else s
  if s.coolSet.dripTime = 0 then endDraining s else s

/-- The defrost can end by its timer or by temperature (R164). -/
def Defrost.endable (d : Defrost) : Bool :=
  match d.state with
  | .claimingHeat => true | .heating => true | .offCycle => true | .notDue => false | .due => false | .draining => false

/-- The termination judgement of a sample (R164). -/
def judgeTermination (judge : State → State) (s : State) : State :=
  match s.evap.reading with
  | none => s
  | some f => if s.defrost.endable && decide (s.coolSet.termination ≤ f) then endDefrost judge false s else s

/-! ## Compressor -/

/-- The compressor places its start claim (R157). -/
def claimStart (judge : State → State) (s : State) : State :=
  placeClaim judge .compressor s.loadSet.startSize { s with comp := { s.comp with state := .claiming } }

/-- The compressor withdraws its claim and stands in OFF_IDLE (R157, R159). -/
def withdrawStart (judge : State → State) (s : State) : State :=
  giveUp judge .compressor { s with comp := { s.comp with state := .offIdle } }

/-- The cut-out (R157, R159): the relay is opened and the grant released, the run is counted (R161), then a DUE defrost starts
or the compressor rests. -/
def cutOut (judge : State → State) (s : State) : State :=
  let s := settleRun s
  if s.defrost.state = .due then startDefrost judge s else giveUp judge .compressor (restCompressor s)

/-- The compressor acts on its grant (R157, R158, R161). -/
def compressorGranted (s : State) : State :=
  { s with comp := { s.comp with state := .starting, minOn := some (s.now + 1000 * s.coolSet.minOn),
                                 window := some (s.now + 1000 * s.coolSet.startWindow) },
           runSecond := some (s.now + 1000) }

/-- The heater acts on its grant (R163). -/
def heaterGranted (s : State) : State := { s with defrost := { s.defrost with state := .heating } }

/-- The control temperature is at or above the cut-in point SP + D, as the last sample took them (R157, R168). -/
def State.cutInReached (s : State) : Bool :=
  match s.controlTemp with
  | none => false
  | some t => decide (s.thermostat.setpoint + s.thermostat.differential ≤ t)

/-- The control temperature is at or below SP, as the last sample took it (R157, R168). -/
def State.cutOutReached (s : State) : Bool :=
  match s.controlTemp with
  | none => false
  | some t => decide (t ≤ s.thermostat.setpoint)

/-- The thermostat at a sample, outside fallback (R157). -/
def thermostat (judge : State → State) (s : State) : State :=
  match s.comp.state with
  | .offIdle => if s.cutInReached then claimStart judge s else s
  | .claiming => if s.cutInReached then s else withdrawStart judge s
  | .running => if s.comp.minOn.isNone && s.cutOutReached then cutOut judge s else s
  | .offResting => s
  | .starting => s

/-- Entry into OFF_IDLE at the expiry of the minimum off timer: cut-in is judged at once (R157), or by the phase in fallback
(R159). The model's choice (notes/assumptions/39.md): at once also between the end of fallback and the next sample. -/
def enterIdle (judge : State → State) (s : State) : State :=
  let s := { s with comp := { s.comp with state := .offIdle, minOff := none } }
  let cutIn := match s.fallback with
    | some f => f.on
    | none => s.cutInReached
  if cutIn then claimStart judge s else s

/-- The expiry of the minimum on timer (R157, R159, R162): a forced stop that waited for it, or the cut-out. The model's choice
(notes/assumptions/39.md): the thermostat judges it also between the end of fallback and the next sample. -/
def minOnEnds (judge : State → State) (s : State) : State :=
  let s := { s with comp := { s.comp with minOn := none } }
  if s.comp.state ≠ .running then s
  else if s.defrost.state = .due ∧ s.defrost.forced then startDefrost judge s
  else
    let out := match s.fallback with
      | some f => !f.on
      | none => s.cutOutReached
    if out then cutOut judge s else s

/-- The 60 minutes of a DUE defrost have run out (R162). -/
def forcedStop (judge : State → State) (s : State) : State :=
  if s.comp.minOn.isNone then startDefrost judge s
  else { s with defrost := { s.defrost with forcedAt := none, forced := true } }

/-- The start of a fallback phase (R159). -/
def phaseStarts (judge : State → State) (on : Bool) (s : State) : State :=
  let s := { s with fallback := some { on := on, ends := s.now + 900000 } }
  match s.comp.state, on with
  | .offIdle, true => claimStart judge s
  | .claiming, false => withdrawStart judge s
  | .running, false => if s.comp.minOn.isNone then cutOut judge s else s
  | _, _ => s

/-- Fallback cycling is called for (R159): no control temperature, and neither cabinet channel UNSEEDED. -/
def State.fallbackCalled (s : State) : Bool :=
  s.controlTemp.isNone && s.cabA.state != .unseeded && s.cabB.state != .unseeded

/-- The compressor is in CLAIMING, STARTING or RUNNING. -/
def CompressorState.wanted : CompressorState → Bool
  | .claiming => true | .starting => true | .running => true | .offResting => false | .offIdle => false

/-- Fallback cycling begins or ends (R159), raising COOLING. -/
def updateFallback (s : State) : State :=
  match s.fallback, s.fallbackCalled with
  | none, true => raise .cooling { s with fallback := some { on := s.comp.state.wanted, ends := s.now + 900000 } }
  | some _, false => raise .cooling { s with fallback := none }
  | _, _ => s

/-! ## Front end -/

/-- The temperature of a valid code (R152); an invalid code gives none. -/
def convert (code : BitVec 12) (trim : Int) : Option Int :=
  if 16 ≤ code.toNat ∧ code.toNat ≤ 4079 then some (-400 + (code.toNat : Int) * 1500 / 4096 + trim) else none

/-- The filter update (R153); the division is floored. -/
def filterStep (k : Nat) (filter t : Int) : Int := filter + (16 * t - filter) / (2 ^ k : Nat)

/-- One sample of a channel (R153, R154). -/
def TempChannel.sampled (k : Nat) (t : Option Int) (c : TempChannel) : TempChannel :=
  match c.state, t with
  | .unseeded, some t => { state := .valid, filter := 16 * t, invalidCount := 0, validCount := 0 }
  | .unseeded, none =>
    if c.invalidCount + 1 < 3 then { c with invalidCount := c.invalidCount + 1 }
    else { c with state := .fault, invalidCount := 0, validCount := 0 }
  | .valid, some t => { c with filter := filterStep k c.filter t, invalidCount := 0 }
  | .valid, none =>
    if c.invalidCount + 1 < 3 then { c with invalidCount := c.invalidCount + 1 }
    else { c with state := .fault, invalidCount := 0, validCount := 0 }
  | .fault, some t =>
    if c.validCount + 1 < 3 then { c with validCount := c.validCount + 1 }
    else { state := .valid, filter := 16 * t, invalidCount := 0, validCount := 0 }
  | .fault, none => { c with validCount := 0 }
  | .disabled, _ => c

/-- The three channels take a sample; a change of a channel's state raises COOLING (R154). -/
def sampleChannels (codeA codeB codeE : BitVec 12) (s : State) : State :=
  let a := s.cabA.sampled s.coolSet.filterK (convert codeA s.coolSet.trimA)
  let b := s.cabB.sampled s.coolSet.filterK (convert codeB s.coolSet.trimB)
  let e := s.evap.sampled s.coolSet.filterK (convert codeE s.coolSet.trimEvap)
  let s' := { s with cabA := a, cabB := b, evap := e }
  if a.state = s.cabA.state ∧ b.state = s.cabB.state ∧ e.state = s.evap.state then s' else raise .cooling s'

/-- The airflow flag takes a value; a change raises COOLING (R156). -/
def setAirflow (b : Bool) (s : State) : State :=
  if s.airflow = b then s else raise .cooling { s with airflow := b }

/-- The spread of the cabinet channels is judged (R156). -/
def judgeSpread (s : State) : State :=
  match s.cabA.reading, s.cabB.reading with
  | some a, some b =>
    if s.coolSet.spreadLimit < (a - b).natAbs then
      let n := min 600 (s.aboveCount + 1)
      let s := { s with aboveCount := n, withinCount := 0 }
      if n = 600 then setAirflow true s else s
    else
      let n := min 600 (s.withinCount + 1)
      let s := { s with withinCount := n, aboveCount := 0 }
      if n = 600 then setAirflow false s else s
  | _, _ => { s with aboveCount := 0, withinCount := 0 }

/-! ## Zone safety monitor -/

/-- The zone state and E take new values; a change of the state raises ZONE (R172). -/
def putZone (z : ZoneState) (e : Nat) (s : State) : State :=
  let s' := { s with zone := z, exposure := e }
  if z = s.zone then s' else raise .zone s'

/-- Entry into LOCKED: E keeps its value, ZONE is raised, and a save begins in that step (R173, R174). -/
def lockZone (e : Nat) (s : State) : State := beginSave (putZone .locked e s)

/-- One warm and unpaused second more: E is compared with X, and the zone becomes LOCKED when it has reached it (R173). -/
def expose (z : ZoneState) (s : State) : State :=
  let e := min 65535 (s.exposure + 1)
  if s.coolSet.allowedExposure ≤ e then lockZone e s else putZone z e s

/-- The zone is judged at a sample (R171, R172). -/
def judgeZone (s : State) : State :=
  match s.zone with
  | .locked => s
  | .safe => if s.warm && !s.paused then putZone .exposed 1 s else s
  | .unverified => if !s.warm then putZone .safe 0 s else if s.paused then s else expose .unverified s
  | .exposed => if !s.warm then putZone .safe 0 s else if s.paused then s else expose .exposed s

/-- SP and D take effect from this sample (R168). -/
def takeSetpoint (s : State) : State :=
  { s with thermostat := { setpoint := s.coolSet.setpoint, differential := s.coolSet.differential } }

/-- One sample (R152): the channels, fallback and thermostat, the defrost, then the zone. The thermostat does not judge the
sample at which fallback ends (R159). -/
def takeSample (judge : State → State) (codeA codeB codeE : BitVec 12) (s : State) : State :=
  let s1 := judgeSpread (sampleChannels codeA codeB codeE (takeSetpoint s))
  let s2 := updateFallback s1
  let s3 := if s1.fallback.isSome || s2.fallback.isSome then s2 else thermostat judge s2
  judgeZone (judgeTermination judge s3)

end Sys2Proof.Machine
end

