-- ==== Sys2Proof/Machine/Requests.lean ====
section
/-! DEFINITION. Credit-return requests and the payout queue (R127 to R130). -/

namespace Sys2Proof.Machine

/-- The vend card completes with its vend outcome, its change fields 0 (R69); no other card is completed here. -/
def completeVendAtOnce (card : Option AttachedCard) (s : State) : State :=
  match card with
  | some ⟨slot, some o⟩ => complete slot o s
  | _ => s

/-- A card joins the waiting CREDIT_RETURN entry, which carries none (R129). -/
def attachCard (card : Option AttachedCard) : List PayEntry → List PayEntry
  | [] => []
  | e :: rest => if e.form = .creditReturn then { e with card := card } :: rest else e :: attachCard card rest

/-- The entry that a credit-return request forms (R128). -/
def creditReturnEntry (origin : Origin) (card : Option AttachedCard) : PayEntry :=
  { origin := origin, form := .creditReturn, card := card, amount := 0, coins := Vector.replicate 4 0 }

/-- A credit-return request is judged: merged, queued, answered or held as the pending-return mark (R129, R130). -/
def requestReturn (origin : Origin) (card : Option AttachedCard) (s : State) : State :=
  match s.payQueue.find? (fun e => e.form == .creditReturn) with
  | some waiting =>
    match waiting.card, card with
    | _, none => s
    | none, some _ => { s with payQueue := attachCard card s.payQueue }
    | some _, some ⟨slot, none⟩ => complete slot .alreadyQueued s
    | some _, some ⟨slot, some o⟩ => complete slot o s
  | none =>
    if s.payQueue.length < 4 then { s with payQueue := s.payQueue ++ [creditReturnEntry origin card] }
    else
      match card with
      | some ⟨slot, none⟩ => complete slot .queueFull s
      | _ => completeVendAtOnce card { s with returnMark := s.returnMark <|> some origin }

/-- A request without a card, made only when there is available credit (R50, R113). -/
def requestReturnIfAny (origin : Origin) (s : State) : State :=
  if 0 < s.available then requestReturn origin none s else s

end Sys2Proof.Machine
end

