-- ==== Sys2Proof/Machine/Payout.lean ====
section
/-! DEFINITION. The payout engine: starting, choosing and ejecting coins, confirming them, empty tubes and the end of a payout
(R131 to R138). -/

namespace Sys2Proof.Machine

/-- No coins are left to pay. -/
def CoinsLeft.none? : CoinsLeft → Bool
  | .byValue coins => coins.all fun c => c.2 == 0
  | .byTube coins => coins.toList.all (· == 0)

/-- The payout is paid in full: its value paid equals D, and for TUBE_LIST every coin named was paid (R135). -/
def Payout.inFull (p : Payout) : Bool :=
  if p.entry.form = .tubeList then p.coinsPaid == p.entry.coins else p.paid == p.due

/-- The retained amount of a CREDIT_RETURN (R135). -/
def retainedAmount (p : Payout) (s : State) : Nat := min (p.due - p.paid) s.available

/-- The result fields of the card a payout carries (R69, R135 to R138). -/
def putPayoutResult (p : Payout) (retained : Nat) (card : AttachedCard) (s : State) : State :=
  match card.vendOutcome, p.entry.form with
  | some _, _ => putHalf card.slot 48 retained (putHalf card.slot 46 p.paid s)
  | none, .creditReturn =>
    (putHalf card.slot 42 retained (putHalf card.slot 40 p.paid s)).putSlot card.slot 44
      [BitVec.ofNat 8 (min 255 p.emptyEvents)]
  | none, .amount => putHalf card.slot 42 (p.due - p.paid) (putHalf card.slot 40 p.paid s)
  | none, .tubeList =>
    (putHalf card.slot 40 p.paid s).putSlot card.slot 44 (p.coinsPaid.toList.map (BitVec.ofNat 8))

/-- A payout ends with outcome `o` (R135): the load is given up and the head judged, the markers are cleared, the audit block
is written, and the card the payout carries completes, a vend card with its vend outcome. -/
def endPayoutWith (judge : State → State) (o : CardOutcome) (s : State) : State :=
  match s.payout with
  | none => s
  | some p =>
    let s := setBusy false (giveUp judge .payout s)
    let retained := retainedAmount p s
    let s := if p.entry.form = .creditReturn then count .retained retained s else count .manualPayout p.paid s
    let s := raise .money { s with payout := none }
    match p.entry.card with
    | none => s
    | some card => complete card.slot (card.vendOutcome.getD o) (putPayoutResult p retained card s)

/-- A payout ends PAID or PARTIAL (R135). -/
def endPayout (judge : State → State) (s : State) : State :=
  match s.payout with
  | none => s
  | some p => endPayoutWith judge (if p.inFull then .paid else .partialPaid) s

/-- The coin may be ejected: for a CREDIT_RETURN its value is within the available credit (R132). -/
def withinCredit (p : Payout) (value : Nat) (s : State) : Bool :=
  p.entry.form != .creditReturn || decide (value ≤ s.available)

/-- Ejects a coin from a tube: the tube's ejector pulse of 100 ms starts and the confirm window of 400 ms opens (R132, R134).
The pulse runs its 100 ms whatever becomes of the payout; the model's choice (notes/assumptions/42.md): one that runs already
in the same tube starts anew. -/
def ejectFrom (t : Fin 4) (value : Nat) (retried : Bool) (p : Payout) (s : State) : State :=
  { s with payout := some { p with air := some { tube := t, value := value, retried := retried, window := s.now + 400 },
                                   pulse := some t },
           ejectors := s.ejectors.set t (some (s.now + 100)) }

/-- Of two tubes, the one with the higher count; the first on equal counts (R132). -/
def fullerTube (tubes : Vector Tube 4) (best : Option (Fin 4)) (t : Fin 4) : Option (Fin 4) :=
  match best with
  | none => some t
  | some b => if tubes[b].count < tubes[t].count then some t else some b

/-- The draw among the member tubes of a denomination (R132): the highest count, the lower number on equal counts, no tube
with count 0. -/
def drawTube (tubes : Vector Tube 4) (value : Nat) : Option (Fin 4) :=
  ([0, 1, 2, 3].filter fun t : Fin 4 => tubes[t].value = value ∧ 0 < tubes[t].count).foldl (fullerTube tubes) none

/-- The draw of a TUBE_LIST (R132): the lowest-numbered tube with coins left to pay and count above 0; the shares of the
lower tubes that hold no coin are ended. The model's choice (notes/assumptions/37.md): a share ends at this draw and not
before. -/
def drawShare (tubes : Vector Tube 4) : List (Fin 4) → Vector Nat 4 → Option (Fin 4) × Vector Nat 4
  | [], left => (none, left)
  | t :: rest, left =>
    if left[t] = 0 then drawShare tubes rest left
    else if tubes[t].count = 0 then drawShare tubes rest (left.set t 0)
    else (some t, left)

/-- The next coin (R132): its tube, and the coins left to pay after shares have ended. -/
def nextCoin (tubes : Vector Tube 4) : CoinsLeft → Option (Fin 4) × CoinsLeft
  | .byValue coins =>
    match coins.find? (fun c => c.2 != 0) with
    | none => (none, .byValue coins)
    | some (v, _) => (drawTube tubes v, .byValue coins)
  | .byTube left =>
    let (t, left) := drawShare tubes [0, 1, 2, 3] left
    (t, .byTube left)

/-- The engine ejects its next coin, or the payout ends (R132, R135). -/
def ejectNext (judge : State → State) (s : State) : State :=
  match s.payout with
  | none => s
  | some p =>
    match nextCoin s.tubes p.left with
    | (none, left) => endPayout judge { s with payout := some { p with left := left, air := none } }
    | (some t, left) =>
      let p : Payout := { p with left := left, air := none }
      let v := s.tubes[t].value
      if withinCredit p v s then ejectFrom t v false p s else endPayout judge { s with payout := some p }

/-- One coin less to pay of the denomination, or from the tube (R133). -/
def CoinsLeft.takeOne (t : Fin 4) (value : Nat) : CoinsLeft → CoinsLeft
  | .byValue coins => .byValue (coins.map fun c => if c.1 = value then (c.1, c.2 - 1) else c)
  | .byTube left => .byTube (left.set t (left[t] - 1))

/-- A coin is confirmed (R133): the tube count, the value paid, the credit and the audit block follow. -/
def confirmCoin (a : AirCoin) (p : Payout) (s : State) : State :=
  let s := recomputeChange (putTube a.tube { s.tubes[a.tube] with count := s.tubes[a.tube].count - 1 } s)
  let p : Payout :=
    { p with paid := p.paid + a.value, left := p.left.takeOne a.tube a.value, air := none,
             coinsPaid := p.coinsPaid.set a.tube (p.coinsPaid[a.tube] + 1) }
  let s := { s with payout := some p }
  let s := if p.entry.form = .creditReturn then putCredit (max (s.credit - a.value) s.held) s.held s else s
  count (.coinsPaid a.tube) 1 s

/-- The payout goes on after a coin has been confirmed: it ends when no coins are left to pay, and ejects the next coin when
the ejector pulse is over (R132, R135). -/
def afterConfirm (judge : State → State) (s : State) : State :=
  match s.payout with
  | none => s
  | some p => if p.left.none? then endPayout judge s else if p.pulse.isSome then s else ejectNext judge s

/-- The coins left to pay of a plan. -/
def Plan.left (plan : Plan) : CoinsLeft := .byValue plan.coins

/-- A tube is found empty (R134): its count becomes 0, the event is counted, and the remaining amount is planned anew, or
the tube's share ends. -/
def tubeFoundEmpty (t : Fin 4) (p : Payout) (s : State) : State :=
  let s := recomputeChange (putTube t { s.tubes[t] with count := 0 } s)
  let s := raise .money (count .tubeEmpty 1 s)
  let p : Payout := { p with emptyEvents := min 255 (p.emptyEvents + 1), air := none }
  match p.left with
  | .byTube left => { s with payout := some { p with left := .byTube (left.set t 0) } }
  | .byValue _ =>
    let plan := planFor s.tubes (p.due - p.paid)
    handOverPlan plan { s with payout := some { p with left := plan.left } }

/-- The amount due of an entry as it starts (R131). -/
def amountDue (e : PayEntry) (s : State) : Nat :=
  match e.form with
  | .creditReturn => s.available
  | .amount => e.amount
  | .tubeList => ((List.zip e.coins.toList s.tubes.toList).map fun c => c.1 * c.2.value).sum

/-- The outcome with which an entry ends at once, if it does (R131). -/
def endsAtOnce (e : PayEntry) (due : Nat) (s : State) : Option CardOutcome :=
  match e.form with
  | .tubeList =>
    if s.door = .closed then some .serviceOnly
    else if e.coins.toList.all (· == 0) then some .nothingToPay else none
  | _ => if due = 0 then some .nothingToPay else none

/-- The pending-return mark enters the queue as a new entry when the head starts (R130). -/
def admitMark (s : State) : State :=
  match s.returnMark with
  | none => s
  | some o => { s with payQueue := s.payQueue ++ [creditReturnEntry o none], returnMark := none }

/-- The plan of a payout that starts (R131): a TUBE_LIST keeps its card's coin numbers and asks the solver for nothing. -/
def planStart (e : PayEntry) (due : Nat) (s : State) : CoinsLeft × State :=
  match e.form with
  | .tubeList => (.byTube e.coins, s)
  | _ =>
    let plan := planFor s.tubes due
    (plan.left, handOverPlan plan s)

/-- Nothing can be ejected: no coins are left to pay, or a TUBE_LIST has them only in tubes whose count is 0 (R131). -/
def nothingToEject (tubes : Vector Tube 4) (left : CoinsLeft) : Bool :=
  match left with
  | .byValue _ => left.none?
  | .byTube coins => (drawShare tubes [0, 1, 2, 3] coins).1.isNone

/-- The head entry starts (R131). -/
def startPayout (judge : State → State) (e : PayEntry) (rest : List PayEntry) (s : State) : State :=
  let s := admitMark { s with payQueue := rest }
  let due := amountDue e s
  let p : Payout := { entry := e, due := due, paid := 0, left := .byValue [], coinsPaid := Vector.replicate 4 0,
                      emptyEvents := 0, air := none, pulse := none }
  match endsAtOnce e due s with
  | some o => endPayoutWith judge o { s with payout := some p }
  | none =>
    let (left, s) := planStart e due (setBusy true s)
    let s := { s with payout := some { p with left := left } }
    if nothingToEject s.tubes left then endPayout judge s
    else placeClaim judge .payout s.loadSet.payoutSize s

end Sys2Proof.Machine
end

