-- ==== Sys2Proof/Machine/Vend.lean ====
section
/-! DEFINITION. The vend sequencer's check stage, motor start, verdict and ends, and what the drive matrix reports to it
(spec/04, spec/05). -/

namespace Sys2Proof.Machine

/-- The muted drive (R94): the door is OPEN, or PFAIL is asserted. -/
def State.muted (s : State) : Bool := s.door == .opened || s.pfail != .clear

/-! ## The end of a vend card -/

/-- The basket in flight ends when its head's own item has ended and no later item is queued or in flight: the total charged
is written into the head, and the head completes with its own outcome (R58). -/
def closeBasket (s : State) : State :=
  match s.basket with
  | some ⟨head, _, charged, some o⟩ =>
    if s.vendQueue.any (fun e => e.basket == some head) || (s.flight.map Flight.basket) == some (some head) then s
    else complete head o (putHalf head 50 charged { s with basket := none })
  | _ => s

/-- A vend item ends with its outcome: a head's own item waits for its basket, every other card completes to DONE (R58). -/
def endItem (slot : Nat) (basket : Option Nat) (o : CardOutcome) (s : State) : State :=
  match basket with
  | none => complete slot o s
  | some head =>
    if slot = head then closeBasket { s with basket := s.basket.map fun b => { b with headOutcome := some o } }
    else closeBasket (complete slot o s)

/-! ## The verdict -/

/-- The outcomes that are charged (R67). -/
def CardOutcome.charges (o : CardOutcome) : Bool := o == .vended || o == .vendedUnconfirmed

/-- The record of the selection after an end with outcome `o`: state, stock and sales count (R10, R11, R12, R14, R67). -/
def Spiral.ended (o : CardOutcome) (r : Spiral) : Spiral :=
  match o with
  | .vended | .vendedUnconfirmed =>
    let stock := if r.stock = stockNotTracked then r.stock else r.stock - 1
    { r with stock := stock, state := if stock = 0 then .soldOut else r.state, sales := min 65535 (r.sales + 1) }
  | .noDrop => { r with stock := 0, state := .soldOut }
  | .jammed => { r with state := .jammed }
  | .testJammed => if r.state = .ready then { r with state := .jammed } else r
  | .homeOk => if r.state = .jammed then Spiral.settled { r with state := .ready } else r
  | _ => r

/-- The spiral records at a verdict or the end of a test: the flag is cleared and the last outcome written in the same
write, and the pair is mirrored (R5, R13, R14). -/
def recordEnd (i : Fin 80) (twin : Bool) (o : CardOutcome) (s : State) : State :=
  let s := putSpiral i { Spiral.ended o s.spirals[i] with inFlight := false, lastOutcome := o } s
  if twin then setInFlight false [nextSpiral i] (mirror i s) else s

/-- The credit record and the basket at a verdict (R67). -/
def settleMoney (f : Flight) (o : CardOutcome) (s : State) : State :=
  if f.coin then putCredit (if o.charges then s.credit - f.price else s.credit) (s.held - f.price) s
  else if o.charges && f.basket.isSome then
    { s with basket := s.basket.map fun b =>
        { b with remaining := b.remaining - f.price, charged := b.charged + f.price } }
  else s

/-- The audit counters at a verdict (R67, R182). -/
def auditVerdict (f : Flight) (o : CardOutcome) (s : State) : State :=
  if o.charges then count (if f.coin then .coinSales else .hostSales) f.price (count .sales 1 s)
  else if o = .noDrop then count .failedVends 1 s
  else s

/-- The course of the card after the verdict (R68, R69). -/
def afterVerdict (f : Flight) (o : CardOutcome) (s : State) : State :=
  if f.coin && o.charges && s.moneySet.changeMode == .immediate && decide (0 < s.available) then
    requestReturn .postVend (some ⟨f.slot, some o⟩) s
  else endItem f.slot f.basket o s

/-- The verdict (R67): the motors stop, the load is given up and the head of the wait list judged, the credit record, the
spiral record and the audit block are written, then the card's result, and the sequencer is IDLE. -/
def verdict (judge : State → State) (o : CardOutcome) (s : State) : State :=
  match s.flight with
  | none => s
  | some f =>
    let s := giveUp judge .drive { s with rev := none }
    let s := auditVerdict f o (recordEnd f.spiral f.twin o (settleMoney f o s))
    let s := putVendResult f.slot (if o.charges then f.price else 0) f.revolutions f.dropSeen s
    afterVerdict f o { s with flight := none }

/-- A test ends (R79): as a verdict, but it moves no money and counts nothing. `time` is the revolution time. -/
def testEnd (judge : State → State) (o : CardOutcome) (time : Nat) (s : State) : State :=
  match s.flight with
  | none => s
  | some f =>
    let s := recordEnd f.spiral f.twin o (giveUp judge .drive { s with rev := none })
    let s := (putHalf f.slot 40 time s).putSlot f.slot 42 (leBytes (dropTimeField f.dropSeen) 2)
    complete f.slot o { s with flight := none }

/-- The vend or test in flight ends: `o` for a vend, `testO` for a test. -/
def endFlight (judge : State → State) (o testO : CardOutcome) (s : State) : State :=
  match s.flight with
  | none => s
  | some f => if f.isTest then testEnd judge testO 0 s else verdict judge o s

/-! ## Motor starts (R63, R82) -/

/-- The cam record of an energised spiral at the motor start (R82, R85). -/
def startCam (s : State) (i : Fin 80) : Cam :=
  match s.camLevel[i] with
  | .closed =>
    { spiral := i, level := .closed, edge := none, phase := .awaitOpen, openTime := none, closeTime := none,
      limitWaits := false }
  | .opened =>
    { spiral := i, level := .opened, edge := none, phase := .turningOpen, openTime := some 0, closeTime := none,
      limitWaits := false }

/-- Every cam record has left AWAIT_OPEN (R85). -/
def allOpened (cams : List Cam) : Bool := cams.all fun c => c.phase != .awaitOpen

/-- The matrix prepares the revolution and energises the selection (R82). -/
def energise (f : Flight) (s : State) : State :=
  let cams := (selection f.spiral f.twin).map (startCam s)
  { s with
    rev := some { started := s.now, classLimit := s.vendSet.jamLimit[s.spirals[f.spiral].jamClass], current := 0,
                  jamSince := none, cams := cams },
    flight := some { f with stage := if allOpened cams then .turning else .leavingHome, loadTimer := none, dropTimer := none,
                            firstStart := f.firstStart <|> some s.now } }

/-- A motor start (R63): the zone is read again for a VEND on a CHILLED selection. -/
def motorStart (judge : State → State) (s : State) : State :=
  match s.flight with
  | none => s
  | some f =>
    if !f.isTest && f.chilled && !s.zoneSells then verdict judge (zoneRefusal s.zone) s else energise f s

/-! ## Reports of the drive matrix -/

/-- A revolution is complete (R63, R65, R79, R86): its time goes to the record, and the vend's next step is decided. -/
def revolutionComplete (judge : State → State) (time : Nat) (s : State) : State :=
  match s.flight with
  | none => { s with rev := none }
  | some f =>
    let f := { f with revolutions := f.revolutions + 1 }
    let s := putSpiral f.spiral { s.spirals[f.spiral] with lastRevolution := time }
      { s with rev := none, flight := some f }
    if f.isTest then testEnd judge .homeOk time s
    else match f.assurance with
      | .off => verdict judge .vendedUnconfirmed s
      | assurance =>
        if f.dropSeen.isSome then verdict judge .vended s
        else if s.drop.fault then
          verdict judge (if assurance = .required then .dropSensorFault else .vendedUnconfirmed) s
        else { s with flight := some { f with stage := .dropWait, dropTimer := some (s.now + 1500) } }

/-- A jam is reported (R71, R79, R89, R90): the selection is de-energised, DRIVE is raised, and the vend or test ends. -/
def jamReport (judge : State → State) (s : State) : State :=
  endFlight judge .jammed .testJammed (raise .drive { s with rev := none })

/-- A short is reported (R90, R91): as a jam, and the drive becomes FAULTED, which schedules a save. -/
def shortReport (judge : State → State) (s : State) : State :=
  requestSave (jamReport judge (raise .drive { s with driveFaulted := true }))

/-! ## The check stage (R59, R60) -/

/-- The outcome of check 4 (R9). -/
def stateRefusal : SpiralState → Option CardOutcome
  | .ready => none
  | .soldOut => some .soldOut
  | .jammed => some .spiralJammed
  | .disabled => some .disabled

/-- How a vend is paid: from the customer's credit, or from an authorised amount of which so much remains. -/
structure Payment where
  coin : Bool
  authorised : Nat
deriving DecidableEq, Repr

/-- The amount that must cover the price at check 6 (R60). -/
def fundsFor (p : Payment) (s : State) : Nat := if p.coin then s.available else p.authorised

/-- Check 7 fails (R60): a coin vend in mode IMMEDIATE under the rule REFUSE whose change is not payable. -/
def changeRefused (p : Payment) (price : Nat) (s : State) : Bool :=
  p.coin && s.moneySet.changeMode == .immediate && !payable s.tubes (s.available - price) &&
    s.moneySet.overpay == .refuse

/-- The eight checks of R59 on a selection, first failure first; none when all pass. -/
def vendCheck (spiral : Option (Fin 80)) (p : Payment) (s : State) : Option CardOutcome :=
  if s.door = .opened then some .doorOpen
  else if s.driveFaulted then some .driveFaulted
  else match spiral with
    | none => some .badSelection
    | some i =>
      let r := s.spirals[i]
      if r.role = .follower then some .notSelectable
      else match stateRefusal r.state with
        | some o => some o
        | none =>
          if r.zone = .chilled ∧ s.zoneSells = false then some (zoneRefusal s.zone)
          else if fundsFor p s < r.price then some (if p.coin then .insufficientCredit else .insufficientFunds)
          else if changeRefused p r.price s then some .changeUnavailable
          else if s.drop.fault ∧ s.vendSet.assurance = .required then some .dropSensorFault
          else none

/-- The flight of a card that has passed its check stage, entering CLAIMING (R54, R61, R62, R78). -/
def newFlight (e : QueueEntry) (isTest : Bool) (i : Fin 80) (coin : Bool) (s : State) : Flight :=
  let r := s.spirals[i]
  { slot := e.slot, basket := e.basket, isTest := isTest, spiral := i, twin := r.role == .lead,
    chilled := r.zone == .chilled, price := if isTest then 0 else r.price, coin := coin,
    loadWait := s.vendSet.loadWait, revolutionLimit := s.vendSet.revolutionLimit, extraTurns := s.vendSet.extraTurns,
    assurance := s.vendSet.assurance, stage := .claiming, revolutions := 0, firstStart := none, dropSeen := none,
    loadTimer := some (s.now + 1000 * s.vendSet.loadWait), dropTimer := none }

/-- The selection is committed and the spiral drive's claim placed (R61, R62, R78). -/
def enterClaiming (judge : State → State) (f : Flight) (s : State) : State :=
  let s := setInFlight true (selection f.spiral f.twin) { s with flight := some f }
  placeClaim judge .drive (claimSize s.loadSet f.twin .drive) s

/-- How the head of the vend queue is paid (R55, R58, R60). The head of a basket brings its authorised amount; an item takes
what remains of it; a standalone HOST_FUNDS vend is a basket of one. -/
def paymentOf (e : QueueEntry) (s : State) : Payment :=
  match e.basket with
  | none => { coin := s.slotByte e.slot 9 == 0, authorised := s.slotHalf e.slot 10 }
  | some head =>
    { coin := false,
      authorised := if e.slot = head then s.slotHalf head 10 else (s.basket.map Basket.remaining).getD 0 }

/-- The basket comes into flight as its head is checked (R58). -/
def openBasket (e : QueueEntry) (s : State) : State :=
  if e.basket = some e.slot then
    { s with basket := some { head := e.slot, remaining := s.slotHalf e.slot 10, charged := 0, headOutcome := none } }
  else s

/-- The check stage of a VEND taken from the head of the queue (R59, R61). -/
def checkVend (judge : State → State) (e : QueueEntry) (s : State) : State :=
  let p := paymentOf e s
  let spiral := spiralOf (s.slotByte e.slot 8)
  let s := openBasket e s
  match vendCheck spiral p s, spiral with
  | none, some i =>
    let f := newFlight e false i p.coin s
    enterClaiming judge f (if p.coin then putCredit s.credit (s.held + f.price) s else s)
  | o, _ => endItem e.slot e.basket (o.getD .badSelection) (putVendResult e.slot 0 0 none s)

/-- The checks of a TEST_SPIRAL (R78); none when all pass. -/
def testCheck (spiral : Option (Fin 80)) (s : State) : Option CardOutcome :=
  if s.door = .closed then some .serviceOnly
  else if s.driveFaulted then some .driveFaulted
  else match spiral with
    | none => some .notSelectable
    | some i => if s.spirals[i].role = .follower then some .notSelectable else none

/-- The check stage of a TEST_SPIRAL taken from the head of the queue (R78). -/
def checkTest (judge : State → State) (e : QueueEntry) (s : State) : State :=
  let spiral := spiralOf (s.slotByte e.slot 8)
  match testCheck spiral s, spiral with
  | none, some i => enterClaiming judge (newFlight e true i false s) s
  | o, _ =>
    complete e.slot (o.getD .notSelectable) (s.putSlot e.slot 42 (leBytes 65535 2))

end Sys2Proof.Machine
end

