-- ==== Sys2Proof/Machine/Load.lean ====
section
/-! DEFINITION. The judgement of the head of the wait list, and what each claimant does with its grant in that step (R145). -/

namespace Sys2Proof.Machine

/-- A claimant acts on its grant (R62, R132, R157, R163). -/
def onGrant (judge : State → State) : Claimant → State → State
  | .compressor, s => compressorGranted s
  | .heater, s => heaterGranted s
  | .drive, s => motorStart judge s
  | .payout, s => ejectNext judge s

/-- The head is granted when it fits the budget; its claimant acts on the grant, and the new head is judged in the same step
(R145). From the PFAIL warning on nothing is granted (R150). A grant takes one entry from the list, so as many rounds as the
list is long are enough. -/
def judgeHead : Nat → State → State
  | 0, s => s
  | rounds + 1, s =>
    match s.waiting with
    | [] => s
    | head :: rest =>
      if s.pfail = .clear ∧ s.granted + head.size ≤ s.loadSet.budget then
        judgeHead rounds (onGrant (judgeHead rounds) head.claimant
          { s with waiting := rest, grants := s.grants ++ [head] })
      else s

/-- The arbiter judges the head of its wait list (R145). -/
def judgeLoad (s : State) : State := judgeHead s.waiting.length s

/-- Each waiting claim takes the size of its kind in force (R149). -/
def resizeClaims (s : State) : State :=
  let twin := (s.flight.map Flight.twin).getD false
  { s with waiting := s.waiting.map fun w => { w with size := claimSize s.loadSet twin w.claimant } }

end Sys2Proof.Machine
end

