-- ==== Sys2Proof/Machine/Coins.lean ====
section
/-! DEFINITION. The steps of the door, the coin intake, the tubes, the lever and the payout engine (spec/06, spec/08). -/

namespace Sys2Proof.Machine

/-! ## The door (R112) -/

/-- What a change of the door does to the vend or test in flight (R70, R79, R94, R95): a vend ends as the door opens, a test
as it closes. -/
def doorAborts (s : State) : State :=
  match s.flight with
  | none => s
  | some f =>
    match f.isTest, s.door with
    | false, .opened => verdict judgeLoad .doorOpenAbort s
    | true, .closed => testEnd judgeLoad .testAborted 0 s
    | _, _ => s

/-- R112, R70, R79: from the PFAIL warning on no vend or test ends (R72). -/
def execDoorStateChange (door : DoorState) (s : State) : Host.Outcome State Fault Refusal :=
  .next (if s.door = door then s
    else
      let s := raise .door { s with door := door }
      if s.working then doorAborts s else s)

/-! ## Coin arrival (R99 to R101) -/

/-- The tube that a coin of a channel enters (R101). -/
def coinTube (c : Channel) (tubes : Vector Tube 4) : Option (Fin 4) :=
  match c.route with
  | none => none
  | some t => if c.value ≠ 0 ∧ tubes[t].count < tubes[t].capacity ∧ tubes[t].full = false then some t else none

/-- The coin enters its tube and opens the gate, or goes to the cash box (R101, R102), and is counted (R100). -/
def routeCoin (v : Nat) (tube : Option (Fin 4)) (s : State) : State :=
  match tube with
  | none => count .cashBox v s
  | some t =>
    recomputeChange (count (.coinsToTube t) 1
      (putTube t { s.tubes[t] with count := s.tubes[t].count + 1, gate := some (s.now + 400) } s))

/-- The coin is credited (R100): C saturates, and MONEY is raised if C changed. -/
def creditCoin (v : Nat) (s : State) : State :=
  let c := min 65535 (s.credit + v)
  if c = s.credit then s else putCredit c s.held s

/-- One arrival on a channel (R100). -/
def coinArrives (channel : Fin 6) (s : State) : State :=
  let c := s.channels[channel]
  routeCoin c.value (coinTube c s.tubes) (count (.coinsIn channel) 1 (creditCoin c.value s))

/-- R99: one activation gives one arrival, and one that was in progress at the end of the restart sequence gives none until
the input has returned inactive; from the PFAIL warning on none is recognised. -/
def execCoinArrival (channel : Fin 6) (s : State) (returned : Bool := true) : Host.Outcome State Fault Refusal :=
  .next (if s.working ∧ (returned ∨ s.spent.coin[channel] = false) then
      coinArrives channel { s with spent := { s.spent with coin := s.spent.coin.set channel true } }
    else s)

/-- R102: the gate closes. -/
def execGateTimerExpiry (tube : Fin 4) (s : State) : Host.Outcome State Fault Refusal :=
  .next (match s.tubes[tube].gate with
    | none => s
    | some t => putTube tube { s.tubes[tube] with gate := none } (s.reach t))

/-- R102: the full sensor follows its switch. -/
def execFullSensorChange (tube : Fin 4) (full : Bool) (s : State) : Host.Outcome State Fault Refusal :=
  .next (putTube tube { s.tubes[tube] with full := full } s)

/-- R113: a press raises DOOR and asks for the available credit. -/
def execCoinReturnLever (s : State) : Host.Outcome State Fault Refusal :=
  .next (if s.working then requestReturnIfAny .lever (raise .door s) else s)

/-! ## The payout engine (R131 to R134, R139) -/

/-- R131: the engine starts the head entry while no payout is in flight. -/
def execPayoutStart (s : State) : Host.Outcome State Fault Refusal :=
  .next (match s.payQueue, s.payout with
    | e :: rest, none => if s.working then startPayout judgeLoad e rest s else s
    | _, _ => s)

/-- The payout goes on after the pulse of a tube, if its next coin waits for that pulse: the coin is ejected when the last one
has been confirmed (R132). -/
def afterPulse (tube : Fin 4) (s : State) : State :=
  match s.payout with
  | some p =>
    if p.pulse = some tube then
      let s := { s with payout := some { p with pulse := none } }
      if p.air.isSome then s else ejectNext judgeLoad s
    else s
  | none => s

/-- The running ejector pulse that ends first, and its end; of two that end together, that of the lower tube. -/
def State.firstPulse (s : State) : Option (Fin 4 × Nat) :=
  (List.finRange 4).foldl (fun first t =>
    match s.ejectors[t], first with
    | some m, some (_, n) => if m < n then some (t, m) else first
    | some m, none => some (t, m)
    | none, _ => first) none

/-- R132: the ejector pulse that ends first is over. -/
def execEjectorPulseEnd (s : State) : Host.Outcome State Fault Refusal :=
  .next (match s.firstPulse with
    | some (tube, t) => if s.working then afterPulse tube { s.reach t with ejectors := s.ejectors.set tube none } else s
    | none => s)

/-- The coin in the air, if a confirm window is open. -/
def State.airCoin (s : State) : Option AirCoin := s.payout.bind Payout.air

/-- The exit sensor recognises a coin: it confirms the coin of the open window, or is stray (R133, R139). DEDUCED: a coin at the
moment of an expiry that was taken first is stray, also where a window has opened in that step (notes/assumptions/49.md). -/
def exitCoin (s : State) : State :=
  match s.payout, s.airCoin with
  | some p, some a =>
    if s.missedAt = some s.now then count .strayCoins 1 s else afterConfirm judgeLoad (confirmCoin a p s)
  | _, _ => count .strayCoins 1 s

/-- R133, R139: one activation gives one coin, and one that was in progress at the end of the restart sequence gives none until
the input has returned inactive; a coin that reaches the sensor after the PFAIL warning is not recognised (R141). -/
def execExitCoinSeen (s : State) (returned : Bool := true) : Host.Outcome State Fault Refusal :=
  .next (if s.working ∧ (returned ∨ s.spent.exit = false) then exitCoin { s with spent := { s.spent with exit := true } }
    else s)

/-- A confirm window expires with no coin (R134): the coin is ejected once more, or its tube is empty. -/
def missCoin (a : AirCoin) (p : Payout) (s : State) : State :=
  if a.retried then ejectNext judgeLoad (tubeFoundEmpty a.tube p s)
  else if withinCredit p a.value s then ejectFrom a.tube a.value true p s
  else endPayout judgeLoad s

/-- The moment of an expiry that misses a coin, kept for the coin that may come together with it (R133). -/
def State.missed (s : State) : State := { s with missedAt := some s.now }

/-- R134. -/
def execConfirmWindowExpiry (s : State) : Host.Outcome State Fault Refusal :=
  .next (match s.payout, s.airCoin with
    | some p, some a => if s.working then missCoin a p (s.reach a.window).missed else s
    | _, _ => s)

end Sys2Proof.Machine
end

