-- ==== Sys2Proof/Machine/Cold.lean ====
section
/-! DEFINITION. The steps of the refrigeration controller and its timers (spec/10, spec/11). From the PFAIL warning on no
sample is taken and every timer is stopped (R152, R166). -/

namespace Sys2Proof.Machine

/-- R152: one sample a second. -/
def execSample (cabA cabB evap : BitVec 12) (s : State) : Host.Outcome State Fault Refusal :=
  .next (match s.nextSample with
    | some t =>
      if s.working then takeSample judgeLoad cabA cabB evap { s.reach t with nextSample := some (t + 1000) } else s
    | none => s)

/-- R157, R158. -/
def execMinOffExpiry (s : State) : Host.Outcome State Fault Refusal :=
  .next (match s.comp.minOff with
    | some t => if s.working then enterIdle judgeLoad (s.reach t) else s
    | none => s)

/-- R157, R159, R162. -/
def execMinOnExpiry (s : State) : Host.Outcome State Fault Refusal :=
  .next (match s.comp.minOn with
    | some t => if s.working then minOnEnds judgeLoad (s.reach t) else s
    | none => s)

/-- The start window ends (R157, R146): the compressor is RUNNING and its grant shrinks. -/
def windowEnds (s : State) : State :=
  shrinkStart judgeLoad { s with comp := { s.comp with state := .running, window := none } }

/-- R157, R146. -/
def execStartWindowExpiry (s : State) : Host.Outcome State Fault Refusal :=
  .next (match s.comp.window with
    | some t => if s.working ∧ s.comp.state = .starting then windowEnds (s.reach t) else s
    | none => s)

/-- R159: the other phase starts. -/
def execFallbackPhaseExpiry (s : State) : Host.Outcome State Fault Refusal :=
  .next (match s.fallback with
    | some f => if s.working then phaseStarts judgeLoad (!f.on) (s.reach f.ends) else s
    | none => s)

/-- R161, R162: the accumulator has reached the interval; a DUE defrost starts unless the compressor runs. -/
def execDefrostDue (s : State) : Host.Outcome State Fault Refusal :=
  .next (if s.working then startIfOff judgeLoad (callIfReached s) else s)

/-- R162: the defrost has been DUE for 60 minutes while the compressor ran. -/
def execDefrostForcedStop (s : State) : Host.Outcome State Fault Refusal :=
  .next (match s.defrost.forcedAt with
    | some t => if s.working ∧ s.defrost.state = .due then forcedStop judgeLoad (s.reach t) else s
    | none => s)

/-- R164: the defrost ends by time. -/
def execDefrostTimerExpiry (s : State) : Host.Outcome State Fault Refusal :=
  .next (match s.defrost.timer with
    | some t => if s.working ∧ s.defrost.endable then endDefrost judgeLoad true (s.reach t) else s
    | none => s)

/-- R165. -/
def execDrainingEnd (s : State) : Host.Outcome State Fault Refusal :=
  .next (match s.defrost.drip with
    | some t => if s.working ∧ s.defrost.state = .draining then endDraining (s.reach t) else s
    | none => s)

/-- R165. -/
def execRecoveryGraceEnd (s : State) : Host.Outcome State Fault Refusal :=
  .next (match s.defrost.grace with
    | some t => if s.working then { s.reach t with defrost := { s.defrost with grace := none } } else s
    | none => s)

/-- R161: one whole second of running more. -/
def execRunTimeAccumulatorSecond (s : State) : Host.Outcome State Fault Refusal :=
  .next (match s.runSecond with
    | some t =>
      if s.working then
        judgeDue judgeLoad { s.reach t with runTime := min maxRunTime (s.runTime + 1), runSecond := some (t + 1000) }
      else s
    | none => s)

end Sys2Proof.Machine
end

