-- ==== Sys2Proof/Machine/Flags.lean ====
section
/-! DEFINITION. The outputs of the part and the conditions on its inputs that are computed from the state at every moment:
ATTN, the inhibits, gates, ejectors, drivers, relays and the fan. -/

namespace Sys2Proof.Machine

/-! ## Host -/

/-- ATTN (R44, R45): a class is pending and enabled, and the port is ready. -/
def State.attn (s : State) : Bool := s.ready && s.noticePending &&& s.noticeMask != 0

/-- The nine classes with their codes, the highest priority first (R41). -/
def noticeClasses : List (Nat × NoticeClass) :=
  [(1, .restart), (2, .drive), (3, .zone), (4, .cooling), (5, .money), (6, .cards), (7, .spiral), (8, .door), (9, .port)]

/-- The class that a read of NOTICE returns: the highest that is pending and enabled (R42). -/
def State.topNotice (s : State) : Option (Nat × NoticeClass) :=
  noticeClasses.find? fun c => s.noticePending &&& s.noticeMask &&& c.2.bit != 0

/-! ## Coins -/

/-- The global acceptor inhibit (R103). -/
def State.globalInhibit (s : State) : Bool :=
  s.door == .opened || !s.sup.alive || decide (s.moneySet.maxCredit ≤ s.credit) ||
    s.channels.toList.all (fun c => !c.enabled) || s.pfail != .clear || !s.ready

/-- The inhibit output of a channel (R104). -/
def State.channelInhibit (s : State) (c : Fin 6) : Bool :=
  s.pfail != .clear || !s.ready || !s.channels[c].enabled ||
    decide (s.moneySet.maxCredit < s.credit + s.channels[c].value)

/-- The gate output of a tube (R102). -/
def State.gateOn (s : State) (t : Fin 4) : Bool := s.tubes[t].gate.isSome

/-- The ejector output of a tube (R132). -/
def State.ejectorOn (s : State) (t : Fin 4) : Bool := s.ejectors[t].isSome

/-! ## Spiral drive -/

/-- The spirals whose motors turn: those of the energised selection that have not reached HOME (R81, R86). -/
def State.turning (s : State) : List (Fin 80) :=
  match s.rev with
  | none => []
  | some r => (r.cams.filter fun c => c.phase != .home).map Cam.spiral

/-- The row driver of a row (R81). -/
def State.rowOn (s : State) (r : Fin 8) : Bool := s.turning.any fun i => rowOf i == r

/-- The column driver of a column (R81, R86). -/
def State.columnOn (s : State) (c : Fin 10) : Bool := s.turning.any fun i => columnOf i == c

/-- The jam current limit in force (R88): the class limit times the number of motors that are energised. -/
def Revolution.limit (r : Revolution) : Nat := r.classLimit * (r.cams.filter fun c => c.phase != .home).length

/-- The short limit of 3.00 A, in units of 0.01 A (R88). -/
def shortLimit : Nat := 300

/-- The drop window of the vend or test in flight is open: its first motor start has been taken (R64, R78). -/
def State.windowOpen (s : State) : Bool := (s.flight.bind Flight.firstStart).isSome

/-! ## Cooling -/

/-- The compressor relay is closed (R157, R166, R170). -/
def State.compressorRelay (s : State) : Bool := s.working && s.comp.state.runs

/-- The defrost heater relay is closed (R163, R166, R170). -/
def State.heaterRelay (s : State) : Bool := s.working && s.defrost.state == .heating

/-- The evaporator fan (R160, R166, R170). -/
def State.fanOn (s : State) : Bool :=
  s.working && (s.comp.state.runs || s.coolSet.fanMode == .continuous) && s.defrost.state != .heating &&
    s.defrost.state != .draining && s.door == .closed

end Sys2Proof.Machine
end

