-- ==== Sys2Proof/Machine/Drive.lean ====
section
/-! DEFINITION. The steps of the drive matrix: cams, motor current and the off-current check (spec/05). -/

namespace Sys2Proof.Machine

/-! ## Cam edges (R84 to R86) -/

/-- The opposite level. -/
def otherLevel : CamLevel → CamLevel
  | .closed => .opened
  | .opened => .closed

/-- The sense line of a cam takes a level, `time` milliseconds after the motor start (R84): a change to the level opposite
the filtered one becomes the pending edge, a return to it before 20 ms drops the edge as a bounce. -/
def Cam.line (time : Nat) (level : CamLevel) (c : Cam) : Cam :=
  if level = c.level then
    match c.edge with
    | some t => if time < t + 20 then { c with edge := none } else c
    | none => c
  else if c.edge.isNone then { c with edge := some time } else c

/-- A limit that waited for the pending edge is taken when that edge is dropped (R87). -/
def limitTaken (old new : Cam) : Bool := old.limitWaits && old.edge.isSome && new.edge.isNone

/-- The cam records of an energised selection take a change of the cam of `spiral` from its sense line; the flag tells that
a waiting limit is taken. -/
def changeLine (time : Nat) (spiral : Fin 80) (level : CamLevel) (cams : List Cam) : List Cam × Bool :=
  let change (c : Cam) : Cam := if c.spiral = spiral ∧ c.phase ≠ .home then c.line time level else c
  (cams.map change, cams.any fun c => limitTaken c (change c))

/-- The cam of a spiral changes (R82, R84): its level is what the next motor start finds, and while the spiral is energised
its column's sense line shows the change. -/
def camLine (spiral : Fin 80) (level : CamLevel) (s : State) : State :=
  let s := { s with camLevel := s.camLevel.set spiral level }
  match s.rev with
  | none => s
  | some r =>
    if s.working then
      let (cams, taken) := changeLine (s.now - r.started) spiral level r.cams
      let s := { s with rev := some { r with cams := cams } }
      if taken then jamReport judgeLoad s else s
    else s

/-- R84. -/
def execCamLineChange (after : Nat) (spiral : Fin 80) (level : CamLevel) (s : State) :
    Host.Outcome State Fault Refusal :=
  .next (camLine spiral level (s.wait after))

/-- The pending edge of a cam is consumed (R84, R85). -/
def Cam.consume (time : Nat) (c : Cam) : Cam :=
  let c := { c with level := otherLevel c.level, edge := none, limitWaits := false }
  match c.phase, c.level with
  | .awaitOpen, .opened => { c with phase := .turningOpen, openTime := some time }
  | .turningOpen, .closed => { c with phase := .home, closeTime := some time }
  | _, _ => c

/-- The cam of a column that turns with a pending edge, and the time of that edge. -/
def pendingEdge (column : Fin 10) (cams : List Cam) : Option (Cam × Nat) :=
  cams.findSome? fun c =>
    if columnOf c.spiral = column ∧ c.phase ≠ .home then c.edge.map fun t => (c, t) else none

/-- All cams opened moves the vend or test to TURNING (R63, R85). -/
def reportOpened (cams : List Cam) (s : State) : State :=
  if allOpened cams then
    { s with flight := s.flight.map fun f => if f.stage = .leavingHome then { f with stage := .turning } else f }
  else s

/-- The jam timer follows the measured current and the limit in force (R89): it keeps its start while the current stays
above the limit. -/
def Revolution.judgeCurrent (now : Nat) (r : Revolution) : Revolution :=
  { r with jamSince := if r.limit < r.current then r.jamSince <|> some now else none }

/-- An edge is consumed: the cam's phase moves, and the selection is de-energised when its last cam reaches HOME (R86). -/
def consumeEdge (column : Fin 10) (time : Nat) (r : Revolution) (s : State) : State :=
  let consume (c : Cam) : Cam :=
    if columnOf c.spiral = column ∧ c.phase ≠ .home ∧ c.edge = some time then c.consume time else c
  let r : Revolution := { r with cams := r.cams.map consume }
  if r.cams.all (fun c => c.phase == .home) then revolutionComplete judgeLoad time s
  else reportOpened r.cams { s with rev := some (r.judgeCurrent s.now) }

/-- R85. -/
def execCamEdgeConsumed (column : Fin 10) (s : State) : Host.Outcome State Fault Refusal :=
  .next (match s.rev with
    | none => s
    | some r =>
      match pendingEdge column r.cams with
      | some (_, t) => if s.working then consumeEdge column t r (s.reach (r.started + t + 20)) else s
      | none => s)

/-! ## Cam limits (R87) -/

/-- A cam at a limit of `limit` milliseconds: it waits for a pending edge of the right kind whose time is within the limit. -/
def Cam.edgeWithin (level : CamLevel) (limit : Nat) (c : Cam) : Bool :=
  c.level == level &&
    match c.edge with
    | some t => decide (t ≤ limit)
    | none => false

/-- The cams that a limit judges wait for their edges, or the limit is taken and reported as a jam. -/
def takeLimit (judged : Cam → Bool) (waits : Cam → Bool) (r : Revolution) (s : State) : State :=
  if r.cams.any (fun c => judged c && !waits c) then jamReport judgeLoad s
  else { s with rev := some { r with cams := r.cams.map fun c => if judged c then { c with limitWaits := true } else c } }

/-- R87: the cam-leave limit of 1.0 s. -/
def execCamLeaveLimit (s : State) : Host.Outcome State Fault Refusal :=
  .next (match s.rev with
    | none => s
    | some r =>
      if s.working then
        takeLimit (fun c => c.phase == .awaitOpen) (Cam.edgeWithin .closed 1000) r (s.reach (r.started + 1000))
      else s)

/-- The captured revolution limit in milliseconds (R54, R87). -/
def State.revolutionLimit (s : State) : Nat := 100 * (s.flight.map Flight.revolutionLimit).getD 0

/-- R87: the revolution limit. A record still in AWAIT_OPEN has no close edge to wait for. -/
def execRevolutionLimit (s : State) : Host.Outcome State Fault Refusal :=
  .next (match s.rev with
    | none => s
    | some r =>
      if s.working then
        takeLimit (fun c => c.phase != .home)
          (fun c => c.phase == .turningOpen && Cam.edgeWithin .opened s.revolutionLimit c) r
          (s.reach (r.started + s.revolutionLimit))
      else s)

/-! ## Motor current (R88 to R90) -/

/-- The measured current of an energised selection takes a value (R89, R90). -/
def setCurrent (current : Nat) (s : State) : State :=
  match s.rev with
  | none => s
  | some r =>
    if s.working then
      if shortLimit < current then shortReport judgeLoad s
      else { s with rev := some (Revolution.judgeCurrent s.now { r with current := current }) }
    else s

/-- R89. -/
def execMotorCurrentChange (after current : Nat) (s : State) : Host.Outcome State Fault Refusal :=
  .next (setCurrent current (s.wait after))

/-- R89: the jam timer reaches 250 ms. -/
def execJamTimerExpiry (s : State) : Host.Outcome State Fault Refusal :=
  .next (match s.rev with
    | none => s
    | some r =>
      match r.jamSince with
      | some t => if s.working then jamReport judgeLoad (s.reach (t + 250)) else s
      | none => s)

/-- R90. -/
def execMotorShort (current : Nat) (s : State) : Host.Outcome State Fault Refusal :=
  .next (if s.working ∧ s.rev.isSome ∧ shortLimit < current then shortReport judgeLoad s else s)

/-! ## The off-current check (R92) -/

/-- The check fails at this current, in units of 0.01 A (R92). -/
def offLimit : Nat := 5

/-- The result of a RESUME_DRIVE: the highest current measured, saturating at 500 (R92). -/
def putOffCurrent (slot highest : Nat) (s : State) : State := putHalf slot 40 (min 500 highest) s

/-- R92: the check passes; the drive state becomes OK and the card completes with OK. -/
def execOffCurrentCheckPass (highest : Nat) (s : State) : Host.Outcome State Fault Refusal :=
  .next (match s.offCheck with
    | some ⟨slot, some ends⟩ =>
      if s.working ∧ highest < offLimit then
        completeOk slot (putOffCurrent slot highest
          (raise .drive { s.reach ends with driveFaulted := false, offCheck := none }))
      else s
    | _ => s)

/-- R92: the check fails; the drive stays FAULTED. -/
def execOffCurrentCheckFail (highest : Nat) (s : State) : Host.Outcome State Fault Refusal :=
  .next (match s.offCheck with
    | some ⟨slot, some _⟩ =>
      if s.working ∧ offLimit ≤ highest then
        complete slot .stillFaulted (putOffCurrent slot highest { s with offCheck := none })
      else s
    | _ => s)

end Sys2Proof.Machine
end

