-- ==== Sys2Proof/Machine/Operands.lean ====
section
/-! DEFINITION. The operands of a card: validation of its fields (R33) and what its request body says (spec/02, 2.7.8). -/

namespace Sys2Proof.Machine

/-! ## Ranges -/

/-- A field that validation judges: its offset in the slot, and whether its value lies within its range. -/
structure Check where
  offset : Nat
  ok : Bool
deriving DecidableEq, Repr

/-- The offset of the first field that fails (R33). -/
def firstFailing : List Check → Option Nat
  | [] => none
  | c :: rest => if c.ok then firstFailing rest else some c.offset

/-- Inclusive at both ends (spec/00_scope.md, Ranges). -/
def within (lo hi n : Int) : Bool := decide (lo ≤ n) && decide (n ≤ hi)

/-- The signed 2-byte field at an offset of a slot. -/
def State.slotSigned (s : State) (slot off : Nat) : Int := signed16 (s.slotHalf slot off)

def byteIn (s : State) (slot off lo hi : Nat) : Check := ⟨off, within lo hi (s.slotByte slot off)⟩

def halfIn (s : State) (slot off lo hi : Nat) : Check := ⟨off, within lo hi (s.slotHalf slot off)⟩

def signedIn (s : State) (slot off : Nat) (lo hi : Int) : Check := ⟨off, within lo hi (s.slotSigned slot off)⟩

/-- A field that is judged only under a condition. -/
def Check.onlyIf (c : Check) (b : Bool) : Check := { c with ok := !b || c.ok }

/-- Bit `n` of a selector byte. -/
def State.slotBit (s : State) (slot off n : Nat) : Bool := (s.slotByte slot off).testBit n

/-! ## What a request body says -/

/-- The field selected by a bit of the selector, if it is selected. -/
def selected {α : Type} (b : Bool) (x : α) : Option α := if b then some x else none

/-- The channel a number from 1 to 6 names. -/
def channelOf (n : Nat) : Option (Fin 6) := if h : 1 ≤ n ∧ n ≤ 6 then some ⟨n - 1, by omega⟩ else none

/-- The tube a number from 1 to 4 names; 0 names CASH_BOX in a route (2.7.5). -/
def tubeOf (n : Nat) : Option (Fin 4) := if h : 1 ≤ n ∧ n ≤ 4 then some ⟨n - 1, by omega⟩ else none

/-- The spiral state a code of 2.7.4 names. -/
def SpiralState.ofCode (n : Nat) : SpiralState :=
  if n = 0 then .ready else if n = 1 then .soldOut else if n = 2 then .jammed else .disabled

/-- The fields that a SET_SPIRAL selects (R15). -/
structure SpiralRequest where
  price : Option Nat
  zone : Option Zone
  state : Option SpiralState
  stock : Option Nat
  twin : Option Bool
  jamClass : Option (Fin 4)
deriving DecidableEq, Repr

def State.spiralRequest (s : State) (slot : Nat) : SpiralRequest :=
  { price := selected (s.slotBit slot 9 0) (s.slotHalf slot 10),
    zone := selected (s.slotBit slot 9 1) (if s.slotByte slot 12 = 0 then .ambient else .chilled),
    state := selected (s.slotBit slot 9 2) (SpiralState.ofCode (s.slotByte slot 13)),
    stock := selected (s.slotBit slot 9 3) (s.slotByte slot 14),
    twin := selected (s.slotBit slot 9 4) (s.slotByte slot 15 == 1),
    jamClass := selected (s.slotBit slot 9 5) (Fin.ofNat 4 (s.slotByte slot 16 - 1)) }

/-- The fields that a SET_COIN on a channel selects (R106). -/
structure ChannelRequest where
  value : Option Nat
  route : Option (Option (Fin 4))
  enable : Option Bool
deriving DecidableEq, Repr

def State.channelRequest (s : State) (slot : Nat) : ChannelRequest :=
  { value := selected (s.slotBit slot 10 0) (s.slotHalf slot 12),
    route := selected (s.slotBit slot 10 1) (tubeOf (s.slotByte slot 14)),
    enable := selected (s.slotBit slot 10 2) (s.slotByte slot 15 == 1) }

/-- The fields that a SET_COIN on a tube selects (R106). -/
structure TubeRequest where
  value : Option Nat
  count : Option Nat
  capacity : Option Nat
  reserve : Option Nat
deriving DecidableEq, Repr

def State.tubeRequest (s : State) (slot : Nat) : TubeRequest :=
  { value := selected (s.slotBit slot 10 3) (s.slotHalf slot 12),
    count := selected (s.slotBit slot 10 4) (s.slotByte slot 16),
    capacity := selected (s.slotBit slot 10 5) (s.slotByte slot 17),
    reserve := selected (s.slotBit slot 10 6) (s.slotByte slot 18) }

/-- The MONEY group of a SET_MONEY (R109), each field at offset 8 plus its distance in the mirror. -/
def State.moneyRequest (s : State) (slot : Nat) : MoneySettings :=
  { baseUnit := s.slotHalf slot 8, maxCredit := s.slotHalf slot 10,
    changeMode := if s.slotByte slot 12 = 0 then .immediate else .hold,
    overpay := if s.slotByte slot 13 = 0 then .refuse else .accept,
    guaranteeLimit := s.slotHalf slot 14 }

/-- The VEND group of a SET_VEND (R38). -/
def State.vendRequest (s : State) (slot : Nat) : VendSettings :=
  { loadWait := s.slotByte slot 8, revolutionLimit := s.slotByte slot 9, extraTurns := s.slotByte slot 10,
    assurance := if s.slotByte slot 11 = 0 then .off else if s.slotByte slot 11 = 1 then .preferred else .required,
    jamLimit := #v[s.slotHalf slot 12, s.slotHalf slot 14, s.slotHalf slot 16, s.slotHalf slot 18] }

/-- The LOAD group of a SET_LOAD (R148). -/
def State.loadRequest (s : State) (slot : Nat) : LoadSettings :=
  { budget := s.slotByte slot 8, startSize := s.slotByte slot 9, runSize := s.slotByte slot 10,
    heaterSize := s.slotByte slot 11, singleSize := s.slotByte slot 12, payoutSize := s.slotByte slot 13 }

/-- The PORT group of a SET_PORT (R52). -/
def State.portRequest (s : State) (slot : Nat) : PortSettings :=
  { keepalivePeriod := s.slotByte slot 8, silentDelay := s.slotHalf slot 9,
    maskDefault := BitVec.ofNat 9 (s.slotHalf slot 11) }

/-- The COOLING group of a SET_COOLING (R167). -/
def State.coolingRequest (s : State) (slot : Nat) : CoolingSettings :=
  { setpoint := s.slotSigned slot 8, differential := s.slotByte slot 10, minOff := s.slotHalf slot 11,
    minOn := s.slotHalf slot 13, startWindow := s.slotByte slot 15,
    fanMode := if s.slotByte slot 16 = 0 then .continuous else .withCompressor,
    cabBEnable := s.slotByte slot 17 == 1, trimA := s.slotSigned slot 18, trimB := s.slotSigned slot 20,
    trimEvap := s.slotSigned slot 22, filterK := s.slotByte slot 24, spreadLimit := s.slotByte slot 25,
    defrostInterval := s.slotByte slot 26,
    defrostType := if s.slotByte slot 27 = 0 then .heater else .offCycle,
    termination := s.slotSigned slot 28, maxDuration := s.slotByte slot 30, dripTime := s.slotByte slot 31,
    recoveryGrace := s.slotByte slot 32, safeLimit := s.slotSigned slot 33, allowedExposure := s.slotHalf slot 35 }

/-- The four coin numbers of a PAYOUT (R137). -/
def State.payoutCoins (s : State) (slot : Nat) : Vector Nat 4 :=
  #v[s.slotByte slot 12, s.slotByte slot 13, s.slotByte slot 14, s.slotByte slot 15]

/-! ## Validation (R33) -/

/-- A link names a slot or is 255 (R55, R56). -/
def linkOk (n : Nat) : Bool := decide (n ≤ 127) || n == 255

/-- The fields of a SET_COIN, those it selects (R106). -/
def coinChecks (s : State) (slot : Nat) : List Check :=
  let channel := s.slotByte slot 8 == 0
  let bit := s.slotBit slot 10
  [ byteIn s slot 8 0 1,
    byteIn s slot 9 1 (if channel then 6 else 4),
    ⟨10, if channel then decide (s.slotByte slot 10 < 8)
         else decide (s.slotByte slot 10 < 128 ∧ s.slotByte slot 10 % 8 = 0)⟩,
    (byteIn s slot 14 0 4).onlyIf (bit 1), (byteIn s slot 15 0 1).onlyIf (bit 2),
    (byteIn s slot 16 0 250).onlyIf (bit 4), (byteIn s slot 17 1 250).onlyIf (bit 5),
    (byteIn s slot 18 0 250).onlyIf (bit 6) ]

/-- The request fields of each kind with their ranges, in ascending order of offset. DESIGN CHOICE
(notes/assumptions/38.md): the four coin numbers of a PAYOUT are four fields, at the offsets 12 to 15. -/
def requestChecks (k : CardKind) (s : State) (slot : Nat) : List Check :=
  match k with
  | .vend => [⟨4, linkOk (s.slotByte slot 4)⟩, byteIn s slot 9 0 1]
  | .cancel => [byteIn s slot 8 0 127]
  | .returnCredit => []
  | .payout =>
    let list := s.slotByte slot 8 == 3
    [ byteIn s slot 8 2 3, (byteIn s slot 12 0 250).onlyIf list, (byteIn s slot 13 0 250).onlyIf list,
      (byteIn s slot 14 0 250).onlyIf list, (byteIn s slot 15 0 250).onlyIf list ]
  | .tubeFill => [byteIn s slot 8 1 4, byteIn s slot 9 0 250]
  | .setSpiral =>
    let bit := s.slotBit slot 9
    [ byteIn s slot 8 1 80, ⟨9, decide (s.slotByte slot 9 < 64)⟩, (byteIn s slot 12 0 1).onlyIf (bit 1),
      (⟨13, s.slotByte slot 13 == 0 || s.slotByte slot 13 == 1 || s.slotByte slot 13 == 3⟩ : Check).onlyIf (bit 2),
      (byteIn s slot 15 0 1).onlyIf (bit 4), (byteIn s slot 16 1 4).onlyIf (bit 5) ]
  | .setCoin => coinChecks s slot
  | .setMoney => [halfIn s slot 8 1 1000, byteIn s slot 12 0 1, byteIn s slot 13 0 1]
  | .setVend =>
    [ byteIn s slot 8 5 60, byteIn s slot 9 10 150, byteIn s slot 10 0 2, byteIn s slot 11 0 2, halfIn s slot 12 10 290,
      halfIn s slot 14 10 290, halfIn s slot 16 10 290, halfIn s slot 18 10 290 ]
  | .setCooling =>
    [ signedIn s slot 8 (-50) 120, byteIn s slot 10 5 50, halfIn s slot 11 60 900, halfIn s slot 13 30 600,
      byteIn s slot 15 1 5, byteIn s slot 16 0 1, byteIn s slot 17 0 1, signedIn s slot 18 (-50) 50,
      signedIn s slot 20 (-50) 50, signedIn s slot 22 (-50) 50, byteIn s slot 24 0 5, byteIn s slot 25 20 200,
      byteIn s slot 26 0 24, byteIn s slot 27 0 1, signedIn s slot 28 0 200, byteIn s slot 30 5 60,
      byteIn s slot 31 0 10, byteIn s slot 32 0 60, signedIn s slot 33 10 150, halfIn s slot 35 60 14400 ]
  | .setLoad =>
    [ byteIn s slot 8 4 30, byteIn s slot 9 1 30, byteIn s slot 10 1 30, byteIn s slot 11 1 30, byteIn s slot 12 1 15,
      byteIn s slot 13 1 30 ]
  | .setPort => [halfIn s slot 9 0 600, halfIn s slot 11 0 0x1FF]
  | .releaseZone => []
  | .defrostNow => []
  | .testSpiral => [byteIn s slot 8 1 80]
  | .resumeDrive => []
  | .snapshot => []
  | .store => []
  | .defaults => [byteIn s slot 8 1 7]

/-- Validation of the card in a slot: the offset of the first field that fails (R33). -/
def State.failing (s : State) (slot : Nat) : Option Nat :=
  match s.cardKind slot with
  | none => some 1
  | some k => if s.slotByte slot 5 < 2 then firstFailing (requestChecks k s slot) else some 5

/-- The relations between the fields of a SET_LOAD (R148). -/
def LoadSettings.consistent (l : LoadSettings) : Bool :=
  decide (l.startSize ≤ l.budget ∧ l.runSize ≤ l.budget ∧ l.heaterSize ≤ l.budget ∧ l.singleSize ≤ l.budget ∧
    l.payoutSize ≤ l.budget ∧ 2 * l.singleSize ≤ l.budget ∧ l.runSize ≤ l.startSize)

end Sys2Proof.Machine
end

