-- ==== Sys2Proof/Machine/View.lean ====
section
/-! DEFINITION. What the host reads: the areas of the exchange memory and their layouts (spec/02, 2.1 and 2.7), and the three
port registers. The areas the part keeps are computed from the state, which they show at every moment (R39, R40). -/

namespace Sys2Proof.Machine

/-- The areas of R19. -/
inductive Area where
  | identity | hostWords | statusPage | settingsMirror | cardPool | spiralTable | moneyTable | auditBlock | beyond
deriving DecidableEq, Repr

/-- The area of an address (R19). -/
def areaOf (addr : Nat) : Area :=
  if addr < 0x0040 then .identity
  else if addr < 0x0050 then .hostWords
  else if addr < 0x0200 then .statusPage
  else if addr < 0x0400 then .settingsMirror
  else if addr < 0x2400 then .cardPool
  else if addr < 0x2E00 then .spiralTable
  else if addr < 0x2F00 then .moneyTable
  else if addr < 0x3000 then .auditBlock
  else .beyond

/-! ## Codes -/

def Role.code : Role → Nat
  | .single => 0 | .lead => 1 | .follower => 2

def Zone.code : Zone → Nat
  | .ambient => 0 | .chilled => 1

def SpiralState.code : SpiralState → Nat
  | .ready => 0 | .soldOut => 1 | .jammed => 2 | .disabled => 3

def RestartReason.code : RestartReason → Nat
  | .powerOn => 1 | .resetPin => 2 | .supplyDip => 3

def StoreState.code : StoreState → Nat
  | .ok => 0 | .saving => 1 | .lost => 2

def Origin.code : Origin → Nat
  | .lever => 1 | .card => 2 | .postVend => 3 | .silentReturn => 4 | .service => 5

def PayForm.code : PayForm → Nat
  | .creditReturn => 1 | .amount => 2 | .tubeList => 3

def Stage.code : Stage → Nat
  | .claiming => 1 | .leavingHome => 2 | .turning => 3 | .dropWait => 4

def Claimant.code : Claimant → Nat
  | .compressor => 1 | .heater => 2 | .drive => 3 | .payout => 4

def ChannelState.code : ChannelState → Nat
  | .unseeded => 0 | .valid => 1 | .fault => 2 | .disabled => 3

def CompressorState.code : CompressorState → Nat
  | .offResting => 0 | .offIdle => 1 | .claiming => 2 | .starting => 3 | .running => 4

def DefrostState.code : DefrostState → Nat
  | .notDue => 0 | .due => 1 | .claimingHeat => 2 | .heating => 3 | .offCycle => 4 | .draining => 5

def ZoneState.code : ZoneState → Nat
  | .unverified => 0 | .safe => 1 | .exposed => 2 | .locked => 3

def ChangeMode.code : ChangeMode → Nat
  | .immediate => 0 | .hold => 1

def OverpayRule.code : OverpayRule → Nat
  | .refuse => 0 | .accept => 1

def DropAssurance.code : DropAssurance → Nat
  | .off => 0 | .preferred => 1 | .required => 2

def FanMode.code : FanMode → Nat
  | .continuous => 0 | .withCompressor => 1

def DefrostType.code : DefrostType → Nat
  | .heater => 0 | .offCycle => 1

/-- The number of a temperature field: NO_READING is −32,768 (spec/00_scope.md, Temperatures). -/
def tempField (t : Option Int) : Nat := unsigned16 (t.getD (-32768))

/-- The number of a slot field: 255 means no slot. -/
def slotField (slot : Option Nat) : Nat := slot.getD 255

/-! ## Layouts -/

/-- The identity block (R20, 2.7.7). -/
def identityFields : List Field :=
  layOut 0x0000 [(2, 0x0C7B), (2, 0x4820), (1, Config.siliconRevision.toNat), (1, 1), (1, 80), (1, 128), (1, 16), (1, 4)]

/-- The card that a payout entry carries. -/
def PayEntry.slot (e : PayEntry) : Option Nat := e.card.map AttachedCard.slot

/-- The status page from 0x0050 to 0x005F (2.7.6). -/
def statusHead (s : State) : List Field :=
  layOut 0x0050
    [(1, s.reason.code), (1, flag s.storeLost), (1, flag s.sup.alive), (1, flag (s.door == .opened)),
     (1, flag s.driveFaulted), (1, flag s.drop.fault), (1, s.store.state.code), (1, s.refused), (2, s.credit), (2, s.held),
     (1, flag s.exactOnly)] ++ [⟨0x005E, 2, s.guaranteed⟩]

/-- The status page from 0x0060 to 0x006F: tubes, payout and vend (2.7.6). -/
def statusMoney (s : State) : List Field :=
  let p := s.payout
  [⟨0x0060, 4, ofLe (s.tubes.toList.map fun t => BitVec.ofNat 8 t.count)⟩] ++
  layOut 0x0064
    [(1, flag p.isSome), (1, ((p.map fun p => p.entry.origin.code).getD 0)),
     (2, (p.map fun p => field16 (p.due - p.paid)).getD 0), (1, slotField (p.bind fun p => p.entry.slot)),
     (1, (p.map fun p => p.entry.form.code).getD 0), (1, flag s.returnMark.isSome), (1, s.payQueue.length),
     (1, slotField (s.flight.map Flight.slot)), (1, (s.flight.map fun f => f.spiral.val + 1).getD 0),
     (1, (s.flight.map fun f => f.stage.code).getD 0), (1, s.vendQueue.length)]

/-- The status page from 0x0070 to 0x0076: the load budget (2.7.6, R142, R144). -/
def statusLoad (s : State) : List Field :=
  layOut 0x0070 [(1, s.loadSet.budget), (1, s.granted), (1, s.waiting.length),
    (4, ofLe (s.waiting.map fun w => BitVec.ofNat 8 w.claimant.code))]

/-- The status page from 0x0078 to 0x0098: the cold path (2.7.6). -/
def statusCold (s : State) : List Field :=
  [⟨0x0078, 2, tempField s.cabA.reading⟩, ⟨0x007A, 1, s.cabA.state.code⟩,
   ⟨0x007C, 2, tempField s.cabB.reading⟩, ⟨0x007E, 1, s.cabB.state.code⟩,
   ⟨0x0080, 2, tempField s.evap.reading⟩, ⟨0x0082, 1, s.evap.state.code⟩,
   ⟨0x0084, 2, tempField s.controlTemp⟩,
   ⟨0x0086, 1, if s.cabA.reading.isSome then 1 else if s.cabB.reading.isSome then 2 else 0⟩,
   ⟨0x0087, 1, s.comp.state.code⟩, ⟨0x0088, 1, s.defrost.state.code⟩, ⟨0x0089, 1, flag s.airflow⟩,
   ⟨0x008A, 1, flag s.defrost.timeoutFlag⟩, ⟨0x008B, 1, flag s.fanOn⟩, ⟨0x008C, 1, flag s.fallback.isSome⟩,
   ⟨0x008D, 1, flag s.defrost.grace.isSome⟩, ⟨0x0090, 4, s.runTime⟩, ⟨0x0094, 1, s.zone.code⟩, ⟨0x0096, 2, s.exposure⟩,
   ⟨0x0098, 2, tempField s.safetyTemp⟩]

/-- The status page from 0x009A: the intake list length and the two queues (2.7.6). -/
def statusQueues (s : State) : List Field :=
  [⟨0x009A, 1, s.intake.length⟩] ++
  layOut 0x00A0 ((List.range 16).map fun i => (1, slotField (s.vendQueue[i]?.map QueueEntry.slot))) ++
  layOut 0x00B0 ((List.range 4).flatMap fun i =>
    match s.payQueue[i]? with
    | none => [(1, 0), (1, 0), (1, 255)]
    | some e => [(1, e.origin.code), (1, e.form.code), (1, slotField e.slot)])

/-- The status page (2.7.6). -/
def statusFields (s : State) : List Field :=
  statusHead s ++ statusMoney s ++ statusLoad s ++ statusCold s ++ statusQueues s

/-- The settings mirror (R40). -/
def mirrorFields (s : State) : List Field :=
  let m := s.moneySet
  let v := s.vendSet
  let l := s.loadSet
  let p := s.portSet
  let c := s.coolSet
  layOut 0x0200 [(2, m.baseUnit), (2, m.maxCredit), (1, m.changeMode.code), (1, m.overpay.code), (2, m.guaranteeLimit)] ++
  layOut 0x0220 ([(1, v.loadWait), (1, v.revolutionLimit), (1, v.extraTurns), (1, v.assurance.code)] ++
    v.jamLimit.toList.map fun n => (2, n)) ++
  layOut 0x0240 [(1, l.budget), (1, l.startSize), (1, l.runSize), (1, l.heaterSize), (1, l.singleSize),
    (1, l.payoutSize)] ++
  layOut 0x0260 [(1, p.keepalivePeriod), (2, p.silentDelay), (2, p.maskDefault.toNat)] ++
  layOut 0x0280 [(2, unsigned16 c.setpoint), (1, c.differential), (2, c.minOff), (2, c.minOn), (1, c.startWindow),
    (1, c.fanMode.code), (1, flag c.cabBEnable), (2, unsigned16 c.trimA), (2, unsigned16 c.trimB),
    (2, unsigned16 c.trimEvap), (1, c.filterK), (1, c.spreadLimit), (1, c.defrostInterval), (1, c.defrostType.code),
    (2, unsigned16 c.termination), (1, c.maxDuration), (1, c.dripTime), (1, c.recoveryGrace),
    (2, unsigned16 c.safeLimit), (2, c.allowedExposure)]

/-- The record of a spiral (2.7.4). -/
def spiralFields (base : Nat) (i : Fin 80) (r : Spiral) : List Field :=
  layOut base [(1, i.val + 1), (1, r.role.code), (1, r.zone.code), (1, r.state.code), (2, r.price), (1, r.stock),
    (1, r.jamClass.val + 1), (2, r.sales), (2, r.lastRevolution), (2, r.lastOutcome.code), (1, flag r.inFlight)]

/-- The number of a route: 0 is CASH_BOX (2.7.5). -/
def routeField (route : Option (Fin 4)) : Nat := (route.map fun t => t.val + 1).getD 0

/-- The record of a coin channel (2.7.5). -/
def channelFields (base : Nat) (c : Fin 6) (s : State) : List Field :=
  let r := s.channels[c]
  layOut base [(1, c.val + 1), (1, flag r.enable), (2, r.value), (1, routeField r.route), (1, flag (s.channelInhibit c))]

/-- The record of a tube (2.7.5). -/
def tubeFields (base : Nat) (t : Fin 4) (s : State) : List Field :=
  let r := s.tubes[t]
  layOut base [(1, t.val + 1), (1, r.count), (2, r.value), (1, r.capacity), (1, r.reserve), (1, flag r.full),
    (1, flag r.gate.isSome), (1, flag r.busy)]

/-- The 26 counters of one half of the audit block (2.7.7, R182). -/
def counterFields (base : Nat) (c : Counters) : List Field := layOut base (c.toList.map fun n => (4, n.toNat))

/-- The fields of the spiral record that covers an address (R1). -/
def spiralTableFields (s : State) (addr : Nat) : List Field :=
  match spiralOf ((addr - 0x2400) / 32 + 1) with
  | none => []
  | some i => spiralFields (0x2400 + 32 * i.val) i s.spirals[i]

/-- The fields of the money table record that covers an address (2.7.5). -/
def moneyTableFields (s : State) (addr : Nat) : List Field :=
  match channelOf ((addr - 0x2E00) / 16 + 1), tubeOf ((addr - 0x2E00) / 16 - 5) with
  | some c, _ => channelFields (0x2E00 + 16 * c.val) c s
  | none, some t => tubeFields (0x2E60 + 16 * t.val) t s
  | none, none => []

/-- The fields of the half of the audit block that covers an address (2.7.7). -/
def auditFields (s : State) (addr : Nat) : List Field :=
  if addr < 0x2F80 then counterFields 0x2F00 s.live else counterFields 0x2F80 s.snap

/-- The byte that the host reads at an address (R19, R25). -/
def State.readByte (s : State) (addr : Nat) : Byte :=
  if s.ready then
    match areaOf addr with
    | .identity => fieldByte identityFields addr
    | .hostWords => readCell s.mem addr
    | .statusPage => fieldByte (statusFields s) addr
    | .settingsMirror => fieldByte (mirrorFields s) addr
    | .cardPool => readCell s.mem addr
    | .spiralTable => fieldByte (spiralTableFields s addr) addr
    | .moneyTable => fieldByte (moneyTableFields s addr) addr
    | .auditBlock => fieldByte (auditFields s addr) addr
    | .beyond => 0
  else 0

/-- The bytes of a record, for a result body that shows it (R106). -/
def recordBytes (fields : List Field) (size : Nat) : List Byte := (List.range size).map (fieldByte fields)

/-! ## Registers -/

/-- PORT_STATUS (R46, 2.7.7): while the port is not ready its fields read 0. -/
def State.portStatus (s : State) : List Byte :=
  if s.ready then [BitVec.ofNat 8 (1 + 2 * s.store.state.code), BitVec.ofNat 8 s.refused] else [0, 0]

/-- The byte that a read of NOTICE chooses (R42); 0 while the port is not ready (R25). -/
def State.noticeByte (s : State) : Byte :=
  if s.ready then BitVec.ofNat 8 ((s.topNotice.map Prod.fst).getD 0) else 0

/-- What a REGISTER READ returns before the zeros that follow it (R24); numbers not in the table return 0x00. -/
def State.readRegister (s : State) (register : Byte) : List Byte :=
  if register = 1 then [s.noticeByte]
  else if register = 2 then (if s.ready then leBytes s.noticeMask.toNat 2 else [0, 0])
  else if register = 3 then s.portStatus
  else []

end Sys2Proof.Machine
end

