-- ==== Sys2Proof/Machine/Reading.lean ====
section
/-! DEFINITION. The bytes of a read as they are sent (R22): where a field of 2 or 4 bytes begins, and its capture. -/

namespace Sys2Proof.Machine

/-- The addresses of `n` bytes from `addr` onward: after 0xFFFF the address continues at 0x0000 (R22). -/
def addresses (addr : Half) (n : Nat) : List Nat := (List.range n).map fun i => (addr.toNat + i) % 65536

/-- The `n` bytes that stand from `addr` onward (R22). -/
def readBytes (addr : Half) (n : Nat) (s : State) : List Byte := (addresses addr n).map s.readByte

/-- The offsets and widths of the fields of 2 and 4 bytes that a card of a kind has beside its header (2.7.2, 2.7.8). The
record in the result of a SET_COIN has its value at its offset 2. The settings groups are laid out as their mirror is. -/
def wideFields : CardKind → List (Nat × Nat)
  | .vend => [(10, 2), (40, 2), (44, 2), (46, 2), (48, 2), (50, 2)]
  | .cancel => []
  | .returnCredit => [(40, 2), (42, 2)]
  | .payout => [(10, 2), (12, 4), (40, 2), (42, 2), (44, 4)]
  | .tubeFill => [(42, 2)]
  | .setSpiral => [(10, 2), (44, 2)]
  | .setCoin => [(12, 2), (42, 2)]
  | .setMoney => [(8, 2), (10, 2), (14, 2)]
  | .setVend => [(12, 2), (14, 2), (16, 2), (18, 2)]
  | .setCooling => [(8, 2), (11, 2), (13, 2), (18, 2), (20, 2), (22, 2), (28, 2), (33, 2), (35, 2)]
  | .setLoad => []
  | .setPort => [(9, 2), (11, 2)]
  | .defaults => []
  | .releaseZone => [(42, 2), (44, 2)]
  | .defrostNow => [(40, 2), (42, 2)]
  | .testSpiral => [(40, 2), (42, 2)]
  | .resumeDrive => [(40, 2)]
  | .snapshot => [(40, 2)]
  | .store => [(40, 2)]

/-- The width of the field that begins at an offset of a slot (2.7.1, 2.7.2, 2.7.8), by the kind byte that stands there. -/
def cardFieldWidth (kind : Option CardKind) (offset : Nat) : Nat :=
  if offset = 2 ∨ offset = 6 then 2
  else (((kind.map wideFields).getD []).lookup offset).getD 1

/-- The width of the field that begins at an address, 1 where no wider one does (2.7). -/
def State.widthAt (s : State) (addr : Nat) : Nat :=
  match areaOf addr with
  | .identity => fieldWidth identityFields addr
  | .hostWords => if addr = 0x0040 then 2 else 1
  | .statusPage => fieldWidth (statusFields s) addr
  | .settingsMirror => fieldWidth (mirrorFields s) addr
  | .cardPool => cardFieldWidth (CardKind.ofCode (s.slotByte ((addr - 0x0400) / 64) 1)) (addr % 64)
  | .spiralTable => fieldWidth (spiralTableFields s addr) addr
  | .moneyTable => fieldWidth (moneyTableFields s addr) addr
  | .auditBlock => fieldWidth (auditFields s addr) addr
  | .beyond => 1

/-- One byte of a read is sent: the next of the captured field, or the byte as it stands, which captures the field that
begins there (R22). While the port is not ready the byte is 0x00 and nothing is captured (R25); after a port reset data out
stays 0x00 (R47). -/
def sendByte (s : State) (r : Reading) : Byte × Reading :=
  match r, s.ready with
  | .discarded, _ => (0, .discarded)
  | .bytes next _, false => (0, .bytes (next + 1) [])
  | .bytes next (b :: rest), true => (b, .bytes (next + 1) rest)
  | .bytes next [], true =>
    (s.readByte next.toNat, .bytes (next + 1) (readBytes (next + 1) (s.widthAt next.toNat - 1) s))

/-- The next `n` bytes of an open transaction, and where it then stands. -/
def sendBytes (s : State) : Nat → Reading → List Byte × Reading
  | 0, r => ([], r)
  | n + 1, r => ((sendByte s r).1 :: (sendBytes s n (sendByte s r).2).1, (sendBytes s n (sendByte s r).2).2)

end Sys2Proof.Machine
end

