-- ==== Sys2Proof/Machine/Port.lean ====
section
/-! DEFINITION. The SPI port, the exchange monitor, the port registers and host supervision (spec/02, 2.2 to 2.4; spec/03). -/

namespace Sys2Proof.Machine

/-! ## Reading -/

/-- A transaction begins, which ends the read that was open: while its first `n` bytes are clocked, data out is 0x00
(R21). -/
def openTransaction (n : Nat) (s : State) : State := { s with dataOut := List.replicate n 0, reading := none }

/-- `count` bytes of an open transaction go out behind what the transaction has sent already (R22). -/
def sendRead (sentBefore : List Byte) (r : Reading) (count : Nat) (s : State) : State :=
  { s with dataOut := sentBefore ++ (sendBytes s count r).1, reading := some (sendBytes s count r).2 }

/-- R22: the bytes go out, after the four of the command where the transaction begins here. Without a read that is open
there is none to go on with. -/
def execMemoryRead (start : Option Half) (count : Nat) (s : State) : Host.Outcome State Fault Refusal :=
  .next (match start, s.reading with
    | some addr, _ => sendRead (List.replicate 4 0) (.bytes addr []) count s
    | none, some r => sendRead [] r count s
    | none, none => s)

/-- The first `n` bytes of a register's answer, 0x00 after its end (R24). -/
def sent (answer : List Byte) (n : Nat) : List Byte := (answer ++ List.replicate n 0).take n

/-- A read of NOTICE sent in full clears the class that it returned (R42). -/
def clearNotice (s : State) : State :=
  match s.topNotice with
  | none => s
  | some (_, c) => if s.ready then { s with noticePending := s.noticePending &&& ~~~c.bit } else s

/-- A REGISTER READ with `n` data bytes sent in full (R24, R42): only NOTICE, number 0x01, takes an effect, with its first
byte. -/
def readRegisterBytes (register : Byte) (n : Nat) (s : State) : State :=
  { (if register = 1 ∧ 0 < n then clearNotice s else s) with
    dataOut := List.replicate 3 0 ++ sent (s.readRegister register) n, reading := none }

/-- R24, R42. -/
def execNoticeRead (read : RegisterRead) (s : State) : Host.Outcome State Fault Refusal :=
  .next (readRegisterBytes read.register read.count s)

/-! ## Host supervision (R48 to R52) -/

/-- The keepalive word at 0x0040 (R19). -/
def State.keepaliveWord (s : State) : Nat := (readCell s.mem 0x0040).toNat + 256 * (readCell s.mem 0x0041).toNat

/-- The end of a supervision period that starts now; none while P is 0 (R48). -/
def State.periodFromNow (s : State) : Option Nat :=
  if s.portSet.keepalivePeriod = 0 then none else some (s.now + 1000 * s.portSet.keepalivePeriod)

/-- A write of the keepalive word is judged at the end of its transaction (R48). -/
def judgeKeepalive (s : State) : State :=
  if !s.sup.alive && s.keepaliveWord != s.sup.reference then
    { s with sup := { alive := true, reference := s.keepaliveWord, period := s.periodFromNow, silentReturn := none } }
  else s

/-- The end of a supervision period (R48): the next one starts, or supervision falls SILENT and arms the silent return
(R50). -/
def periodEnds (s : State) : State :=
  if s.keepaliveWord = s.sup.reference then
    { s with sup := { s.sup with alive := false, period := none,
                                 silentReturn := if s.portSet.silentDelay = 0 then none
                                                 else some (s.now + 1000 * s.portSet.silentDelay) } }
  else { s with sup := { s.sup with reference := s.keepaliveWord, period := s.periodFromNow } }

/-- R48. -/
def execKeepalivePeriodEnd (s : State) : Host.Outcome State Fault Refusal :=
  .next (match s.sup.period with
    | some t => if s.ready ∧ s.sup.alive then periodEnds (s.reach t) else s
    | none => s)

/-- R50: the silent return is disarmed, and the available credit is asked back once. -/
def execSilentReturnExpiry (s : State) : Host.Outcome State Fault Refusal :=
  .next (match s.sup.silentReturn with
    | some t =>
      if s.ready then
        requestReturnIfAny .silentReturn { s.reach t with sup := { s.sup with silentReturn := none } }
      else s
    | none => s)

/-- The PORT group takes new values (R52), by SET_PORT or DEFAULTS. -/
def applyPort (p : PortSettings) (s : State) : State :=
  let old := s.portSet.keepalivePeriod
  let s := { s with portSet := p }
  let s := if p.silentDelay = 0 then { s with sup := { s.sup with silentReturn := none } } else s
  if s.sup.alive ∧ p.keepalivePeriod ≠ old then
    { s with sup := { s.sup with period := s.periodFromNow,
                                 reference := if old = 0 then s.keepaliveWord else s.sup.reference } }
  else s

/-! ## Writing (R23, R27, R28) -/

/-- The slot of a card-pool address. -/
def slotOfAddr (addr : Nat) : Nat := (addr - 0x0400) / 64

/-- The address is the holder byte of its slot. -/
def isHolderAddr (addr : Nat) : Bool := areaOf addr == .cardPool && addr % 64 == 0

/-- The body of a slot was locked when the transaction began (R23, R27): its holder locks it now, or the part has completed
the card since. DESIGN CHOICE (notes/assumptions/35.md): a transaction open across a restart, which clears the pool, is
judged at its release all the same. -/
def lockedAtStart (completed : List Nat) (slot : Nat) (s : State) : Bool :=
  (s.holder slot).locksBody || (s.holder slot == .done && completed.contains slot)

/-- The byte at an address that holds no holder is stored (R19, R27). -/
def stores (completed : List Nat) (addr : Nat) (s : State) : Bool :=
  match areaOf addr with
  | .hostWords => true
  | .cardPool => !lockedAtStart completed (slotOfAddr addr) s
  | .identity => false
  | .statusPage => false
  | .settingsMirror => false
  | .spiralTable => false
  | .moneyTable => false
  | .auditBlock => false
  | .beyond => false

/-- The bytes of a transaction with their addresses (R23). -/
def placed (addr : Half) (data : List Byte) : List (Nat × Byte) := (addresses addr data.length).zip data

/-- The bytes that are no holder bytes and are stored, in the order in which they arrived (R23). -/
def acceptedBytes (completed : List Nat) (bytes : List (Nat × Byte)) (s : State) : List (Nat × Byte) :=
  bytes.filter fun b => !isHolderAddr b.1 && stores completed b.1 s

/-- Some byte that is no holder byte is discarded (R26). -/
def someDiscarded (completed : List Nat) (bytes : List (Nat × Byte)) (s : State) : Bool :=
  bytes.any fun b => !isHolderAddr b.1 && !stores completed b.1 s

/-- Stores bytes at their addresses, a later byte over an earlier one. -/
def storeBytes : List (Nat × Byte) → List Host.Cell → List Host.Cell
  | [], m => m
  | (a, v) :: rest, m => storeBytes rest (writeCell m a v)

/-- What the exchange monitor makes of one holder byte (R28). -/
inductive HolderMove where
  | post | link | release | withdraw | keep | refuse
deriving DecidableEq, Repr

/-- The table of R28. -/
def holderMove (before : Holder) (value : Nat) : HolderMove :=
  match before, Holder.ofCode value with
  | .free, some .posted => .post
  | .free, some .linked => .link
  | .linked, some .free => .release
  | .done, some .free => .release
  | .posted, some .free => .withdraw
  | h, some h' => if h = h' then .keep else .refuse
  | _, none => .refuse

/-- One holder byte is evaluated (R28, R31, R32). -/
def evaluateHolder (slot value : Nat) (s : State) : State :=
  match holderMove (s.holder slot) value with
  | .post => { s.setHolder slot .posted with intake := s.intake ++ [slot] }
  | .link => s.setHolder slot .linked
  | .release => s.setHolder slot .free
  | .withdraw => { s.setHolder slot .free with intake := s.intake.filter (· != slot) }
  | .keep => s
  | .refuse => s

/-- The holder bytes that a transaction carries, by slot, in ascending order; the last byte for an address stands (R23). -/
def holderBytes (bytes : List (Nat × Byte)) : List (Nat × Nat) :=
  (List.range 128).filterMap fun slot =>
    (bytes.reverse.find? fun b => b.1 == slotAddr slot 0).map fun b => (slot, b.2.toNat)

/-- Evaluates holder bytes one after the other; the flag tells whether one was refused (R23, R26). -/
def evaluateHolders : List (Nat × Nat) → State × Bool → State × Bool
  | [], r => r
  | (slot, value) :: rest, (s, refused) =>
    evaluateHolders rest
      (evaluateHolder slot value s, refused || holderMove (s.holder slot) value == .refuse)

/-- A MEMORY WRITE is applied at the release of chip select (R23): the bodies, then the holders, then supervision; a refusal
is counted once for the transaction (R26). -/
def applyWrite (addr : Half) (data : List Byte) (completed : List Nat) (s : State) : State :=
  let bytes := placed addr data
  let discarded := someDiscarded completed bytes s
  let stored := { s with mem := storeBytes (acceptedBytes completed bytes s) s.mem }
  let (s, refused) := evaluateHolders (holderBytes bytes) (stored, discarded)
  let s := if bytes.any (fun b => b.1 == 0x0040 || b.1 == 0x0041) then judgeKeepalive s else s
  if refused then countRefused s else s

/-- R23, R25. -/
def execMemoryWrite (addr : Half) (data : List Byte) (completed : List Nat) (s : State) :
    Host.Outcome State Fault Refusal :=
  .next (openTransaction 3 (if s.ready then applyWrite addr data completed s else s))

/-! ## Registers and transactions -/

/-- A REGISTER WRITE (R24, R43): NOTICE_MASK takes two data bytes, every other write is refused. -/
def writeRegister (register : Byte) (data : List Byte) (s : State) : State :=
  match data with
  | low :: high :: _ =>
    if register = 2 then { s with noticeMask := BitVec.ofNat 9 (low.toNat + 256 * high.toNat) } else countRefused s
  | _ => countRefused s

/-- R43. -/
def execNoticeMaskWrite (data : List Byte) (s : State) : Host.Outcome State Fault Refusal :=
  .next (openTransaction 2 (if s.ready then writeRegister 2 data s else s))

/-- R24. -/
def execRegisterWriteRefused (register : Byte) (data : List Byte) (s : State) : Host.Outcome State Fault Refusal :=
  .next (openTransaction 2 (if s.ready then writeRegister register data s else s))

/-- A transaction of the host arrives (R21): the command that its bytes spell joins the queue. One released before its address
or register number is complete has no effect. -/
def State.receive (completed : List Nat) (bytes : List Byte) (s : State) : State :=
  match decodeTransaction completed bytes with
  | some i => { s with pending := s.pending ++ [i] }
  | none => s

/-- The four command bytes of R21. -/
def isCommandByte (b : Byte) : Bool := b == 0x51 || b == 0x52 || b == 0x61 || b == 0x62

/-- R21: an unknown command is counted as refused. A known command byte alone has no effect. -/
def execUnknownCommand (command : Byte) (s : State) : Host.Outcome State Fault Refusal :=
  .next (openTransaction 1 (if s.ready ∧ isCommandByte command = false then countRefused s else s))

/-- R47: the transaction in progress is discarded and PORT is raised; while the port is not ready no notice is. An assertion
of chip select takes one port reset, however long it lasts. -/
def execPortReset (s : State) (released : Bool := true) : Host.Outcome State Fault Refusal :=
  .next (if released ∨ s.reading ≠ some .discarded then raise .port { s with reading := some .discarded } else s)

end Sys2Proof.Machine
end

