-- ==== Sys2Proof/Machine/Intake.lean ====
section
/-! DEFINITION. The card dispatcher and what each kind of card does as it is taken from the intake list (spec/02, 2.5 and 2.6,
and the card rules of every chapter). -/

namespace Sys2Proof.Machine

/-! ## Taking a card (R33) -/

/-- The slot that the dispatcher takes next. From the PFAIL warning on it takes none (R180). -/
def State.headSlot (s : State) : Option Nat := if s.working then s.intake.head? else none

/-- The head leaves the intake list and becomes TAKEN (R29, R33). -/
def takeHead (slot : Nat) (s : State) : State := takeSlot slot { s with intake := s.intake.drop 1 }

/-- A card that fails validation ends BAD_CARD with the offset of the failing field (R33). -/
def endBadCard (slot off : Nat) (s : State) : State :=
  complete slot .badCard (s.putSlot slot 40 [BitVec.ofNat 8 off])

/-- The dispatcher takes the head, if it is a card of kind `k`, validates it, and hands it on. -/
def dispatch (k : CardKind) (handle : Nat → State → State) (s : State) : State :=
  match s.headSlot with
  | none => s
  | some slot =>
    if s.cardKind slot = some k then
      match s.failing slot with
      | some off => endBadCard slot off (takeHead slot s)
      | none => handle slot (takeHead slot s)
    else s

/-- R33: the head fails validation. -/
def execBadCard (s : State) : Host.Outcome State Fault Refusal :=
  .next (match s.headSlot with
    | none => s
    | some slot =>
      match s.failing slot with
      | some off => endBadCard slot off (takeHead slot s)
      | none => s)

/-! ## VEND and its baskets (R34, R55 to R57) -/

/-- The free entries of the vend queue (R53). -/
def State.vendRoom (s : State) : Nat := 16 - s.vendQueue.length

/-- A VEND ends at intake: nothing charged, no revolution, no drop (R55). -/
def endVendAtIntake (slot : Nat) (o : CardOutcome) (s : State) : State :=
  complete slot o (putVendResult slot 0 0 none s)

/-- A slot that the walk visits is recorded once, even when a cycle reaches it twice (R56). -/
def visit (slot : Nat) (seen : List Nat) : List Nat := if seen.contains slot then seen else seen ++ [slot]

/-- The walk of a chain from a follower on (R56), with so many cards left before the ninth: the LINKED slots visited, and
whether the chain is not bad. -/
def walkChain (s : State) : Nat → Nat → List Nat → List Nat × Bool
  | 0, _, seen => (seen, false)
  | left + 1, slot, seen =>
    if s.holder slot ≠ .linked then (seen, false)
    else if s.cardKind slot ≠ some .vend ∨ (s.failing slot).isSome then (visit slot seen, false)
    else if s.slotByte slot 4 = 255 then (visit slot seen, true)
    else walkChain s left (s.slotByte slot 4) (visit slot seen)

/-- The chain of a head: a head paid by COIN_CREDIT is bad before a slot is visited (R56). -/
def chainOf (head : Nat) (s : State) : List Nat × Bool :=
  if s.slotByte head 9 = 0 then ([], false) else walkChain s 7 (s.slotByte head 4) []

/-- A follower of a bad chain is written TAKEN and then DONE with CHAIN_ABORTED (R56); a card that is not a VEND has no vend
result. -/
def abortFollower (slot : Nat) (s : State) : State :=
  let s := takeSlot slot s
  if s.cardKind slot = some .vend then endVendAtIntake slot .chainAborted s else complete slot .chainAborted s

/-- Each of the slots in turn. -/
def forEach (f : Nat → State → State) : List Nat → State → State
  | [], s => s
  | slot :: rest, s => forEach f rest (f slot s)

/-- The chain joins the tail of the vend queue in one step, head first (R57). -/
def placeChain (head : Nat) (followers : List Nat) (s : State) : State :=
  let s := forEach takeSlot followers s
  { s with vendQueue := s.vendQueue ++ (head :: followers).map fun slot => ⟨slot, some head⟩ }

/-- A VEND whose link is not 255 (R56, R57). -/
def takeBasket (head : Nat) (s : State) : State :=
  match chainOf head s with
  | (followers, true) =>
    if followers.length + 1 ≤ s.vendRoom then placeChain head followers s
    else
      endVendAtIntake head .queueFull
        (forEach (fun slot s => endVendAtIntake slot .queueFull (takeSlot slot s)) followers s)
  | (visited, false) => endVendAtIntake head .badChain (forEach abortFollower visited s)

/-- A valid VEND (R34). -/
def takeVend (slot : Nat) (s : State) : State :=
  if s.slotByte slot 4 = 255 then
    if 0 < s.vendRoom then { s with vendQueue := s.vendQueue ++ [⟨slot, none⟩] } else endVendAtIntake slot .queueFull s
  else takeBasket slot s

/-- R34, R55. -/
def execVend (s : State) : Host.Outcome State Fault Refusal := .next (dispatch .vend takeVend s)

/-! ## TEST_SPIRAL (R34, R78) -/

/-- A valid TEST_SPIRAL joins the vend queue. -/
def takeTest (slot : Nat) (s : State) : State :=
  if 0 < s.vendRoom then { s with vendQueue := s.vendQueue ++ [⟨slot, none⟩] } else complete slot .queueFull s

/-- R78. -/
def execTestSpiral (s : State) : Host.Outcome State Fault Refusal := .next (dispatch .testSpiral takeTest s)

/-! ## CANCEL (R73 to R75) -/

/-- What a CANCEL finds its target to be (R73). -/
inductive CancelTarget where
  | notCancellable
  | queued (basket : Option Nat)
  | claiming (basket : Option Nat)
  | tooLate
deriving DecidableEq, Repr

/-- The first line of R73 that applies. -/
def cancelTarget (target : Nat) (s : State) : CancelTarget :=
  if s.holder target ≠ .taken ∨ s.cardKind target ≠ some .vend then .notCancellable
  else match s.vendQueue.find? (fun e => e.slot == target) with
    | some e => .queued e.basket
    | none =>
      match s.flight with
      | some f => if f.slot = target ∧ f.stage = .claiming then .claiming f.basket else .tooLate
      | none => .tooLate

/-- The queued items of the basket of a target, from the target on when it is queued itself (R75). -/
def basketItems (target : Nat) (basket : Option Nat) (s : State) : List Nat :=
  match basket with
  | none => if s.vendQueue.any (fun e => e.slot == target) then [target] else []
  | some head => ((s.vendQueue.filter fun e => e.basket == some head).map QueueEntry.slot).dropWhile fun slot =>
      s.vendQueue.any (fun e => e.slot == target) && slot != target

/-- The cards leave the vend queue and complete with CANCELLED, in the order given (R73, R75). -/
def cancelQueued (slots : List Nat) (s : State) : State :=
  forEach (fun slot s => endVendAtIntake slot .cancelled s) slots
    { s with vendQueue := s.vendQueue.filter fun e => !slots.contains e.slot }

/-- The order of completion (R75): a cancelled head is the last of its basket. -/
def headLast (target : Nat) (basket : Option Nat) (slots : List Nat) : List Nat :=
  if basket = some target ∧ slots.contains target then slots.filter (· != target) ++ [target] else slots

/-- A CANCEL completes with the number of cards it moved to CANCELLED (R73). -/
def endCancel (slot cancelled : Nat) (o : CardOutcome) (s : State) : State :=
  complete slot o (s.putSlot slot 40 [BitVec.ofNat 8 cancelled])

/-- A valid CANCEL (R73, R75). -/
def applyCancel (slot : Nat) (s : State) : State :=
  let target := s.slotByte slot 8
  match cancelTarget target s with
  | .notCancellable => endCancel slot 0 .notCancellable s
  | .tooLate => endCancel slot 0 .tooLate s
  | .queued basket =>
    let items := basketItems target basket s
    endCancel slot items.length .ok (closeBasket (cancelQueued (headLast target basket items) s))
  | .claiming basket =>
    let items := basketItems target basket s
    endCancel slot (items.length + 1) .ok (closeBasket (cancelQueued items (verdict judgeLoad .cancelled s)))

/-- R73. -/
def execCancel (s : State) : Host.Outcome State Fault Refusal := .next (dispatch .cancel applyCancel s)

/-! ## Payout cards (R129, R136, R137) -/

/-- R136: a credit-return request with origin CARD. -/
def execReturnCredit (s : State) : Host.Outcome State Fault Refusal :=
  .next (dispatch .returnCredit (fun slot => requestReturn .card (some ⟨slot, none⟩)) s)

/-- The entry of a PAYOUT card (R127, R128). -/
def payoutEntry (slot : Nat) (s : State) : PayEntry :=
  { origin := .service, form := if s.slotByte slot 8 = 2 then .amount else .tubeList, card := some ⟨slot, none⟩,
    amount := s.slotHalf slot 10, coins := s.payoutCoins slot }

/-- A valid PAYOUT joins the payout queue (R128). -/
def takePayout (slot : Nat) (s : State) : State :=
  if s.payQueue.length < 4 then { s with payQueue := s.payQueue ++ [payoutEntry slot s] } else complete slot .queueFull s

/-- R137. -/
def execPayout (s : State) : Host.Outcome State Fault Refusal := .next (dispatch .payout takePayout s)

/-! ## TUBE_FILL (R111) -/

/-- The coins go into tube `t`. -/
def fillTube (slot : Nat) (t : Fin 4) (s : State) : State :=
  let r := s.tubes[t]
  if r.value = 0 then complete slot .outOfRange s
  else
    let accepted := min (s.slotByte slot 9) (r.capacity - r.count)
    let s := recomputeChange (putTube t { r with count := r.count + accepted } s)
    let s := (putHalf slot 42 (min 65535 (accepted * r.value)) (s.putSlot slot 40 [BitVec.ofNat 8 accepted])).putSlot slot 44
      [BitVec.ofNat 8 (r.count + accepted)]
    completeOk slot s

/-- A valid TUBE_FILL. -/
def applyTubeFill (slot : Nat) (s : State) : State :=
  match tubeOf (s.slotByte slot 8) with
  | none => s
  | some t => fillTube slot t s

/-- R111. -/
def execTubeFill (s : State) : Host.Outcome State Fault Refusal := .next (dispatch .tubeFill applyTubeFill s)

/-! ## SET_SPIRAL (R7, R8, R15 to R17) -/

/-- What becomes of the roles (R7, R8). -/
inductive Pairing where
  | unchanged | formed | dissolved
  | refused (o : CardOutcome)
deriving DecidableEq, Repr

/-- A spiral has a neighbour at the next column of its row (R5). -/
def hasNext (i : Fin 80) : Bool := (columnOf i).val != 9

/-- The tables of R7 and R8 for a spiral that is no follower. -/
def pairing (i : Fin 80) (twin : Option Bool) (s : State) : Pairing :=
  match twin, s.spirals[i].role with
  | some true, .single =>
    if hasNext i then if s.spirals[nextSpiral i].role = .single then .formed else .refused .twinConflict
    else .refused .outOfRange
  | some false, .lead => .dissolved
  | _, _ => .unchanged

/-- The in-flight checks of R16, steps 1 and 2. -/
def spiralBusy (i : Fin 80) (twin : Option Bool) (s : State) : Bool :=
  s.spirals[i].inFlight ||
    (twin == some true && s.spirals[i].role == .single && hasNext i && s.spirals[nextSpiral i].inFlight)

/-- The record of the named spiral after steps 3 to 5 of R16. -/
def Spiral.apply (q : SpiralRequest) (role : Role) (r : Spiral) : Spiral :=
  Spiral.settled
    { r with role := role, zone := q.zone.getD r.zone, price := q.price.getD r.price, jamClass := q.jamClass.getD r.jamClass,
             stock := q.stock.getD r.stock, state := q.state.getD r.state }

/-- The role of the named spiral after the pairing is judged. -/
def Pairing.role (p : Pairing) (before : Role) : Role :=
  match p with
  | .formed => .lead
  | .dissolved => .single
  | .unchanged => before
  | .refused _ => before

/-- The partner's record after the pairing is judged (R7, R8). -/
def pairPartner (p : Pairing) (i : Fin 80) (s : State) : State :=
  let r := s.spirals[nextSpiral i]
  match p with
  | .formed => putSpiral (nextSpiral i) { r with role := .follower } s
  | .dissolved => putSpiral (nextSpiral i) { r with role := .single, state := .disabled } s
  | .unchanged => s
  | .refused _ => s

/-- The writes of R16, steps 3 to 5, and their mirror. -/
def writeSpiral (q : SpiralRequest) (p : Pairing) (i : Fin 80) (s : State) : State :=
  let r := s.spirals[i].apply q (p.role s.spirals[i].role)
  let s := putSpiral i r (pairPartner p i s)
  if r.role = .lead then mirror i s else s

/-- The result of a SET_SPIRAL that ends OK (R16, step 6). -/
def putSpiralResult (slot : Nat) (r : Spiral) (s : State) : State :=
  putHalf slot 44 r.price
    (s.putSlot slot 40 [BitVec.ofNat 8 r.role.code, BitVec.ofNat 8 r.state.code, BitVec.ofNat 8 r.stock])

/-- A SET_SPIRAL that names spiral `i`. -/
def setSpiral (slot : Nat) (i : Fin 80) (s : State) : State :=
  let q := s.spiralRequest slot
  if spiralBusy i q.twin s then complete slot .spiralBusy s
  else if s.spirals[i].role = .follower then complete slot .notSelectable s
  else match pairing i q.twin s with
    | .refused o => complete slot o s
    | p =>
      let s := writeSpiral q p i s
      completeOk slot (putSpiralResult slot s.spirals[i] s)

/-- A valid SET_SPIRAL. -/
def applySetSpiral (slot : Nat) (s : State) : State :=
  match spiralOf (s.slotByte slot 8) with
  | none => s
  | some i => setSpiral slot i s

/-- R15, R16. -/
def execSetSpiral (s : State) : Host.Outcome State Fault Refusal := .next (dispatch .setSpiral applySetSpiral s)

/-! ## SET_COIN (R106 to R108) -/

/-- The consistency condition of R97 for one channel. -/
def routeConsistent (c : Channel) (tubes : Vector Tube 4) : Bool :=
  match c.route with
  | none => true
  | some t => c.value == 0 || tubes[t].value == c.value

/-- A SET_COIN on a channel (R107); the result shows the record as it stands after the card. -/
def setChannel (slot : Nat) (c : Fin 6) (s : State) : State :=
  let q := s.channelRequest slot
  let old := s.channels[c]
  let new : Channel :=
    { value := q.value.getD old.value, route := q.route.getD old.route, enable := q.enable.getD old.enable }
  let ok := routeConsistent new s.tubes
  let s := if ok then { s with channels := s.channels.set c new } else s
  let s := s.putSlot slot 40 (recordBytes (channelFields 0 c s) 16)
  if ok then completeOk slot s else complete slot .outOfRange s

/-- The combined tube record (R108, steps 2 and 4): what the card does not select is clamped to a lowered capacity. -/
def Tube.apply (q : TubeRequest) (r : Tube) : Tube :=
  let capacity := q.capacity.getD r.capacity
  { r with value := q.value.getD r.value, capacity := capacity, count := q.count.getD (min r.count capacity),
           reserve := q.reserve.getD (min r.reserve capacity) }

/-- The relations of R108, steps 2 and 3. -/
def tubeRelations (q : TubeRequest) (t : Fin 4) (s : State) : Bool :=
  let capacity := q.capacity.getD s.tubes[t].capacity
  let value := q.value.getD s.tubes[t].value
  decide (q.count.getD 0 ≤ capacity) && decide (q.reserve.getD 0 ≤ capacity) &&
    (value == s.tubes[t].value ||
      s.channels.toList.all fun c => c.route != some t || c.value == 0 || c.value == value)

/-- A SET_COIN on a tube (R108). -/
def setTube (slot : Nat) (t : Fin 4) (s : State) : State :=
  let q := s.tubeRequest slot
  let refusal : Option CardOutcome :=
    if s.tubes[t].busy then some .tubeBusy else if tubeRelations q t s then none else some .outOfRange
  let s := if refusal.isNone then recomputeChange (putTube t (s.tubes[t].apply q) s) else s
  let s := s.putSlot slot 40 (recordBytes (tubeFields 0 t s) 16)
  match refusal with
  | none => completeOk slot s
  | some o => complete slot o s

/-- A valid SET_COIN. -/
def applySetCoin (slot : Nat) (s : State) : State :=
  if s.slotByte slot 8 = 0 then
    match channelOf (s.slotByte slot 9) with
    | none => s
    | some c => setChannel slot c s
  else
    match tubeOf (s.slotByte slot 9) with
    | none => s
    | some t => setTube slot t s

/-- R106. -/
def execSetCoin (s : State) : Host.Outcome State Fault Refusal := .next (dispatch .setCoin applySetCoin s)

/-! ## The settings groups -/

/-- The base unit may not change (R110): there is credit, or a payout is in flight. -/
def moneyBusy (m : MoneySettings) (s : State) : Bool :=
  m.baseUnit != s.moneySet.baseUnit && (s.credit != 0 || s.held != 0 || s.payout.isSome)

/-- The MONEY group takes new values (R110). -/
def applyMoney (slot : Nat) (m : MoneySettings) (s : State) : State :=
  if moneyBusy m s then complete slot .busy s else completeOk slot (recomputeChange { s with moneySet := m })

/-- R109. -/
def execSetMoney (s : State) : Host.Outcome State Fault Refusal :=
  .next (dispatch .setMoney (fun slot s => applyMoney slot (s.moneyRequest slot) s) s)

/-- The VEND group takes new values (R38). -/
def applyVendGroup (slot : Nat) (v : VendSettings) (s : State) : State := completeOk slot { s with vendSet := v }

/-- R38. -/
def execSetVend (s : State) : Host.Outcome State Fault Refusal :=
  .next (dispatch .setVend (fun slot s => applyVendGroup slot (s.vendRequest slot) s) s)

/-- The CAB_B enable takes effect (R154, R168). -/
def switchCabB (before : Bool) (s : State) : State :=
  if s.coolSet.cabBEnable = before then s
  else
    updateFallback (raise .cooling
      { s with cabB := { s.cabB with state := if before then .disabled else .unseeded, invalidCount := 0, validCount := 0 } })

/-- The COOLING group takes new values, and fallback is judged with the CAB_B enable (R168). -/
def putCooling (c : CoolingSettings) (s : State) : State := switchCabB s.coolSet.cabBEnable { s with coolSet := c }

/-- The COOLING group takes new values by a SET_COOLING (R168). The model's choice (notes/assumptions/40.md): fallback is
judged before the defrost falls due. -/
def applyCooling (slot : Nat) (c : CoolingSettings) (s : State) : State :=
  let t := putCooling c s
  completeOk slot (if c.defrostInterval = s.coolSet.defrostInterval then t else judgeDue judgeLoad t)

/-- The COOLING group takes its factory values by a DEFAULTS (R168, R184). The model's choice (notes/assumptions/41.md): a
defrost that falls due becomes DUE in this step, and its start, which clears the accumulator, is the step DEFROST_DUE. -/
def defaultCooling (slot : Nat) (s : State) : State :=
  let t := putCooling .factory s
  completeOk slot
    (if CoolingSettings.factory.defrostInterval = s.coolSet.defrostInterval then t else callIfReached t)

/-- R167. -/
def execSetCooling (s : State) : Host.Outcome State Fault Refusal :=
  .next (dispatch .setCooling (fun slot s => applyCooling slot (s.coolingRequest slot) s) s)

/-- The LOAD group takes new values (R149). DESIGN CHOICE: what a grant does in the step of a DEFAULTS it does in full
(notes/assumptions/48.md). -/
def applyLoad (slot : Nat) (l : LoadSettings) (s : State) : State :=
  completeOk slot (judgeLoad (resizeClaims { s with loadSet := l }))

/-- A valid SET_LOAD is judged for its relations (R148). -/
def applySetLoad (slot : Nat) (s : State) : State :=
  if (s.loadRequest slot).consistent then applyLoad slot (s.loadRequest slot) s else complete slot .outOfRange s

/-- R148. -/
def execSetLoad (s : State) : Host.Outcome State Fault Refusal := .next (dispatch .setLoad applySetLoad s)

/-- R52. -/
def execSetPort (s : State) : Host.Outcome State Fault Refusal :=
  .next (dispatch .setPort (fun slot s => completeOk slot (applyPort (s.portRequest slot) s)) s)

/-! ## DEFAULTS (R184) -/

/-- Spirals take their factory settings one after the other, each change raising SPIRAL (R18). -/
def defaultSpirals : List (Fin 80) → State → State
  | [], s => s
  | i :: rest, s => defaultSpirals rest (putSpiral i s.spirals[i].defaulted s)

/-- The spiral group (R18). -/
def defaultSpiralGroup (slot : Nat) (s : State) : State :=
  if s.spirals.toList.any Spiral.inFlight then complete slot .spiralBusy s
  else completeOk slot (defaultSpirals (List.finRange 80) s)

/-- A tube after a DEFAULTS card (R114): factory settings, the count kept and clamped to the factory capacity. -/
def Tube.defaulted (r : Tube) : Tube :=
  { r with value := 0, count := min r.count Tube.factory.capacity, capacity := Tube.factory.capacity, reserve := 0 }

/-- The channels and tubes group (R114). -/
def defaultCoinGroup (slot : Nat) (s : State) : State :=
  if s.payout.isSome then complete slot .tubeBusy s
  else
    completeOk slot (recomputeChange
      { s with channels := Vector.replicate 6 .factory, tubes := s.tubes.map Tube.defaulted })

/-- A valid DEFAULTS is handed to the owner of its group (R184). -/
def applyDefaults (slot : Nat) (s : State) : State :=
  match s.slotByte slot 8 with
  | 1 => applyMoney slot .factory s
  | 2 => applyVendGroup slot .factory s
  | 3 => applyLoad slot .factory s
  | 4 => completeOk slot (applyPort .factory s)
  | 5 => defaultCooling slot s
  | 6 => defaultSpiralGroup slot s
  | 7 => defaultCoinGroup slot s
  | _ => s

/-- R184. -/
def execDefaults (s : State) : Host.Outcome State Fault Refusal := .next (dispatch .defaults applyDefaults s)

/-! ## Zone and defrost cards -/

/-- The result of a RELEASE_ZONE, read after the card has been applied (R175). -/
def putZoneResult (slot : Nat) (s : State) : State :=
  putHalf slot 44 (tempField s.safetyTemp)
    (putHalf slot 42 s.exposure (s.putSlot slot 40 [BitVec.ofNat 8 s.zone.code]))

/-- A valid RELEASE_ZONE (R175). -/
def applyReleaseZone (slot : Nat) (s : State) : State :=
  if s.zone = .locked ∧ s.warm then complete slot .stillWarm (putZoneResult slot s)
  else
    let s := if s.zone = .locked then putZone .safe 0 s else s
    completeOk slot (putZoneResult slot s)

/-- R175. -/
def execReleaseZone (s : State) : Host.Outcome State Fault Refusal := .next (dispatch .releaseZone applyReleaseZone s)

/-- A valid DEFROST_NOW (R169). -/
def takeDefrostNow (slot : Nat) (s : State) : State :=
  if s.defrost.inProgress || s.defrost.card.isSome then complete slot .alreadyDefrosting s
  else becomeDue judgeLoad { s with defrost := { s.defrost with card := some slot } }

/-- R169. -/
def execDefrostNow (s : State) : Host.Outcome State Fault Refusal := .next (dispatch .defrostNow takeDefrostNow s)

/-! ## RESUME_DRIVE (R92) -/

/-- A valid RESUME_DRIVE. -/
def takeResumeDrive (slot : Nat) (s : State) : State :=
  if s.offCheck.isSome then complete slot .busy s
  else if s.driveFaulted then { s with offCheck := some { slot := slot, ends := some (s.now + 100) } }
  else completeOk slot s

/-- R92. -/
def execResumeDrive (s : State) : Host.Outcome State Fault Refusal := .next (dispatch .resumeDrive takeResumeDrive s)

/-! ## SNAPSHOT and STORE (R183) -/

/-- A valid SNAPSHOT: the live counters are copied in one step, and a save is requested. -/
def takeSnapshot (slot : Nat) (s : State) : State :=
  if s.store.heldSnapshot.isSome then complete slot .busy s
  else requestSave { s with snap := s.live, store := { s.store with heldSnapshot := some ⟨slot, false⟩ } }

/-- R183. -/
def execSnapshot (s : State) : Host.Outcome State Fault Refusal := .next (dispatch .snapshot takeSnapshot s)

/-- A valid STORE: a save is requested. -/
def takeStore (slot : Nat) (s : State) : State :=
  if s.store.heldStore.isSome then complete slot .busy s
  else requestSave { s with store := { s.store with heldStore := some ⟨slot, false⟩ } }

/-- R183. -/
def execStore (s : State) : Host.Outcome State Fault Refusal := .next (dispatch .store takeStore s)

end Sys2Proof.Machine
end

