-- ==== Sys2Proof/Machine/Sequencer.lean ====
section
/-! DEFINITION. The steps of the vend sequencer and of the drop sensor (spec/04). -/

namespace Sys2Proof.Machine

/-! ## The head of the vend queue (R54) -/

/-- The sequencer takes the head of its queue, if it holds no vend and the head is a card of kind `k`. -/
def takeQueueHead (k : CardKind) (check : QueueEntry → State → State) (s : State) : State :=
  match s.vendQueue, s.flight with
  | e :: rest, none =>
    if s.working ∧ s.cardKind e.slot = some k then check e { s with vendQueue := rest } else s
  | _, _ => s

/-- R59. -/
def execVendCheckStage (s : State) : Host.Outcome State Fault Refusal :=
  .next (takeQueueHead .vend (checkVend judgeLoad) s)

/-- R78. -/
def execTestCheckStage (s : State) : Host.Outcome State Fault Refusal :=
  .next (takeQueueHead .testSpiral (checkTest judgeLoad) s)

/-! ## Timers of the drive stage -/

/-- The load wait timer of a vend or test in CLAIMING, if the blocks are at work (R62). -/
def State.loadWaitEnds (s : State) : Option Nat :=
  match s.flight with
  | some f => if s.working ∧ f.stage = .claiming then f.loadTimer else none
  | none => none

/-- R62, R79: the claim is withdrawn and the vend or test ends LOAD_TIMEOUT. -/
def execLoadWaitExpiry (s : State) : Host.Outcome State Fault Refusal :=
  .next (match s.loadWaitEnds with
    | some t => endFlight judgeLoad .loadTimeout .loadTimeout (s.reach t)
    | none => s)

/-- Another revolution is due, or the vend ends NO_DROP (R66). -/
def dropWaitEnds (f : Flight) (s : State) : State :=
  if f.revolutions < 1 + f.extraTurns then motorStart judgeLoad s else verdict judgeLoad .noDrop s

/-- R66. -/
def execDropWaitExpiry (s : State) : Host.Outcome State Fault Refusal :=
  .next (match s.flight with
    | some f =>
      match f.dropTimer with
      | some t => if s.working ∧ f.stage = .dropWait then dropWaitEnds f (s.reach t) else s
      | none => s
    | none => s)

/-! ## The drop sensor (R76, R77) -/

/-- The beam takes a level (R76): the latch is cleared when it clears. -/
def setBeam (blocked : Bool) (s : State) : State :=
  if s.drop.blocked = blocked then s
  else { s with drop := { s.drop with blocked := blocked, since := s.now, latch := s.drop.latch && blocked } }

/-- R76: the beam state is followed live. -/
def execBeamChange (after : Nat) (blocked : Bool) (s : State) : Host.Outcome State Fault Refusal :=
  .next (setBeam blocked (s.wait after))

/-- A recognised drop is given to the vend or test in flight, or is stray (R64, R66, R77). -/
def giveDrop (s : State) : State :=
  match s.flight with
  | some f =>
    match f.firstStart, f.dropSeen with
    | some start, none =>
      let s := { s with flight := some { f with dropSeen := some (s.now - start) } }
      if f.stage = .dropWait then verdict judgeLoad .vended s else s
    | _, _ => count .strayDrops 1 s
  | none => count .strayDrops 1 s

/-- A break is in progress that has not been recognised, and the sensor is OK (R76). -/
def State.breakPending (s : State) : Bool := s.working && s.drop.blocked && !s.drop.fault && !s.drop.latch

/-- R76: a break has lasted 5 ms. -/
def execDropRecognised (s : State) : Host.Outcome State Fault Refusal :=
  .next (if s.breakPending then giveDrop { s.reach (s.drop.since + 5) with drop := { s.drop with latch := true } } else s)

/-- The end of a vend in DROP_WAIT when the sensor enters FAULT (R66). -/
def faultVerdict (s : State) : State :=
  match s.flight with
  | some f =>
    if f.stage = .dropWait then
      verdict judgeLoad (if f.assurance = .required then .dropSensorFault else .vendedUnconfirmed) s
    else s
  | none => s

/-- The sensor enters FAULT (R76). From the PFAIL warning on a vend in DROP_WAIT reaches no end (R72). -/
def sensorFails (s : State) : State :=
  let t := raise .drive { s.reach (s.drop.since + 2001) with drop := { s.drop with fault := true } }
  if s.working then faultVerdict t else t

/-- R76: the beam has been blocked for more than 2 s; the first whole millisecond past 2 s is 2,001. -/
def execDropSensorFault (s : State) : Host.Outcome State Fault Refusal :=
  .next (if s.ready ∧ s.drop.blocked ∧ s.drop.fault = false then sensorFails s else s)

/-- R76: the beam has been clear for 1 s. -/
def execDropSensorRecovery (s : State) : Host.Outcome State Fault Refusal :=
  .next (if s.ready ∧ s.drop.fault ∧ s.drop.blocked = false then
      raise .drive { s.reach (s.drop.since + 1000) with drop := { s.drop with fault := false } }
    else s)

end Sys2Proof.Machine
end

