-- ==== Sys2Proof/Machine/Supply.lean ====
section
/-! DEFINITION. The persistent store, PFAIL, RESET and the restart sequence (spec/12, and the restart rule of every chapter). -/

namespace Sys2Proof.Machine

/-! ## The restart (R181) -/

/-- A cabinet or coil channel after a restart (R170). -/
def freshChannel (enabled : Bool) : TempChannel :=
  { state := if enabled then .unseeded else .disabled, filter := 0, invalidCount := 0, validCount := 0 }

/-- The zone state and E after a restart (R177, R181). -/
def restartZone (i : Image) : ZoneState × Nat := if i.zone = .locked then (.locked, i.exposure) else (.unverified, 0)

/-- The cooling state after a restart, its timers not yet started (R170). -/
def freshDefrost : Defrost :=
  { state := .notDue, forcedAt := none, forced := false, startedAt := 0, timer := none, drip := none, grace := none,
    timeoutFlag := false, result := none, card := none }

/-- An open transaction goes on across a restart, its captured field dropped. DESIGN CHOICE (notes/assumptions/35.md). -/
def Reading.uncaptured : Reading → Reading
  | .bytes next _ => .bytes next []
  | .discarded => .discarded

/-- The state as a restart builds it from the records `i` (R181, steps 1 to 6). DESIGN CHOICE (notes/assumptions/52.md): PFAIL is
clear after it until a PFAIL_ASSERT comes, also where the restart finds the input asserted. -/
def restored (reason : RestartReason) (pins : Pins) (i : Image) (lost : Bool) (s : State) : State :=
  { pending := s.pending, now := s.now, ready := false, pfail := .clear, reason := reason, storeLost := lost,
    mem := [], dataOut := [], reading := s.reading.map Reading.uncaptured,
    refused := 0, intake := [], noticePending := 0, noticeMask := s.noticeMask,
    sup := { alive := false, reference := 0, period := none, silentReturn := none },
    door := pins.door, spirals := i.spirals.map Spiral.saved,
    moneySet := i.money, vendSet := i.vend, loadSet := i.load, portSet := i.port, coolSet := i.cooling,
    channels := i.channels, tubes := Vector.ofFn fun t => i.tubes[t].restored pins.full[t],
    credit := i.credit, held := 0, exactOnly := false, guaranteed := 0,
    vendQueue := [], flight := none, basket := none, driveFaulted := i.driveFaulted, rev := none,
    camLevel := s.camLevel, offCheck := none,
    drop := { blocked := pins.beamBlocked, fault := false, latch := false, since := s.now },
    payQueue := [], returnMark := none, payout := none, ejectors := Vector.replicate 4 none,
    spent := .idle, missedAt := none, waiting := [], grants := [],
    cabA := freshChannel true, cabB := freshChannel i.cooling.cabBEnable, evap := freshChannel true,
    nextSample := none, airflow := false, aboveCount := 0, withinCount := 0,
    thermostat := { setpoint := i.cooling.setpoint, differential := i.cooling.differential },
    comp := { state := .offResting, minOff := none, minOn := none, window := none }, fallback := none,
    defrost := freshDefrost, runTime := i.runTime, runSecond := none,
    zone := (restartZone i).1, exposure := (restartZone i).2,
    store := { state := if lost then .lost else .ok, mark := false, stored := s.store.stored, capture := none, ends := none,
               heldStore := none, heldSnapshot := none },
    live := i.live, snap := i.snapshot }

/-- A restart begins (R181): the image is checked, each block takes its records or its factory values, the restarts counter
rises, and the exact-change status is computed (R126). The port is not ready until the sequence has finished. -/
def restart (reason : RestartReason) (pins : Pins) (s : State) : State :=
  match s.store.image with
  | some i => recomputeChange (count .restarts 1 (restored reason pins i false s))
  | none => recomputeChange (count .restarts 1 (restored reason pins .factory true s))

/-- R181: the supply returns, or comes for the first time. -/
def execPowerOn (pins : Pins) (s : State) : Host.Outcome State Fault Refusal := .next (restart .powerOn pins s)

/-- R180: RESET gives a restart at any moment; a save in progress leaves the image invalid. -/
def execResetAssert (pins : Pins) (s : State) : Host.Outcome State Fault Refusal := .next (restart .resetPin pins s)

/-- The restart sequence finishes (R181, step 7): the port is ready, RESTART is pending and the mask loaded (R43, R45), the
timers that run from this moment start (R76, R152, R170), and the activations in progress are passed over (R99, R139). -/
def finishRestart (active : PulseInputs) (s : State) : State :=
  { s with ready := true, noticePending := NoticeClass.restart.bit, noticeMask := s.portSet.maskDefault,
           nextSample := some (s.now + 1000), comp := { s.comp with minOff := some (s.now + 1000 * s.coolSet.minOff) },
           drop := { s.drop with since := s.now }, spent := active }

/-- R181. -/
def execRestartSequenceEnd (s : State) (active : PulseInputs := PulseInputs.idle) : Host.Outcome State Fault Refusal :=
  .next (if s.ready then s else finishRestart active s)

/-! ## Saves and PFAIL (R179, R180, R183) -/

/-- The card of an owner completes with OK and the CRC that the save wrote, if the save covers it (R183). -/
def completeHeld (h : Option HeldSave) (i : Image) (s : State) : State :=
  match h with
  | some ⟨slot, true⟩ => complete slot .ok (s.putSlot slot 40 (leBytes (imageCrc i).toNat 2))
  | _ => s

/-- The card stays held while no save has covered it. -/
def stillHeld (h : Option HeldSave) : Option HeldSave := if (h.map HeldSave.covered).getD false then none else h

/-- Held cards complete and a pending save begins (R179, R183). -/
def afterSave (i : Image) (s : State) : State :=
  let heldStore := s.store.heldStore
  let heldSnapshot := s.store.heldSnapshot
  let s := { s with store := { s.store with heldStore := stillHeld heldStore, heldSnapshot := stillHeld heldSnapshot } }
  let s := completeHeld heldSnapshot i (completeHeld heldStore i s)
  if s.store.mark then beginSave { s with store := { s.store with mark := false } } else s

/-- A save writes its CRC (R178, R179). The power-fail save completes no card (R183); after a release of PFAIL its completion
is a SUPPLY_DIP restart (R180). -/
def completeSave (pins : Pins) (i : Image) (s : State) : State :=
  let s := { s with store := { s.store with
    state := .ok, stored := { records := i, crc := imageCrc i, incomplete := false }, capture := none, ends := none } }
  match s.pfail with
  | .clear => afterSave i s
  | .asserted => s
  | .released => restart .supplyDip pins s

/-- R179. -/
def execSaveComplete (pins : Pins) (s : State) : Host.Outcome State Fault Refusal :=
  .next (match s.store.capture with
    | none => s
    | some i => completeSave pins i s)

/-- A vend in its drive stage is interrupted (R72); a test is not counted. -/
def countInterrupted (s : State) : State :=
  match s.flight with
  | some f => if f.isTest then s else count .interruptedVends 1 s
  | none => s

/-- The outputs are switched off and the timers that drive them stopped (R94, R102, R141, R93, R166); a held RESUME_DRIVE
stays held without its check (R30, R93). The compressor and the defrost keep their states and the moments of their stopped
timers. DESIGN CHOICE (notes/assumptions/51.md): 0x008D goes on showing a recovery grace as running until the restart. -/
def stopOutputs (s : State) : State :=
  { s with rev := none, offCheck := s.offCheck.map fun c => { c with ends := none },
           tubes := s.tubes.map fun t => { t with gate := none }, ejectors := Vector.replicate 4 none,
           payout := s.payout.map fun p => { p with air := none, pulse := none } }

/-- PFAIL is asserted (R180): one step, in which the interrupted vend and the seconds of running that are whole are counted
before the image is captured (R72, R161, notes/assumptions/20.md).
DESIGN CHOICE: the vend in flight keeps its stage, and its spiral record is saved as it stands (notes/assumptions/46.md,
47.md). -/
def assertPfail (s : State) : State :=
  beginSave (stopOutputs
    { countInterrupted (settleRun s) with pfail := .asserted, store := { s.store with mark := false } })

/-- R180. A warning that comes again before the restart begins the power-fail save again; its vend was counted already. -/
def execPfailAssert (s : State) : Host.Outcome State Fault Refusal :=
  .next (match s.pfail with
    | .clear => assertPfail s
    | .released => beginSave { s with pfail := .asserted }
    | .asserted => s)

/-- R180: the restart waits for the power-fail save, or comes at once when that has completed. -/
def execPfailRelease (pins : Pins) (s : State) : Host.Outcome State Fault Refusal :=
  .next (match s.pfail with
    | .asserted => if s.store.state = .saving then { s with pfail := .released } else restart .supplyDip pins s
    | .clear => s
    | .released => s)

end Sys2Proof.Machine
end

