-- ==== Sys2Proof/Machine/Dispatch.lean ====
section
/-! DEFINITION. What each command of spec/opcode_table.json does to everything but the queue: one arm per command. -/

namespace Sys2Proof.Machine

def exec (i : Instr) (s : State) : Host.Outcome State Fault Refusal :=
  match i with
  | .memoryRead start count => Sys2Proof.Machine.execMemoryRead start count s
  | .memoryWrite addr data completed => Sys2Proof.Machine.execMemoryWrite addr data completed s
  | .unknownCommand command => Sys2Proof.Machine.execUnknownCommand command s
  | .noticeRead read => Sys2Proof.Machine.execNoticeRead read s
  | .noticeMaskWrite data => Sys2Proof.Machine.execNoticeMaskWrite data s
  | .registerWriteRefused register data => Sys2Proof.Machine.execRegisterWriteRefused register data s
  | .portReset released => Sys2Proof.Machine.execPortReset s released
  | .keepalivePeriodEnd => Sys2Proof.Machine.execKeepalivePeriodEnd s
  | .silentReturnExpiry => Sys2Proof.Machine.execSilentReturnExpiry s
  | .badCard => Sys2Proof.Machine.execBadCard s
  | .vend => Sys2Proof.Machine.execVend s
  | .cancel => Sys2Proof.Machine.execCancel s
  | .returnCredit => Sys2Proof.Machine.execReturnCredit s
  | .payout => Sys2Proof.Machine.execPayout s
  | .tubeFill => Sys2Proof.Machine.execTubeFill s
  | .setSpiral => Sys2Proof.Machine.execSetSpiral s
  | .setCoin => Sys2Proof.Machine.execSetCoin s
  | .setMoney => Sys2Proof.Machine.execSetMoney s
  | .setVend => Sys2Proof.Machine.execSetVend s
  | .setCooling => Sys2Proof.Machine.execSetCooling s
  | .setLoad => Sys2Proof.Machine.execSetLoad s
  | .setPort => Sys2Proof.Machine.execSetPort s
  | .defaults => Sys2Proof.Machine.execDefaults s
  | .releaseZone => Sys2Proof.Machine.execReleaseZone s
  | .defrostNow => Sys2Proof.Machine.execDefrostNow s
  | .testSpiral => Sys2Proof.Machine.execTestSpiral s
  | .resumeDrive => Sys2Proof.Machine.execResumeDrive s
  | .snapshot => Sys2Proof.Machine.execSnapshot s
  | .store => Sys2Proof.Machine.execStore s
  | .vendCheckStage => Sys2Proof.Machine.execVendCheckStage s
  | .testCheckStage => Sys2Proof.Machine.execTestCheckStage s
  | .loadWaitExpiry => Sys2Proof.Machine.execLoadWaitExpiry s
  | .camLineChange after spiral level => Sys2Proof.Machine.execCamLineChange after spiral level s
  | .camEdgeConsumed column => Sys2Proof.Machine.execCamEdgeConsumed column s
  | .camLeaveLimit => Sys2Proof.Machine.execCamLeaveLimit s
  | .revolutionLimit => Sys2Proof.Machine.execRevolutionLimit s
  | .motorCurrentChange after current => Sys2Proof.Machine.execMotorCurrentChange after current s
  | .jamTimerExpiry => Sys2Proof.Machine.execJamTimerExpiry s
  | .motorShort current => Sys2Proof.Machine.execMotorShort current s
  | .offCurrentCheckPass highest => Sys2Proof.Machine.execOffCurrentCheckPass highest s
  | .offCurrentCheckFail highest => Sys2Proof.Machine.execOffCurrentCheckFail highest s
  | .beamChange after blocked => Sys2Proof.Machine.execBeamChange after blocked s
  | .dropRecognised => Sys2Proof.Machine.execDropRecognised s
  | .dropSensorFault => Sys2Proof.Machine.execDropSensorFault s
  | .dropSensorRecovery => Sys2Proof.Machine.execDropSensorRecovery s
  | .dropWaitExpiry => Sys2Proof.Machine.execDropWaitExpiry s
  | .doorStateChange door => Sys2Proof.Machine.execDoorStateChange door s
  | .coinArrival channel returned => Sys2Proof.Machine.execCoinArrival channel s returned
  | .gateTimerExpiry tube => Sys2Proof.Machine.execGateTimerExpiry tube s
  | .fullSensorChange tube full => Sys2Proof.Machine.execFullSensorChange tube full s
  | .coinReturnLever => Sys2Proof.Machine.execCoinReturnLever s
  | .payoutStart => Sys2Proof.Machine.execPayoutStart s
  | .ejectorPulseEnd => Sys2Proof.Machine.execEjectorPulseEnd s
  | .exitCoinSeen returned => Sys2Proof.Machine.execExitCoinSeen s returned
  | .confirmWindowExpiry => Sys2Proof.Machine.execConfirmWindowExpiry s
  | .sample cabA cabB evap => Sys2Proof.Machine.execSample cabA cabB evap s
  | .minOffExpiry => Sys2Proof.Machine.execMinOffExpiry s
  | .minOnExpiry => Sys2Proof.Machine.execMinOnExpiry s
  | .startWindowExpiry => Sys2Proof.Machine.execStartWindowExpiry s
  | .fallbackPhaseExpiry => Sys2Proof.Machine.execFallbackPhaseExpiry s
  | .defrostDue => Sys2Proof.Machine.execDefrostDue s
  | .defrostForcedStop => Sys2Proof.Machine.execDefrostForcedStop s
  | .defrostTimerExpiry => Sys2Proof.Machine.execDefrostTimerExpiry s
  | .drainingEnd => Sys2Proof.Machine.execDrainingEnd s
  | .recoveryGraceEnd => Sys2Proof.Machine.execRecoveryGraceEnd s
  | .saveComplete pins => Sys2Proof.Machine.execSaveComplete pins s
  | .pfailAssert => Sys2Proof.Machine.execPfailAssert s
  | .pfailRelease pins => Sys2Proof.Machine.execPfailRelease pins s
  | .resetAssert pins => Sys2Proof.Machine.execResetAssert pins s
  | .powerOn pins => Sys2Proof.Machine.execPowerOn pins s
  | .restartSequenceEnd active => Sys2Proof.Machine.execRestartSequenceEnd s active
  | .runTimeAccumulatorSecond => Sys2Proof.Machine.execRunTimeAccumulatorSecond s

end Sys2Proof.Machine
end

