-- ==== Sys2Proof/Machine/Idle.lean ====
section
/-! DEFINITION. What the part does by itself while no command waits: the command that it is about to take, if there is one,
and otherwise a millisecond that passes (notes/assumptions/3.md). -/

namespace Sys2Proof.Machine

/-- The take of a card by its kind (R37). -/
def CardKind.take : CardKind → Instr
  | .vend => .vend | .cancel => .cancel | .returnCredit => .returnCredit | .payout => .payout | .tubeFill => .tubeFill
  | .setSpiral => .setSpiral | .setCoin => .setCoin | .setMoney => .setMoney | .setVend => .setVend
  | .setCooling => .setCooling | .setLoad => .setLoad | .setPort => .setPort | .releaseZone => .releaseZone
  | .defrostNow => .defrostNow | .testSpiral => .testSpiral | .resumeDrive => .resumeDrive | .snapshot => .snapshot
  | .store => .store | .defaults => .defaults

/-- The dispatcher's next take (R33). -/
def intakeCommand (s : State) : Option Instr :=
  s.headSlot.bind fun slot => if (s.failing slot).isSome then some .badCard else (s.cardKind slot).map CardKind.take

/-- The sequencer's next take (R54). -/
def sequencerCommand (s : State) : Option Instr :=
  match s.flight, s.vendQueue with
  | none, e :: _ =>
    if s.working then some (if s.cardKind e.slot = some .testSpiral then .testCheckStage else .vendCheckStage) else none
  | _, _ => none

/-- The payout engine's next start (R131). -/
def payoutCommand (s : State) : Option Instr :=
  match s.payout, s.payQueue with
  | none, _ :: _ => if s.working then some .payoutStart else none
  | _, _ => none

/-- A DUE defrost that the compressor does not hold back (R162). -/
def defrostCommand (s : State) : Option Instr :=
  if s.working ∧ s.defrost.state = .due ∧ s.comp.state.runs = false then some .defrostDue else none

/-- A moment and the command that falls due at it. -/
abbrev Deadline := Option Nat × Instr

/-- The deadlines of the host side and of the drop sensor's state (R76), which run on after the PFAIL warning. -/
def portDeadlines (s : State) : List Deadline :=
  [(s.sup.period, .keepalivePeriodEnd), (s.sup.silentReturn, .silentReturnExpiry),
   (if s.drop.blocked && !s.drop.fault then some (s.drop.since + 2001) else none, .dropSensorFault),
   (if !s.drop.blocked && s.drop.fault then some (s.drop.since + 1000) else none, .dropSensorRecovery)]

/-- The deadlines of the energised selection (R84, R87, R89). A record in AWAIT_OPEN that waits at the cam-leave limit is judged
at the revolution limit all the same. DESIGN CHOICE (notes/assumptions/50.md): of expiries that come together, whose order
R89 leaves open, the part takes a cam edge first, then the cam leave limit, the revolution limit and the jam timer. -/
def driveDeadlines (s : State) : List Deadline :=
  match s.rev with
  | none => []
  | some r =>
    (r.cams.map fun c => (c.edge.map fun t => r.started + t + 20, .camEdgeConsumed (columnOf c.spiral))) ++
    [(if r.cams.any (fun c => c.phase == .awaitOpen && !c.limitWaits) then some (r.started + 1000) else none,
        .camLeaveLimit),
     (if r.cams.any (fun c => c.phase == .awaitOpen || c.phase == .turningOpen && !c.limitWaits) then some (r.started + s.revolutionLimit) else none,
        .revolutionLimit),
     (r.jamSince.map fun t => t + 250, .jamTimerExpiry)]

/-- The deadlines of the vend sequencer and of a break of the beam (R62, R66, R76). DESIGN CHOICE (notes/assumptions/50.md): of a
drop and the expiry of the drop wait that come together, whose order R66 leaves open, the part takes the expiry first. -/
def vendDeadlines (s : State) : List Deadline :=
  [(s.flight.bind Flight.loadTimer, .loadWaitExpiry), (s.flight.bind Flight.dropTimer, .dropWaitExpiry),
   (if s.breakPending then some (s.drop.since + 5) else none, .dropRecognised)]

/-- The deadlines of the tubes and the payout engine (R102, R132, R134). -/
def coinDeadlines (s : State) : List Deadline :=
  ((List.finRange 4).map fun t => (s.tubes[t].gate, .gateTimerExpiry t)) ++
  [(s.firstPulse.map Prod.snd, .ejectorPulseEnd), (s.airCoin.map AirCoin.window, .confirmWindowExpiry)]

/-- The deadlines of the refrigeration controller (R157 to R165). -/
def coldDeadlines (s : State) : List Deadline :=
  [(s.runSecond, .runTimeAccumulatorSecond), (s.comp.minOff, .minOffExpiry), (s.comp.minOn, .minOnExpiry),
   (s.comp.window, .startWindowExpiry), (s.fallback.map Fallback.ends, .fallbackPhaseExpiry),
   (if s.defrost.state = .due then s.defrost.forcedAt else none, .defrostForcedStop),
   (s.defrost.timer, .defrostTimerExpiry), (s.defrost.drip, .drainingEnd), (s.defrost.grace, .recoveryGraceEnd)]

/-- The switch levels as the part knows them. -/
def State.pins (s : State) : Pins :=
  { door := s.door, full := s.tubes.map Tube.full, beamBlocked := s.drop.blocked }

/-- The end of the save in progress (R178). -/
def storeDeadlines (s : State) : List Deadline := [(s.store.ends, .saveComplete s.pins)]

/-- Every deadline that stands, in the order in which the part takes those that come together: DESIGN CHOICE
(notes/assumptions/50.md). -/
def State.deadlines (s : State) : List Deadline :=
  storeDeadlines s ++
  (if s.ready then portDeadlines s else []) ++
  (if s.working then driveDeadlines s ++ vendDeadlines s ++ coinDeadlines s ++ coldDeadlines s else [])

/-- Of a deadline and the first one so far, the one that comes first; the one so far where they come together. -/
def firstOf (first : Option (Nat × Instr)) (d : Deadline) : Option (Nat × Instr) :=
  match d.1, first with
  | some t, some (m, _) => if t < m then some (t, d.2) else first
  | some t, none => some (t, d.2)
  | none, _ => first

/-- The deadline that the part takes: the one that comes first, once it has come. DESIGN CHOICE (notes/assumptions/50.md): the
manual leaves open which of two expiries that come together is taken first (R89), and the list's order decides it here. -/
def dueCommand (s : State) : Option Instr :=
  match s.deadlines.foldl firstOf none with
  | some (t, i) => if t ≤ s.now then some i else none
  | none => none

/-- The command that the part is about to take by itself. DESIGN CHOICE (notes/assumptions/50.md): the order of the takes that
come together. -/
def nextCommand (s : State) : Option Instr :=
  defrostCommand s <|> intakeCommand s <|> sequencerCommand s <|> payoutCommand s <|> dueCommand s

/-- The part idles: its own next command joins the queue, or a millisecond passes. -/
def idle (s : State) : State :=
  match nextCommand s with
  | some i => { s with pending := [i] }
  | none => s.wait 1

end Sys2Proof.Machine
end

