-- ==== Sys2Proof/Safety.lean ====
section
/-! DEFINITION. What a safe state of the part is, in the terms that the statements use: each property is kept by every step,
and the state after reset has it. -/

namespace Sys2Proof.Machine

/-- The images that a restart may take: the stored one, and the one that the save in progress will store. -/
def State.images (s : State) : List Image := s.store.image.toList ++ s.store.capture.toList

/-- The stored bytes are in their canonical form. -/
def State.memoryOk (s : State) : Prop := Memory.wf s.mem = true

/-- R27: the holder byte of every slot holds one of the five values. -/
def State.holdersOk (s : State) : Prop := ∀ slot < 128, s.slotByte slot 0 ≤ 4

/-- R105: H never exceeds C, and C never exceeds 65,535; a saved C does not either. -/
def State.moneyOk (s : State) : Prop :=
  s.held ≤ s.credit ∧ s.credit ≤ 65535 ∧ ∀ i ∈ s.images, i.credit ≤ 65535

/-- R98: a count and a reserve never exceed the capacity. -/
def tubeOk (count reserve capacity : Nat) : Prop := count ≤ capacity ∧ reserve ≤ capacity

/-- R97: a channel whose value is not 0 and whose route is tube t has the value of tube t. -/
def routesOk (channels : Vector Channel 6) (value : Fin 4 → Nat) : Prop :=
  ∀ c : Fin 6, ∀ t : Fin 4, channels[c].value ≠ 0 → channels[c].route = some t → channels[c].value = value t

/-- R97, R98, for the records and for the saved ones. -/
def State.coinsOk (s : State) : Prop :=
  (∀ t : Fin 4, tubeOk s.tubes[t].count s.tubes[t].reserve s.tubes[t].capacity) ∧
  routesOk s.channels (fun t => s.tubes[t].value) ∧
  ∀ i ∈ s.images, (∀ t : Fin 4, tubeOk i.tubes[t].count i.tubes[t].reserve i.tubes[t].capacity) ∧
    routesOk i.channels (fun t => i.tubes[t].value)

/-- R12: a tracked stock of 0 does not stand together with READY. -/
def stocksOk (spirals : Vector Spiral 80) : Prop := ∀ i : Fin 80, spirals[i].state = .ready → spirals[i].stock ≠ 0

/-- R12, for the table and for the saved tables. -/
def State.spiralsOk (s : State) : Prop := stocksOk s.spirals ∧ ∀ i ∈ s.images, stocksOk i.spirals

/-- R172, R173: E is 0 while the zone is SAFE, and at most 65,535. -/
def zoneOk (zone : ZoneState) (exposure : Nat) : Prop := (zone = .safe → exposure = 0) ∧ exposure ≤ 65535

/-- R172, R173, for the zone and for the saved ones. -/
def State.exposureOk (s : State) : Prop :=
  zoneOk s.zone s.exposure ∧ ∀ i ∈ s.images, zoneOk i.zone i.exposure

/-- The claimants that wait. -/
def State.waitingFor (s : State) (c : Claimant) : Prop := c ∈ s.waiting.map Claim.claimant

/-- R143, R144: each claimant waits at most once, and only while it is in the stage in which it waits; a payout or flight
whose claim waits exists. -/
def State.claimsOk (s : State) : Prop :=
  (s.waiting.map Claim.claimant).Nodup ∧
  (s.waitingFor .compressor → s.comp.state = .claiming) ∧
  (s.waitingFor .heater → s.defrost.state = .claimingHeat) ∧
  (s.waitingFor .drive → s.flight.isSome) ∧
  (s.waitingFor .payout → s.payout.isSome)

/-- R157, R158, R162, R170: during a defrost the compressor rests without a timer; the minimum off timer runs in OFF_RESTING
alone; and both machines stand at their start while the port is not ready. -/
def State.coolingOk (s : State) : Prop :=
  s.claimsOk ∧
  (s.defrost.inProgress = true → s.comp.state = .offResting ∧ s.comp.minOff = none) ∧
  (s.comp.minOff.isSome → s.comp.state = .offResting) ∧
  (s.ready = false → s.comp.state = .offResting ∧ s.defrost.inProgress = false)

/-- R81, R94, R95: a vend or test past CLAIMING holds the load grant; motors turn only under that grant, for a vend or test
in flight, while the blocks are at work; the vend or test in flight is a test exactly while the door is open; and none is in
flight during a restart sequence. -/
def State.driveOk (s : State) : Prop :=
  (∀ f ∈ s.flight, f.stage ≠ .claiming → s.hasGrant .drive = true) ∧
  (s.rev.isSome → s.flight.isSome ∧ s.hasGrant .drive = true ∧ s.working = true) ∧
  (s.working = true → ∀ f ∈ s.flight, f.isTest = (s.door == .opened)) ∧
  (s.ready = false → s.flight = none)

/-! ## What a command leaves as it was -/

/-- Every stored byte outside `p` reads in `t` as it reads in `s`. -/
def keepsBytes (s t : State) (p : Nat → Prop) : Prop := ∀ a, ¬ p a → readCell t.mem a = readCell s.mem a

/-- The bytes of a slot that the part writes from a card's take to its completion (R29): holder, outcome, result body. -/
def cardByte (slot a : Nat) : Prop :=
  a = slotAddr slot 0 ∨ (slotAddr slot 6 ≤ a ∧ a < slotAddr slot 8) ∨ (slotAddr slot 40 ≤ a ∧ a < slotAddr slot 64)

/-- The card stands DONE with an outcome and a result body, whose bytes after those listed are 0 (R29, 2.7.1). -/
def State.doneWith (s : State) (slot : Nat) (o : CardOutcome) (result : List Byte) : Prop :=
  s.holder slot = .done ∧ s.slotHalf slot 6 = o.code ∧
    ∀ i < 24, readCell s.mem (slotAddr slot (40 + i)) = result.getD i 0

/-- The card stands TAKEN with the outcome NONE and the result body zero (R29). -/
def State.takenIn (s : State) (slot : Nat) : Prop :=
  s.holder slot = .taken ∧ s.slotHalf slot 6 = 0 ∧ ∀ i < 24, readCell s.mem (slotAddr slot (40 + i)) = 0

/-- The dispatcher is at work and finds a card of kind `k` at the head of its list (R33). -/
def State.atHead (s : State) (k : CardKind) (slot : Nat) : Prop :=
  s.memoryOk ∧ s.working = true ∧ s.intake.head? = some slot ∧ s.cardKind slot = some k

/-- The card at the head is of kind `k` and passes validation (R33). -/
def State.validHead (s : State) (k : CardKind) (slot : Nat) : Prop := s.atHead k slot ∧ s.failing slot = none

/-- The notice of a completion: CARDS unless the card is QUIET (R29). -/
def State.cardsBit (s : State) (slot : Nat) : BitVec 9 := if s.quiet slot then 0 else NoticeClass.cards.bit

/-- R28 for one holder byte: what a host write of `value` makes of a holder. -/
def holderAfter (h : Holder) (value : Nat) : Holder :=
  match h, value with
  | .free, 1 => .posted
  | .free, 4 => .linked
  | .linked, 0 => .free
  | .done, 0 => .free
  | .posted, 0 => .free
  | h, _ => h

/-- R28: the monitor refuses the value, unless it is the one already held or one of the five accepted moves. -/
def holderRefused (h : Holder) (value : Nat) : Bool :=
  value != h.code && !([(Holder.free, 1), (.free, 4), (.linked, 0), (.done, 0), (.posted, 0)].contains (h, value))

/-- R29: CARDS for each of the cards that is not QUIET. -/
def State.cardsBits (s : State) (slots : List Nat) : BitVec 9 := slots.foldr (fun slot n => s.cardsBit slot ||| n) 0

/-- R33, R35: a card taken from the head of the intake list has its effect `u` and completes at once with an outcome and a
result. -/
def answered (s t : State) (slot : Nat) (o : CardOutcome) (result : List Byte) (u : State) : Prop :=
  t.doneWith slot o result ∧ keepsBytes s t (cardByte slot) ∧
    t = { u with intake := s.intake.tail, mem := t.mem, noticePending := u.noticePending ||| s.cardsBit slot }

/-- R178, R179, R183: a save begins, or begins again: it captures every record, marks the stored image incomplete, and covers
the cards that are held. -/
def saveBegun (s : State) : State :=
  { s with store := { s.store with
      state := .saving, stored := { s.store.stored with incomplete := true }, capture := some s.image,
      ends := some (s.now + 200), heldStore := s.store.heldStore.map fun c => { c with covered := true },
      heldSnapshot := s.store.heldSnapshot.map fun c => { c with covered := true } } }

/-- R179: a save is scheduled or requested. -/
def saveScheduled (s : State) : State :=
  if s.store.state = .saving then { s with store := { s.store with mark := true } } else saveBegun s

/-- R35: as `answered`, with the outcome OK and a save. -/
def applied (s t : State) (slot : Nat) (result : List Byte) (u : State) : Prop :=
  t.doneWith slot .ok result ∧ keepsBytes s t (cardByte slot) ∧
    t = saveScheduled { u with intake := s.intake.tail, mem := t.mem, noticePending := u.noticePending ||| s.cardsBit slot }

/-- R34: a card taken from the head of the intake list stays TAKEN, with the effect `u`. -/
def keptTaken (s t : State) (slot : Nat) (u : State) : Prop :=
  t.takenIn slot ∧ keepsBytes s t (cardByte slot) ∧ t = { u with intake := s.intake.tail, mem := t.mem }

/-- R56: the chain that the link fields name from `link` on: each of the followers is LINKED, a VEND and valid, and `next` is
the link of the last. -/
def State.linkedVends (s : State) : Nat → List Nat → Nat → Prop
  | link, [], next => link = next
  | link, f :: rest, next =>
    link = f ∧ f < 128 ∧ s.holder f = .linked ∧ s.cardKind f = some .vend ∧ s.failing f = none ∧
      s.linkedVends (s.slotByte f 4) rest next

/-- R55: the result of a VEND that has been charged nothing, has made no revolution and has seen no drop. -/
def noVend : List Byte := [0, 0, 0, 0, 0xFF, 0xFF]

/-- R73, R75: the cards that a CANCEL of the queued vend `e` takes out of the queue: its own, and the items of its basket behind
it. -/
def State.cancelItems (s : State) (e : QueueEntry) : List Nat :=
  match e.basket with
  | none => [e.slot]
  | some head => ((s.vendQueue.filter fun x => x.basket == some head).map QueueEntry.slot).dropWhile (· != e.slot)

/-- R58: the basket in flight whose head's own item has ended and of which nothing is queued or driven any more. -/
def State.overBasket (s : State) : Option Basket :=
  s.basket.filter fun b => b.headOutcome.isSome && !(s.vendQueue.any fun e => e.basket == some b.head) &&
    (s.flight.map Flight.basket) != some (some b.head)

/-- R73, R75, R58: from `u` on, the queued cards `items` are cancelled, the basket in flight completes when nothing of it is
left, and the CANCEL in `slot` completes with the number of cards it moved to CANCELLED. -/
structure cardsCancelled (u t : State) (slot : Nat) (items : List Nat) (n : Nat) : Prop where
  cards : ∀ f ∈ items, t.doneWith f .cancelled noVend
  card : t.doneWith slot .ok [BitVec.ofNat 8 n]
  frame :
    let left := u.vendQueue.filter fun e => !items.contains e.slot
    let done := ({ u with vendQueue := left } : State).overBasket
    (∀ b ∈ done, t.holder b.head = .done ∧ (∀ o ∈ b.headOutcome, t.slotHalf b.head 6 = o.code) ∧
      t.slotHalf b.head 50 = field16 b.charged) ∧
    t = { u with
      vendQueue := left, basket := if done.isSome then none else u.basket, mem := t.mem,
      noticePending := u.noticePending ||| u.cardsBits (items ++ (done.map Basket.head).toList ++ [slot]) }
  bytes : keepsBytes u t fun a => (∃ f ∈ items, cardByte f a) ∨ cardByte slot a ∨ ∃ b ∈ u.basket, cardByte b.head a

/-- R149: every waiting claim takes the size of its kind. -/
def resized (s : State) (l : LoadSettings) : List Claim :=
  s.waiting.map fun w => { w with size := match w.claimant with
    | .compressor => l.startSize
    | .heater => l.heaterSize
    | .drive => if (s.flight.map Flight.twin).getD false then 2 * l.singleSize else l.singleSize
    | .payout => l.payoutSize }

/-- R149, R145, R35: a card that puts the LOAD group `l` in force: every waiting claim takes its size, the head is judged, and
the card completes OK with a save. -/
def loadApplied (s t : State) (slot : Nat) (l : LoadSettings) : Prop :=
  let u := judgeLoad { s with intake := s.intake.tail, mem := (takeHead slot s).mem, loadSet := l, waiting := resized s l }
  t = saveScheduled { u with mem := t.mem, noticePending := u.noticePending ||| s.cardsBit slot } ∧ t.loadSet = l ∧
  t.holder slot = .done ∧ t.slotHalf slot 6 = CardOutcome.ok.code ∧ keepsBytes u t (cardByte slot) ∧
  ((∀ w ∈ (resized s l).head?, l.budget < s.granted + w.size) →
    applied s t slot [] { s with loadSet := l, waiting := resized s l })

/-- R52: the PORT group takes effect. -/
def portApplied (s : State) (p : PortSettings) : State :=
  let changed := s.sup.alive = true ∧ p.keepalivePeriod ≠ s.portSet.keepalivePeriod
  { s with portSet := p, sup :=
    { alive := s.sup.alive, silentReturn := if p.silentDelay = 0 then none else s.sup.silentReturn,
      period := if changed then if p.keepalivePeriod = 0 then none else some (s.now + 1000 * p.keepalivePeriod)
        else s.sup.period,
      reference := if changed ∧ s.portSet.keepalivePeriod = 0 then s.keepaliveWord else s.sup.reference } }

/-- R154, R159, R168: the COOLING group takes effect, but for the defrost: a change of the CAB_B enable makes CAB_B UNSEEDED or
DISABLED with its counts cleared, raises COOLING, and begins or ends fallback cycling. -/
def coolingApplied (s : State) (c : CoolingSettings) : State :=
  if c.cabBEnable = s.coolSet.cabBEnable then { s with coolSet := c }
  else { s with
    coolSet := c, noticePending := s.noticePending ||| NoticeClass.cooling.bit,
    cabB := { s.cabB with state := if c.cabBEnable then .unseeded else .disabled, invalidCount := 0, validCount := 0 },
    fallback :=
      if c.cabBEnable = false ∧ s.cabA.state ≠ .valid ∧ s.cabA.state ≠ .unseeded then
        some (s.fallback.getD ⟨[.claiming, .starting, .running].contains s.comp.state, s.now + 900000⟩)
      else none }

/-- Every address of a list of fields (address, width, value) reads as a byte of its field, least significant first (2.7). -/
def State.shows (s : State) (fields : List (Nat × Nat × Nat)) : Prop :=
  ∀ f ∈ fields, ∀ k < f.2.1, s.readByte (f.1 + k) = BitVec.ofNat 8 (f.2.2 / 256 ^ k)

/-- Every address from `lo` up to `hi` that no field of the list covers reads 0x00 (R19). -/
def State.blankBut (s : State) (lo hi : Nat) (fields : List (Nat × Nat × Nat)) : Prop :=
  ∀ a, lo ≤ a → a < hi → (∀ f ∈ fields, ¬ (f.1 ≤ a ∧ a < f.1 + f.2.1)) → s.readByte a = 0

/-- R33, R15, R38, R52, R106, R109, R137, R148, R167, R184, 2.7.8: the request fields of the kind with code `code`, in
ascending order of offset, each with whether its value lies in its range. -/
def requestRanges (s : State) (slot code : Nat) : List (Nat × Bool) :=
  let b := s.slotByte slot
  let half (off : Nat) := b off + 256 * b (off + 1)
  let temp (off : Nat) : Int := if half off < 32768 then half off else (half off : Int) - 65536
  let byte (off lo hi : Nat) := (off, decide (lo ≤ b off ∧ b off ≤ hi))
  let wide (off lo hi : Nat) := (off, decide (lo ≤ half off ∧ half off ≤ hi))
  let signed (off : Nat) (lo hi : Int) := (off, decide (lo ≤ temp off ∧ temp off ≤ hi))
  let chosen (selector bit : Nat) (f : Nat × Bool) := (f.1, !(b selector).testBit bit || f.2)
  match code with
  | 1 => [(4, decide (b 4 ≤ 127 ∨ b 4 = 255)), byte 9 0 1]
  | 2 => [byte 8 0 127]
  | 4 => byte 8 2 3 :: if b 8 = 3 then [byte 12 0 250, byte 13 0 250, byte 14 0 250, byte 15 0 250] else []
  | 5 => [byte 8 1 4, byte 9 0 250]
  | 6 => [byte 8 1 80, byte 9 0 63, chosen 9 1 (byte 12 0 1), chosen 9 2 (13, decide (b 13 = 0 ∨ b 13 = 1 ∨ b 13 = 3)),
      chosen 9 4 (byte 15 0 1), chosen 9 5 (byte 16 1 4)]
  | 7 => [byte 8 0 1, byte 9 1 (if b 8 = 0 then 6 else 4),
      (10, if b 8 = 0 then decide (b 10 ≤ 7) else decide (b 10 ≤ 127 ∧ b 10 % 8 = 0)),
      chosen 10 1 (byte 14 0 4), chosen 10 2 (byte 15 0 1), chosen 10 4 (byte 16 0 250), chosen 10 5 (byte 17 1 250),
      chosen 10 6 (byte 18 0 250)]
  | 8 => [wide 8 1 1000, byte 12 0 1, byte 13 0 1]
  | 9 => [byte 8 5 60, byte 9 10 150, byte 10 0 2, byte 11 0 2, wide 12 10 290, wide 14 10 290, wide 16 10 290,
      wide 18 10 290]
  | 10 => [signed 8 (-50) 120, byte 10 5 50, wide 11 60 900, wide 13 30 600, byte 15 1 5, byte 16 0 1, byte 17 0 1,
      signed 18 (-50) 50, signed 20 (-50) 50, signed 22 (-50) 50, byte 24 0 5, byte 25 20 200, byte 26 0 24, byte 27 0 1,
      signed 28 0 200, byte 30 5 60, byte 31 0 10, byte 32 0 60, signed 33 10 150, wide 35 60 14400]
  | 11 => [byte 8 4 30, byte 9 1 30, byte 10 1 30, byte 11 1 30, byte 12 1 15, byte 13 1 30]
  | 12 => [wide 9 0 600, wide 11 0 511]
  | 15 => [byte 8 1 80]
  | 19 => [byte 8 1 7]
  | _ => []

/-! ## The ends of a vend, a test and a payout -/

/-- The table of R59 for a VEND of spiral `number` with so much to pay from: the outcome of the first check that fails. -/
def checkTable (s : State) (number : Nat) (coin : Bool) (funds : Nat) : Option CardOutcome :=
  let record := (spiralOf number).map fun i => s.spirals[i]
  let rows : List (Bool × CardOutcome) :=
    [(s.door == .opened, .doorOpen),
     (s.driveFaulted, .driveFaulted),
     (record.isNone, .badSelection),
     (record.any fun r => r.role == .follower, .notSelectable),
     (record.any fun r => r.state == .soldOut, .soldOut),
     (record.any fun r => r.state == .jammed, .spiralJammed),
     (record.any fun r => r.state == .disabled, .disabled),
     (record.any fun r => r.zone == .chilled && s.zone == .unverified, .zoneUnverified),
     (record.any fun r => r.zone == .chilled && s.zone == .locked, .zoneLocked),
     (record.any fun r => decide (funds < r.price), if coin then .insufficientCredit else .insufficientFunds),
     (record.any fun r => coin && s.moneySet.changeMode == .immediate && s.moneySet.overpay == .refuse &&
        !payable s.tubes (funds - r.price), .changeUnavailable),
     (s.drop.fault && s.vendSet.assurance == .required, .dropSensorFault)]
  (rows.find? Prod.fst).map Prod.snd

/-- R67, R10, R12, R14: what the end of a vend with outcome `o` makes of the record of its selection. -/
def recordEnded (o : CardOutcome) (r r' : Spiral) : Prop :=
  r'.inFlight = false ∧ r'.lastOutcome = o ∧ r'.role = r.role ∧ r'.zone = r.zone ∧ r'.price = r.price ∧
  r'.jamClass = r.jamClass ∧ r'.lastRevolution = r.lastRevolution ∧
  match o with
  | .vended | .vendedUnconfirmed =>
    r'.sales = min 65535 (r.sales + 1) ∧ r'.stock = (if r.stock = 255 then 255 else r.stock - 1) ∧
      r'.state = (if r'.stock = 0 then .soldOut else r.state)
  | .noDrop => r'.sales = r.sales ∧ r'.stock = 0 ∧ r'.state = .soldOut
  | .jammed => r'.sales = r.sales ∧ r'.stock = r.stock ∧ r'.state = .jammed
  | _ => r'.sales = r.sales ∧ r'.stock = r.stock ∧ r'.state = r.state

/-- R5: the follower's record after a write of its lead's; its in-flight flag is clear. -/
def mirrored (lead follower follower' : Spiral) : Prop :=
  follower' = { follower with price := lead.price, zone := lead.zone, state := lead.state, stock := lead.stock,
                              inFlight := false }

/-- The other records of the table stand as they were, but for the partner of a twin (R5). -/
def tableEnded (s t : State) (i : Fin 80) (twin : Bool) : Prop :=
  (∀ j : Fin 80, j ≠ i → (twin = true → j ≠ nextSpiral i) → t.spirals[j] = s.spirals[j]) ∧
  (twin = true → nextSpiral i ≠ i →
    mirrored t.spirals[i] s.spirals[nextSpiral i] t.spirals[nextSpiral i])

/-- R67: what an end with outcome `o` adds to live counter `i`; the arbiter's judgement may end a payout, which adds to the
counters 19 and 20 (indices 18 and 19). -/
def auditAdds (f : Flight) (o : CardOutcome) (i : Fin 26) : Word32 :=
  if o.charges then
    if i = 0 then 1 else if i = (if f.coin then 1 else 2) then BitVec.ofNat 32 f.price else 0
  else if o = .noDrop ∧ i = 20 then 1 else 0

/-- R9: SPIRAL, if the state or the role of a record changes from `s` to `t`. -/
def spiralIf (s t : State) : BitVec 9 :=
  if (List.finRange 80).any fun i => t.spirals[i].state != s.spirals[i].state || t.spirals[i].role != s.spirals[i].role
  then NoticeClass.spiral.bit else 0

/-- MONEY if `b`. -/
def moneyIf (b : Bool) : BitVec 9 := if b then NoticeClass.money.bit else 0

/-- The head of the wait list, if there is one, does not fit the budget. -/
def State.headStays (s : State) : Prop := ∀ w ∈ s.waiting.head?, s.loadSet.budget < s.granted + w.size

/-- R147: a claimant's claim withdrawn and its grant released, before the head is judged. -/
def State.without (s : State) (c : Claimant) : State :=
  { s with waiting := s.waiting.filter fun w => w.claimant != c, grants := s.grants.filter fun g => g.claimant != c }

/-- R68: the vend `f`, ended with `o`, asks for its change; `t` is the state after its verdict. -/
def asksChange (s t : State) (f : Flight) (o : CardOutcome) : Bool :=
  f.coin && o.charges && s.moneySet.changeMode == .immediate && decide (t.held < t.credit)

/-- R58, R67: the basket in flight after its item `f` has ended with `o`: a VENDED item is charged to it, and the head's own
item leaves its outcome. -/
def basketCharged (s : State) (f : Flight) (o : CardOutcome) : Option Basket :=
  s.basket.map fun b =>
    let price := if !f.coin && o.charges then f.price else 0
    { b with remaining := b.remaining - price, charged := b.charged + price,
             headOutcome := if f.basket = some f.slot then some o else b.headOutcome }

/-- R58: the basket `b` ends: its head's own item has ended and no item of it is queued. -/
def State.basketEnds (s : State) (b : Basket) : Bool :=
  b.headOutcome.isSome && !s.vendQueue.any fun e => e.basket == some b.head

/-- R58: the basket that ends with the item `f`. -/
def basketClosed (s : State) (f : Flight) (o : CardOutcome) : Option Basket :=
  if f.basket = none then none else (basketCharged s f o).filter s.basketEnds

/-- R58, R68, R69: the cards that complete with the vend `f`, each with its outcome: its own card, unless that goes with the
change payout or heads a basket, and the head of a basket that ends. -/
def cardsEnded (s t : State) (f : Flight) (o : CardOutcome) : List (Nat × CardOutcome) :=
  if asksChange s t f o then
    match s.payQueue.find? (fun e => e.form == .creditReturn) with
    | some e => if e.card = none then [] else [(f.slot, o)]
    | none => if s.payQueue.length < 4 then [] else [(f.slot, o)]
  else
    (if f.basket = some f.slot then [] else [(f.slot, o)]) ++
      ((basketClosed s f o).bind fun b => b.headOutcome.map fun own => (b.head, own)).toList

/-- R68, R129, R130: the payout queue and the pending-return mark after the vend `f`. -/
def changeQueued (s t : State) (f : Flight) (o : CardOutcome) : List PayEntry × Option Origin :=
  if asksChange s t f o then
    match s.payQueue.find? (fun e => e.form == .creditReturn) with
    | some e => (if e.card = none then attachCard (some ⟨f.slot, some o⟩) s.payQueue else s.payQueue, s.returnMark)
    | none =>
      if s.payQueue.length < 4 then
        (s.payQueue ++ [⟨.postVend, .creditReturn, some ⟨f.slot, some o⟩, 0, Vector.replicate 4 0⟩], s.returnMark)
      else (s.payQueue, s.returnMark <|> some .postVend)
  else (s.payQueue, s.returnMark)

/-- Each of the cards stands DONE, with its outcome where no other of them is in the same slot. -/
def State.ended (t : State) (cards : List (Nat × CardOutcome)) : Prop :=
  ∀ c ∈ cards, t.holder c.1 = .done ∧ ((∀ d ∈ cards, d.1 = c.1 → d = c) → t.slotHalf c.1 6 = c.2.code)

/-- The bytes of the card that the payout in flight carries. -/
def payoutByte (s : State) (a : Nat) : Prop := ∃ p ∈ s.payout, ∃ c ∈ p.entry.card, cardByte c.slot a

/-- The bytes of the head of the basket in flight, if `f` is an item. -/
def basketByte (s : State) (f : Flight) (a : Nat) : Prop := f.basket.isSome ∧ ∃ b ∈ s.basket, cardByte b.head a

/-- R58, R67 to R69: the vend in flight has ended with outcome `o`. `alone` is the frame where the load that it gives up lets
no other claim in. -/
structure vendEnded (s t : State) (f : Flight) (o : CardOutcome) : Prop where
  idle : t.flight = none ∧ t.rev = none
  load : t.hasGrant .drive = false ∧ ¬ t.waitingFor .drive
  credit : t.credit = if f.coin = true ∧ o.charges = true then s.credit - f.price else s.credit
  held : t.held = if f.coin = true then s.held - f.price else s.held
  record : recordEnded o s.spirals[f.spiral] t.spirals[f.spiral]
  table : tableEnded s t f.spiral f.twin
  audit : ∀ i : Fin 26, i ≠ 18 → i ≠ 19 → t.live[i] = s.live[i] + auditAdds f o i
  charged : t.slotHalf f.slot 40 = field16 (if o.charges then f.price else 0)
  revolutions : t.slotByte f.slot 42 = f.revolutions % 256
  dropTime : t.slotHalf f.slot 44 = dropTimeField f.dropSeen
  queue : (t.payQueue, t.returnMark) = changeQueued s t f o
  basket : t.basket = if asksChange s t f o then s.basket
    else if f.basket = none then s.basket
    else if (basketClosed s f o).isSome then none else basketCharged s f o
  total : asksChange s t f o = false → ∀ b ∈ basketClosed s f o, t.slotHalf b.head 50 = field16 b.charged
  cards : t.ended (cardsEnded s t f o)
  waits : f.slot ∉ (cardsEnded s t f o).map Prod.fst → ¬ payoutByte s (slotAddr f.slot 0) → t.holder f.slot = s.holder f.slot
  notices : s.noticePending ||| t.noticePending = t.noticePending
  raised : s.ready = true → (s.without .drive).headStays →
    t.noticePending = s.noticePending ||| spiralIf s t ||| moneyIf f.coin ||| s.cardsBits ((cardsEnded s t f o).map Prod.fst)
  frame : t = { s with flight := none, rev := none, credit := t.credit, held := t.held, spirals := t.spirals,
                       live := t.live, mem := t.mem, payQueue := t.payQueue, returnMark := t.returnMark,
                       basket := t.basket, noticePending := t.noticePending, waiting := t.waiting, grants := t.grants,
                       comp := t.comp, runSecond := t.runSecond, defrost := t.defrost, payout := t.payout,
                       ejectors := t.ejectors, tubes := t.tubes }
  bytes : keepsBytes s t fun a => cardByte f.slot a ∨ payoutByte s a ∨ basketByte s f a
  alone : (s.without .drive).headStays →
    t = { s.without .drive with
      flight := none, rev := none, credit := t.credit, held := t.held, spirals := t.spirals, live := t.live, mem := t.mem,
      payQueue := t.payQueue, returnMark := t.returnMark, basket := t.basket, noticePending := t.noticePending } ∧
    (∀ i : Fin 26, t.live[i] = s.live[i] + auditAdds f o i) ∧
    keepsBytes s t fun a => cardByte f.slot a ∨ basketByte s f a

/-- R79, R11, R14: what the end of a test makes of the record of its selection. -/
def recordTested (o : CardOutcome) (r r' : Spiral) : Prop :=
  r'.inFlight = false ∧ r'.lastOutcome = o ∧ r'.role = r.role ∧ r'.zone = r.zone ∧ r'.price = r.price ∧
  r'.jamClass = r.jamClass ∧ r'.lastRevolution = r.lastRevolution ∧ r'.sales = r.sales ∧ r'.stock = r.stock ∧
  r'.state =
    if o = .homeOk ∧ r.state = .jammed then (if r.stock = 0 then .soldOut else .ready)
    else if o = .testJammed ∧ r.state = .ready then .jammed
    else r.state

/-- R79: the test in flight has ended with outcome `o` and revolution time `time`; it moves no money. `alone` is as in
`vendEnded`. -/
structure testEnded (s t : State) (f : Flight) (o : CardOutcome) (time : Nat) : Prop where
  idle : t.flight = none ∧ t.rev = none
  load : t.hasGrant .drive = false ∧ ¬ t.waitingFor .drive
  record : recordTested o s.spirals[f.spiral] t.spirals[f.spiral]
  table : tableEnded s t f.spiral f.twin
  result : t.slotHalf f.slot 40 = field16 time ∧ t.slotHalf f.slot 42 = dropTimeField f.dropSeen
  card : t.holder f.slot = .done ∧ t.slotHalf f.slot 6 = o.code
  notices : s.noticePending ||| t.noticePending = t.noticePending
  raised : s.ready = true → (s.without .drive).headStays →
    t.noticePending = s.noticePending ||| spiralIf s t ||| s.cardsBit f.slot
  frame : t = { s with flight := none, rev := none, spirals := t.spirals, live := t.live, mem := t.mem,
                       noticePending := t.noticePending, waiting := t.waiting, grants := t.grants, comp := t.comp,
                       runSecond := t.runSecond, defrost := t.defrost, payout := t.payout, ejectors := t.ejectors,
                       tubes := t.tubes }
  bytes : keepsBytes s t fun a => cardByte f.slot a ∨ payoutByte s a
  alone : (s.without .drive).headStays →
    t = { s.without .drive with
      flight := none, rev := none, spirals := t.spirals, mem := t.mem, noticePending := t.noticePending } ∧
    keepsBytes s t (cardByte f.slot)

/-- The vend in flight has ended with `o`, or the test in flight with `testO`. -/
def flightEnded (s t : State) (f : Flight) (o testO : CardOutcome) : Prop :=
  (f.isTest = false → vendEnded s t f o) ∧ (f.isTest = true → testEnded s t f testO 0)

/-! ## The stages of a vend -/

/-- What a card that passes its check stage brings into flight (R54, R61, R62, R78). -/
def captured (s : State) (slot : Nat) (basket : Option Nat) (i : Fin 80) (isTest coin : Bool) : Flight :=
  { slot := slot, basket := basket, isTest := isTest, spiral := i, twin := s.spirals[i].role == .lead,
    chilled := s.spirals[i].zone == .chilled, price := if isTest then 0 else s.spirals[i].price, coin := coin,
    loadWait := s.vendSet.loadWait, revolutionLimit := s.vendSet.revolutionLimit, extraTurns := s.vendSet.extraTurns,
    assurance := s.vendSet.assurance, stage := .claiming, revolutions := 0, firstStart := none, dropSeen := none,
    loadTimer := some (s.now + 1000 * s.vendSet.loadWait), dropTimer := none }

/-- R13: the table with the in-flight flag set on a selection. -/
def markedInFlight (spirals : Vector Spiral 80) (i : Fin 80) (twin : Bool) : Vector Spiral 80 :=
  Vector.ofFn fun j => { spirals[j] with inFlight := spirals[j].inFlight || j == i || (twin && j == nextSpiral i) }

/-- The size of the spiral drive's claim (R142). -/
def State.driveSize (s : State) (twin : Bool) : Nat := if twin then 2 * s.loadSet.singleSize else s.loadSet.singleSize

/-- R61, R62, R78: the selection is committed and the spiral drive's claim joins the wait list. -/
def committed (s : State) (f : Flight) (held : Nat) (notices : BitVec 9) : State :=
  { s with flight := some f, held := held, noticePending := notices, spirals := markedInFlight s.spirals f.spiral f.twin,
           waiting := s.waiting ++ [⟨.drive, s.driveSize f.twin⟩] }

/-- R82, R85: the cam record of a spiral at a motor start. -/
def camStarted (s : State) (i : Fin 80) : Cam :=
  { spiral := i, level := s.camLevel[i], edge := none, limitWaits := false, closeTime := none,
    phase := if s.camLevel[i] = .closed then .awaitOpen else .turningOpen,
    openTime := if s.camLevel[i] = .closed then none else some 0 }

/-- R63, R82: the revolution timer is 0, the measured current 0, and the selection of `f` turns. -/
def motorsStarted (s : State) (f : Flight) : State :=
  let cams := camStarted s f.spiral :: (if f.twin then [camStarted s (nextSpiral f.spiral)] else [])
  { s with
    rev := some { started := s.now, classLimit := s.vendSet.jamLimit[s.spirals[f.spiral].jamClass], current := 0,
                  jamSince := none, cams := cams },
    flight := some { f with stage := if cams.all (fun c => c.phase != .awaitOpen) then .turning else .leavingHome,
                            firstStart := some (f.firstStart.getD s.now), loadTimer := none, dropTimer := none } }

/-- R63: the zone lets a motor start. -/
def startAllowed (s : State) (f : Flight) : Prop :=
  f.isTest = true ∨ f.chilled = false ∨ s.zone = .safe ∨ s.zone = .exposed

/-- R63, R176: the outcome of a vend that the zone turns away. -/
def zoneOutcome (s : State) : CardOutcome := if s.zone = .locked then .zoneLocked else .zoneUnverified

/-- R88, R89: the jam timer runs while the measured current is above the limit of the motors that turn. -/
def jamTimer (r : Revolution) (now : Nat) : Option Nat :=
  if r.classLimit * (r.cams.filter fun c => c.phase != .home).length < r.current then some (r.jamSince.getD now) else none

/-- R84: a cam whose sense line takes `level` at `time` on the revolution timer. -/
def camFollowed (time : Nat) (level : CamLevel) (c : Cam) : Cam :=
  { c with edge :=
      if level = c.level then c.edge.filter (fun e => decide (e + 20 ≤ time)) else some (c.edge.getD time) }

/-- R85: a cam whose pending edge of time `e` is consumed. -/
def camConsumed (e : Nat) (c : Cam) : Cam :=
  let opens := c.level == .closed
  { c with
    level := if opens then .opened else .closed, edge := none, limitWaits := false,
    phase := if opens ∧ c.phase = .awaitOpen then .turningOpen else if ¬ opens ∧ c.phase = .turningOpen then .home else c.phase,
    openTime := if opens ∧ c.phase = .awaitOpen then some e else c.openTime,
    closeTime := if ¬ opens ∧ c.phase = .turningOpen then some e else c.closeTime }

/-! ## Coins and payouts -/

/-- R125: the exact-change status of the records as they stand in `t`. -/
def statusFresh (t : State) : Prop :=
  t.exactOnly = exactChangeFlag t.tubes t.moneySet.guaranteeLimit ∧
  t.guaranteed = guaranteedAmount t.tubes t.moneySet.guaranteeLimit

/-- R129, R130: the payout queue and the pending-return mark after a request without a card. -/
def returnAsked (s : State) (o : Origin) : List PayEntry × Option Origin :=
  if s.payQueue.any (fun e => e.form == .creditReturn) then (s.payQueue, s.returnMark)
  else if s.payQueue.length < 4 then
    (s.payQueue ++ [⟨o, .creditReturn, none, 0, Vector.replicate 4 0⟩], s.returnMark)
  else (s.payQueue, some (s.returnMark.getD o))

/-- R132: the tube from which the next coin comes, and the coins left to pay once the shares of empty tubes have ended. -/
def drawn (tubes : Vector Tube 4) (left left' : CoinsLeft) (t : Fin 4) : Prop :=
  match left with
  | .byValue coins =>
    left' = left ∧ ∃ v, (coins.find? fun c => c.2 != 0).map Prod.fst = some v ∧ tubes[t].value = v ∧ 0 < tubes[t].count ∧
      ∀ k : Fin 4, tubes[k].value = v → tubes[k].count < tubes[t].count ∨ tubes[k].count = tubes[t].count ∧ t ≤ k
  | .byTube n =>
    n[t] ≠ 0 ∧ tubes[t].count ≠ 0 ∧ (∀ k : Fin 4, k < t → n[k] = 0 ∨ tubes[k].count = 0) ∧
      left' = .byTube (Vector.ofFn fun k => if k < t then 0 else n[k])

/-- R132, R134: the pulse of 100 ms and the confirm window of 400 ms of a coin that is ejected now. -/
def ejecting (s : State) (p : Payout) (t : Fin 4) (value : Nat) (retried : Bool) : State :=
  { s with payout := some { p with air := some ⟨t, value, retried, s.now + 400⟩, pulse := some t },
           ejectors := s.ejectors.set t (some (s.now + 100)) }

/-- R132: the coin may leave: a CREDIT_RETURN pays no more than the available credit. -/
def mayEject (s : State) (p : Payout) (value : Nat) : Prop := p.entry.form = .creditReturn → value ≤ s.credit - s.held

/-- R133: the records after a coin of the payout `p` has been confirmed, and the payout as it goes on. -/
def confirmed (s : State) (p : Payout) (a : AirCoin) (t : State) (p' : Payout) : Prop :=
  p' = { p with paid := p.paid + a.value, air := none,
                coinsPaid := p.coinsPaid.set a.tube (p.coinsPaid[a.tube] + 1),
                left := match p.left with
                  | .byValue coins => .byValue (coins.map fun c => if c.1 = a.value then (c.1, c.2 - 1) else c)
                  | .byTube n => .byTube (n.set a.tube (n[a.tube] - 1)) } ∧
  t.tubes = s.tubes.set a.tube { s.tubes[a.tube] with count := s.tubes[a.tube].count - 1 } ∧ statusFresh t ∧
  t.credit = (if p.entry.form = .creditReturn then max (s.credit - a.value) s.held else s.credit) ∧
  (∀ i : Fin 26, t.live[i] = s.live[i] + if i.val = 14 + a.tube.val then 1 else 0) ∧
  t = { s with payout := some p', tubes := t.tubes, exactOnly := t.exactOnly, guaranteed := t.guaranteed,
               credit := t.credit, live := t.live,
               noticePending := s.noticePending ||| moneyIf (p.entry.form == .creditReturn || t.exactOnly != s.exactOnly) }

/-- R135: the retained amount of a CREDIT_RETURN that ends. -/
def retainedOf (s : State) (p : Payout) : Nat := min (p.due - p.paid) (s.credit - s.held)

/-- R69, R135 to R138: the card of a payout that has ended with outcome `o`. -/
def payoutCardEnded (s t : State) (p : Payout) (o : CardOutcome) : Prop :=
  match p.entry.card with
  | none => t.mem = s.mem
  | some ⟨slot, vend⟩ =>
    t.holder slot = .done ∧ t.slotHalf slot 6 = (vend.getD o).code ∧ keepsBytes s t (cardByte slot) ∧
    match vend, p.entry.form with
    | some _, _ => t.slotHalf slot 46 = field16 p.paid ∧ t.slotHalf slot 48 = field16 (retainedOf s p)
    | none, .creditReturn =>
      t.slotHalf slot 40 = field16 p.paid ∧ t.slotHalf slot 42 = field16 (retainedOf s p) ∧
        t.slotByte slot 44 = min 255 p.emptyEvents
    | none, .amount => t.slotHalf slot 40 = field16 p.paid ∧ t.slotHalf slot 42 = field16 (p.due - p.paid)
    | none, .tubeList =>
      t.slotHalf slot 40 = field16 p.paid ∧ ∀ k : Fin 4, t.slotByte slot (44 + k.val) = p.coinsPaid[k] % 256

/-- R135, R147: the payout `p` in flight has ended with outcome `o`, and its load did not let another claim in. -/
def payoutEnded (s t : State) (p : Payout) (o : CardOutcome) : Prop :=
  t = { s.without .payout with
          payout := none, tubes := s.tubes.map fun x => { x with busy := false }, live := t.live, mem := t.mem,
          noticePending := s.noticePending ||| NoticeClass.money.bit |||
            ((p.entry.card.map fun c => s.cardsBit c.slot).getD 0) } ∧
  (∀ i : Fin 26, t.live[i] = s.live[i] +
    if p.entry.form = .creditReturn then (if i = 19 then BitVec.ofNat 32 (retainedOf s p) else 0)
    else if i = 18 then BitVec.ofNat 32 p.paid else 0) ∧
  payoutCardEnded s t p o

/-- R135: PAID in full, or PARTIAL. -/
def payoutOutcome (p : Payout) : CardOutcome :=
  if (if p.entry.form = .tubeList then p.coinsPaid = p.entry.coins else p.paid = p.due) then .paid else .partialPaid

/-- R132, R135: the engine ejects its next coin, or ends the payout when it has none to eject or may not eject it. -/
def nextCoinTaken (s t : State) (p : Payout) : Prop :=
  (∀ k left, drawn s.tubes p.left left k → mayEject s p s.tubes[k].value →
    t = ejecting s { p with left := left } k s.tubes[k].value false) ∧
  (∀ k left, drawn s.tubes p.left left k → ¬ mayEject s p s.tubes[k].value → (s.without .payout).headStays →
    payoutEnded s t p (payoutOutcome p)) ∧
  ((∀ k left, ¬ drawn s.tubes p.left left k) → (s.without .payout).headStays → payoutEnded s t p (payoutOutcome p))

/-! ## The change solver -/

/-- R117: a solution of an amount: coin numbers within the availabilities that make it up. -/
def solves : List (Nat × Nat) → Nat → List Nat → Prop
  | [], amount, [] => amount = 0
  | (v, a) :: rest, amount, k :: ks => k ≤ a ∧ k * v ≤ amount ∧ solves rest (amount - k * v) ks
  | _, _, _ => False

/-- Lexicographic order of coin numbers, the largest coin first (R117). -/
def lexLe : List Nat → List Nat → Prop
  | k :: ks, m :: ms => k < m ∨ k = m ∧ lexLe ks ms
  | _, _ => True

/-- R116: the availability of value `v` in pass 1, which keeps the reserves, and in pass 2. -/
def kept (tubes : Vector Tube 4) (v : Nat) : Nat :=
  ((List.finRange 4).map fun k => if tubes[k].value = v then tubes[k].count - tubes[k].reserve else 0).sum

def full (tubes : Vector Tube 4) (v : Nat) : Nat :=
  ((List.finRange 4).map fun k => if tubes[k].value = v then tubes[k].count else 0).sum

/-- R115: `ds` is the denomination list: the values of the tubes that are not 0, largest first, each once. -/
def isDenominations (tubes : Vector Tube 4) (ds : List Nat) : Prop :=
  ds.Pairwise (· > ·) ∧ ∀ v, v ∈ ds ↔ v ≠ 0 ∧ ∃ k : Fin 4, tubes[k].value = v

/-- R118: the amount has a solution in pass 1. -/
def solvedKept (tubes : Vector Tube 4) (ds : List Nat) (amount : Nat) : Prop :=
  ∃ ks, solves (ds.map fun v => (v, kept tubes v)) amount ks

/-- R119, R121: the amount has a solution in pass 2. -/
def solvedFull (tubes : Vector Tube 4) (ds : List Nat) (amount : Nat) : Prop :=
  ∃ ks, solves (ds.map fun v => (v, full tubes v)) amount ks

/-! ## Cooling -/

/-- R158: OFF_RESTING with the minimum off timer started in full. -/
def State.rested (s : State) : State :=
  { s with comp := ⟨.offResting, some (s.now + 1000 * s.coolSet.minOff), none, none⟩, runSecond := none }

/-- R162: a defrost has started, its load given up by the compressor without letting another claim in. -/
def defrostBegun (s : State) : State :=
  let u := { s.without .compressor with
    comp := ⟨.offResting, none, none, none⟩, runSecond := none, runTime := 0,
    defrost := { s.defrost with state := .offCycle, forcedAt := none, forced := false, startedAt := s.now, grace := none,
                                timer := some (s.now + 60000 * s.coolSet.maxDuration) } }
  match s.coolSet.defrostType with
  | .offCycle => u
  | .heater =>
    judgeLoad { u with defrost := { u.defrost with state := .claimingHeat },
                       waiting := u.waiting ++ [⟨.heater, s.loadSet.heaterSize⟩] }

/-- The relay is closed: STARTING or RUNNING (R157). -/
def State.compressorRuns (s : State) : Prop := s.comp.state = .starting ∨ s.comp.state = .running

/-- R161, R162: what becomes of a defrost that is called for in NOT_DUE. -/
def defrostCalled (s t : State) : Prop :=
  (s.compressorRuns →
    t = { s with defrost := { s.defrost with state := .due, forcedAt := some (s.now + 3600000), forced := false } }) ∧
  (¬ s.compressorRuns → (s.without .compressor).headStays → t = defrostBegun s)

/-- R161: the accumulator has reached the defrost interval. -/
abbrev State.dueByTime (s : State) : Prop :=
  s.coolSet.defrostInterval ≠ 0 ∧ 3600 * s.coolSet.defrostInterval ≤ s.runTime

/-- R161: as the relay opens, every second of running that is whole is counted, and a count that reaches the interval makes a
defrost in NOT_DUE DUE. -/
def runCounted (s : State) : State :=
  let whole := match s.runSecond with
    | some m => if m ≤ s.now then (s.now - m) / 1000 + 1 else 0
    | none => 0
  let u := { s with runTime := min 4294967295 (s.runTime + whole), runSecond := s.runSecond.map fun m => m + 1000 * whole }
  if whole = 0 then s
  else if u.dueByTime ∧ s.defrost.state = .notDue then
    { u with defrost := { s.defrost with state := .due, forcedAt := some (s.now + 3600000), forced := false } }
  else u

/-- R161, R162: a judgement of the interval; a DUE defrost that the compressor does not hold back starts. -/
def dueJudged (s t : State) : Prop :=
  (s.dueByTime → s.defrost.state = .notDue → defrostCalled s t) ∧
  (s.dueByTime → s.defrost.state = .due → ¬ s.compressorRuns → (s.without .compressor).headStays → t = defrostBegun s) ∧
  (¬ s.dueByTime ∨ (s.defrost.state ≠ .notDue ∧ (s.defrost.state = .due → s.compressorRuns)) → t = s)

/-- R157: the compressor places its start claim. -/
def startClaimed (s : State) : State :=
  judgeLoad { s with comp := { s.comp with state := .claiming }, waiting := s.waiting ++ [⟨.compressor, s.loadSet.startSize⟩] }

/-- R157, R168: the control temperature is at or above SP + D, or at or below SP, as the last sample took them. -/
def State.coldNeeded (s : State) : Prop :=
  ∃ f, s.controlTemp = some f ∧ s.thermostat.setpoint + s.thermostat.differential ≤ f

def State.coldReached (s : State) : Prop := ∃ f, s.controlTemp = some f ∧ f ≤ s.thermostat.setpoint

/-- R164, R165: DRAINING ends, and a held DEFROST_NOW completes with the kind, seconds and evaporator reading kept. -/
def drained (s t : State) : Prop :=
  let u : State := { s.rested with defrost := { s.defrost with
    state := .notDue, drip := none,
    grace := if s.coolSet.recoveryGrace = 0 then none else some (s.now + 60000 * s.coolSet.recoveryGrace) } }
  (s.defrost.card = none → t = u) ∧
  ∀ slot r, s.defrost.card = some slot → s.defrost.result = some r →
    t = { u with defrost := { u.defrost with card := none }, mem := t.mem,
                 noticePending := s.noticePending ||| s.cardsBit slot } ∧
    t.holder slot = .done ∧ t.slotHalf slot 6 = r.kind.code ∧ t.slotHalf slot 40 = field16 r.seconds ∧
    t.slotHalf slot 42 = tempField r.evap ∧ keepsBytes s t (cardByte slot)

/-- R152 to R154: what a sample with `code` makes of a channel. -/
def channelSampled (k : Nat) (trim : Int) (code : BitVec 12) (c c' : TempChannel) : Prop :=
  let temp := Int.fdiv ((code.toNat : Int) * 1500) 4096 - 400 + trim
  let valid := 16 ≤ code.toNat ∧ code.toNat ≤ 4079
  let seeded := c' = { state := .valid, filter := 16 * temp, invalidCount := 0, validCount := 0 }
  let missed :=
    if c.invalidCount + 1 < 3 then c' = { c with invalidCount := c.invalidCount + 1 }
    else c' = { state := .fault, filter := c.filter, invalidCount := 0, validCount := 0 }
  match c.state with
  | .disabled => c' = c
  | .unseeded => if valid then seeded else missed
  | .valid =>
    if valid then c' = { c with filter := c.filter + Int.fdiv (16 * temp - c.filter) (2 ^ k), invalidCount := 0 } else missed
  | .fault =>
    if valid then (if c.validCount + 1 < 3 then c' = { c with validCount := c.validCount + 1 } else seeded)
    else c' = { c with validCount := 0 }

/-- R172, R173: zone state and E after a sample, from those before it. -/
def zoneSampled (zone : ZoneState) (exposure allowed : Nat) (warm paused : Bool) : ZoneState × Nat :=
  let later := min 65535 (exposure + 1)
  match zone, warm, paused with
  | .locked, _, _ => (.locked, exposure)
  | .safe, true, false => (.exposed, 1)
  | .safe, _, _ => (.safe, exposure)
  | _, false, _ => (.safe, 0)
  | z, true, true => (z, exposure)
  | z, true, false => (if allowed ≤ later then .locked else z, later)

/-! ## The persistent image -/

/-- R178: the CRC-16 of a list of bits, one bit after the other, by the polynomial x^16 + x^12 + x^5 + 1 from 0xFFFF. -/
def crcOfBits (bits : List Bool) : Half :=
  bits.foldl (fun c bit => if c.msb != bit then (c <<< 1) ^^^ 0x1021 else c <<< 1) 0xFFFF

/-- R178: the bits of bytes, each most significant bit first. -/
def bitsOf (bytes : List Byte) : List Bool := bytes.flatMap fun b => (List.range 8).map fun k => b.getLsbD (7 - k)

/-- R178: the records that an image captures of a state. -/
def captures (i : Image) (s : State) : Prop :=
  (i.money = s.moneySet ∧ i.vend = s.vendSet ∧ i.load = s.loadSet ∧ i.port = s.portSet ∧ i.cooling = s.coolSet) ∧
  (∀ k : Fin 80, i.spirals[k] = { s.spirals[k] with inFlight := false }) ∧
  (∀ k : Fin 6, i.channels[k] = s.channels[k]) ∧
  (∀ k : Fin 4, i.tubes[k] = ⟨s.tubes[k].value, s.tubes[k].count, s.tubes[k].capacity, s.tubes[k].reserve⟩) ∧
  (i.credit = s.credit ∧ i.zone = s.zone ∧ i.exposure = s.exposure ∧ i.driveFaulted = s.driveFaulted ∧
    i.runTime = s.runTime ∧ i.live = s.live ∧ i.snapshot = s.snap)

/-! ## Restarts -/

/-- The audit counters with the restarts counter raised (R181). -/
def restartCounted (n : Counters) : Counters := n.set 25 (n[25] + 1)

/-- R181 and the restart rule of every block (R20, R43, R45, R51, R76, R80, R92, R96, R114, R126, R139, R141, R151, R170,
R177):
`t` is what a restart builds from `s`; the port is not ready yet. -/
def restarted (reason : RestartReason) (pins : Pins) (s t : State) : Prop :=
  let i := s.store.image.getD .factory
  let lost := s.store.image.isNone
  (t.pending = s.pending ∧ t.now = s.now) ∧
  (t.ready = false ∧ t.pfail = .clear ∧ t.reason = reason ∧ t.storeLost = lost) ∧
  (t.mem = [] ∧ t.refused = 0 ∧ t.intake = [] ∧ t.noticePending = 0) ∧
  t.sup = ⟨false, 0, none, none⟩ ∧ t.door = pins.door ∧
  (∀ k : Fin 80, t.spirals[k] = { i.spirals[k] with inFlight := false }) ∧
  (t.moneySet = i.money ∧ t.vendSet = i.vend ∧ t.loadSet = i.load ∧ t.portSet = i.port ∧ t.coolSet = i.cooling) ∧
  t.channels = i.channels ∧
  (∀ k : Fin 4, t.tubes[k] = ⟨i.tubes[k].value, i.tubes[k].count, i.tubes[k].capacity, i.tubes[k].reserve, pins.full[k],
    none, false⟩) ∧
  (t.credit = i.credit ∧ t.held = 0 ∧ statusFresh t) ∧
  (t.vendQueue = [] ∧ t.flight = none ∧ t.basket = none ∧ t.rev = none ∧ t.offCheck = none) ∧
  t.driveFaulted = i.driveFaulted ∧ t.drop = ⟨pins.beamBlocked, false, false, s.now⟩ ∧
  (t.payQueue = [] ∧ t.returnMark = none ∧ t.payout = none ∧ ∀ k : Fin 4, t.ejectors[k] = none) ∧
  (t.spent = .idle ∧ t.missedAt = none) ∧ (t.waiting = [] ∧ t.grants = []) ∧
  (t.cabA = ⟨.unseeded, 0, 0, 0⟩ ∧ t.cabB = ⟨if i.cooling.cabBEnable then .unseeded else .disabled, 0, 0, 0⟩ ∧
    t.evap = ⟨.unseeded, 0, 0, 0⟩) ∧
  (t.airflow = false ∧ t.aboveCount = 0 ∧ t.withinCount = 0 ∧ t.comp.state = .offResting ∧ t.fallback = none) ∧
  (t.defrost.state = .notDue ∧ t.defrost.grace = none ∧ t.defrost.card = none ∧ t.defrost.timeoutFlag = false) ∧
  (t.runTime = i.runTime ∧ t.runSecond = none) ∧
  (t.zone = (if i.zone = .locked then .locked else .unverified) ∧
    t.exposure = if i.zone = .locked then i.exposure else 0) ∧
  t.thermostat = ⟨i.cooling.setpoint, i.cooling.differential⟩ ∧
  t.store = ⟨if lost then .lost else .ok, false, s.store.stored, none, none, none, none⟩ ∧
  (t.live = restartCounted i.live ∧ t.snap = i.snapshot)

end Sys2Proof.Machine
end

