-- ==== Sys2Proof/Certificates/Slice0/Obligations.lean ====
section
/-! DEFINITION. The statements for the provers, one for each entry of OBLIGATIONS.json. -/

section

open Sys2Proof Sys2Proof.Machine

/-! ## The machine -/

/-- A step takes the command at the front of the queue and executes it with the rest of the queue.
The model's choice (notes/assumptions/3.md, 50.md): on an empty queue the part's own next command joins the queue, and without
one a millisecond passes. -/
def Obligations.AStepRunsTheFrontCommandOrIdles : Prop :=
  (∀ (c : Instr) (rest : List Instr) (s : State), step { s with pending := c :: rest } = exec c { s with pending := rest }) ∧
  (∀ s : State, s.pending = [] →
    (∀ c, nextCommand s = some c → step s = .next { s with pending := [c] }) ∧
    (nextCommand s = none → step s = .next { s with now := s.now + 1 }))

/-- The model's choice (notes/assumptions/3.md, 6.md, 34.md): every command of the table answers a next state in every state,
leaves the queue of commands as it was, and never puts the clock back. -/
def Obligations.EveryCommandCompletesAndKeepsTheQueue : Prop :=
  ∀ (c : Instr) (s : State), ∃ t, exec c s = .next t ∧ t.pending = s.pending ∧ s.now ≤ t.now

/-- R181, R170: the state right after reset is what a POWER_ON restart with no image stored builds and finishes, from any
state whose queue is empty, whose clock stands at 0, whose cams are closed and which has no read open
(notes/assumptions/4.md, 35.md).
The state right after reset has every property of Safety.lean. -/
def Obligations.ResetIsAFinishedRestartAndSafe : Prop :=
  (∀ s : State, s.store.stored = ⟨.factory, 0, true⟩ → s.pending = [] → s.now = 0 → s.reading = none →
    s.camLevel = Vector.replicate 80 .closed →
    ∃ t, exec (.powerOn ⟨.closed, Vector.replicate 4 false, false⟩) s = .next t ∧
      exec .restartSequenceEnd t = .next State.reset) ∧
  (State.reset.memoryOk ∧ State.reset.holdersOk ∧ State.reset.moneyOk ∧ State.reset.coinsOk ∧ State.reset.spiralsOk ∧
  State.reset.exposureOk ∧ State.reset.coolingOk ∧ State.reset.driveOk)

/-! ## The port (R19 to R28, R41 to R47) -/

/-- R21, R22: a MEMORY READ sends 0x00 for its four command bytes and then the bytes from its address onward, round from
0xFFFF to 0x0000, and changes nothing else. Each byte goes out as it stands when it is sent; the first byte of a field of 2
or 4 bytes captures the rest of that field, a field entered elsewhere is not captured, and two pieces of a read with nothing
between them send what one piece sends.
R47: the bytes that are clocked after a port reset in the same assertion of chip select are 0x00.
The model's choice: a read comes in pieces, what it sends is kept in dataOut, and without an open read there is none to go
on with (notes/assumptions/2.md, 5.md, 6.md). -/
def Obligations.MemoryReadSendsTheBytes : Prop :=
  (∀ (addr : Half) (count : Nat) (s : State), ∃ t, exec (.memoryRead (some addr) count) s = .next t ∧
    t = { s with dataOut := t.dataOut, reading := t.reading } ∧ t.dataOut.length = 4 + count ∧
    (∀ i < 4, t.dataOut[i]? = some 0) ∧
    ∀ i < count, t.dataOut[4 + i]? = some (s.readByte ((addr.toNat + i) % 65536))) ∧
  (∀ (next : Half) (captured : List Byte) (s : State), s.ready = true → s.reading = some (.bytes next captured) →
    ∃ t, exec (.memoryRead none 1) s = .next t ∧ t = { s with dataOut := t.dataOut, reading := t.reading } ∧
      (∀ b rest, captured = b :: rest → t.dataOut = [b] ∧ t.reading = some (.bytes (next + 1) rest)) ∧
      (captured = [] → t.dataOut = [s.readByte next.toNat] ∧ ∃ field : List Byte,
        t.reading = some (.bytes (next + 1) field) ∧ field.length = s.widthAt next.toNat - 1 ∧
        ∀ k < field.length, field[k]? = some (s.readByte ((next.toNat + 1 + k) % 65536)))) ∧
  (∀ (start : Option Half) (n m : Nat) (s t u : State), start.isSome = true ∨ s.reading.isSome = true →
    exec (.memoryRead start n) s = .next t → exec (.memoryRead none m) t = .next u →
    exec (.memoryRead start (n + m)) s = .next { u with dataOut := t.dataOut ++ u.dataOut }) ∧
  ∀ s : State,
    (∀ count, s.reading = none → exec (.memoryRead none count) s = .next s) ∧
    (∀ count, s.reading = some .discarded →
      exec (.memoryRead none count) s = .next { s with dataOut := List.replicate count 0 }) ∧
    (∀ a ∈ [0x0000, 0x0040, 0x0058, 0x005A, 0x0066, 0x0096, 0x0200, 0x0261], s.widthAt a = 2) ∧
    (∀ a ∈ [0x0060, 0x0073, 0x0090], s.widthAt a = 4) ∧ (∀ a ∈ [0x0041, 0x0048, 0x0057, 0x0059, 0xFFFF], s.widthAt a = 1) ∧
    (∀ i < 80, s.widthAt (0x2404 + 32 * i) = 2 ∧ s.widthAt (0x2405 + 32 * i) = 1) ∧
    (∀ i < 10, s.widthAt (0x2E02 + 16 * i) = 2) ∧
    (∀ i < 26, s.widthAt (0x2F00 + 4 * i) = 4 ∧ s.widthAt (0x2F80 + 4 * i) = 4) ∧
    ∀ slot < 128, s.widthAt (slotAddr slot 2) = 2 ∧ s.widthAt (slotAddr slot 6) = 2 ∧
      (s.cardKind slot = some .payout → s.widthAt (slotAddr slot 12) = 4 ∧ s.widthAt (slotAddr slot 44) = 4) ∧
      (s.cardKind slot = some .vend → s.widthAt (slotAddr slot 10) = 2 ∧ s.widthAt (slotAddr slot 50) = 2)

/-- R23, R19, R27, R21: a MEMORY WRITE stores, of its bytes that are no holder bytes, the last one for each address, where the
area and the holder admit it; every other such byte reads as before, and nothing changes but the stored bytes, the
intake list, supervision, the refused-write count, the notices, and what the port sends.
The model's choice: the command names the slots completed meanwhile, and data out is kept in dataOut
(notes/assumptions/32.md, 5.md). -/
def Obligations.MemoryWriteStoresTheBytes : Prop :=
  ∀ (addr : Half) (data : List Byte) (completed : List Nat) (s : State), s.memoryOk → s.ready = true →
    ∃ t, exec (.memoryWrite addr data completed) s = .next t ∧
      t = { s with mem := t.mem, intake := t.intake, sup := t.sup, refused := t.refused, noticePending := t.noticePending,
                   dataOut := [0, 0, 0], reading := none } ∧
      (∀ i v, data[i]? = some v →
        (∀ j, i < j → j < data.length → (addr.toNat + j) % 65536 ≠ (addr.toNat + i) % 65536) →
        isHolderAddr ((addr.toNat + i) % 65536) = false →
        readCell t.mem ((addr.toNat + i) % 65536) =
          if stores completed ((addr.toNat + i) % 65536) s then v else readCell s.mem ((addr.toNat + i) % 65536)) ∧
      (∀ a, isHolderAddr a = false → (∀ i < data.length, a ≠ (addr.toNat + i) % 65536) →
        readCell t.mem a = readCell s.mem a)

/-- R28, R31, R32, R26: a MEMORY WRITE of a holder byte alone moves the holder by the table; a posted slot joins the tail of
the intake list, a withdrawn one leaves it, a refused value is counted and raises PORT, and no other byte changes.
The model's choice: data out is kept in dataOut (notes/assumptions/5.md). -/
def Obligations.AHolderByteMovesTheHolder : Prop :=
  ∀ (slot : Nat) (v : Byte) (completed : List Nat) (s : State), slot < 128 → s.memoryOk → s.ready = true →
    ∃ t, exec (.memoryWrite (BitVec.ofNat 16 (slotAddr slot 0)) [v] completed) s = .next t ∧
      t = { s with
        mem := t.mem, dataOut := [0, 0, 0], reading := none,
        intake := if s.holder slot = .free ∧ v = 1 then s.intake ++ [slot]
          else if s.holder slot = .posted ∧ v = 0 then s.intake.filter (· != slot) else s.intake,
        refused := if holderRefused (s.holder slot) v.toNat then min 255 (s.refused + 1) else s.refused,
        noticePending :=
          if holderRefused (s.holder slot) v.toNat then s.noticePending ||| NoticeClass.port.bit else s.noticePending } ∧
      t.holder slot = holderAfter (s.holder slot) v.toNat ∧ keepsBytes s t (· = slotAddr slot 0)

/-- R26, R23: a MEMORY WRITE counts one refusal, and raises PORT, exactly when at least one of its bytes is discarded or at
least one of its holder bytes, the last for its slot, is refused.
R21, R24, R26: an unknown command and a refused REGISTER WRITE are counted, raise PORT and do nothing else.
The model's choice: data out is kept in dataOut (notes/assumptions/5.md). -/
def Obligations.ARefusalIsCountedOnce : Prop :=
  (∀ (addr : Half) (data : List Byte) (completed : List Nat) (s : State), s.memoryOk → s.ready = true →
    let place (i : Nat) := (addr.toNat + i) % 65536
    let discards := ∃ i < data.length, isHolderAddr (place i) = false ∧ stores completed (place i) s = false
    let refuses := ∃ slot < 128, ∃ i v, data[i]? = some v ∧ place i = slotAddr slot 0 ∧
      (∀ j, i < j → j < data.length → place j ≠ slotAddr slot 0) ∧ holderRefused (s.holder slot) v.toNat = true
    ∃ t, exec (.memoryWrite addr data completed) s = .next t ∧
      (discards ∨ refuses →
        t.refused = min 255 (s.refused + 1) ∧ t.noticePending = s.noticePending ||| NoticeClass.port.bit) ∧
      (¬ (discards ∨ refuses) → t.refused = s.refused ∧ t.noticePending = s.noticePending)) ∧
  (∀ (command register : Byte) (data : List Byte) (s : State), s.ready = true →
    unknownOk command = true → refusedOk register data = true →
    let t := { s with
      refused := min 255 (s.refused + 1), noticePending := s.noticePending ||| NoticeClass.port.bit, reading := none }
    exec (.unknownCommand command) s = .next { t with dataOut := [0] } ∧
    exec (.registerWriteRefused register data) s = .next { t with dataOut := [0, 0] })

/-- R48: a write that reaches the keepalive word and leaves it changed makes a SILENT supervision ALIVE, with the word as
reference, the silent return disarmed and a period of P seconds, none if P is 0; every other write leaves supervision as it
is. At the end of a period a changed word becomes the reference and the next period starts; an unchanged one makes
supervision SILENT, stops the period timer and arms the silent return, unless its delay is 0 (R50).
The model's choice: the clock of the expiry, and an expiry without a running period leaves the state as it is
(notes/assumptions/3.md, 6.md). -/
def Obligations.SupervisionFollowsTheKeepaliveWord : Prop :=
  (∀ (addr : Half) (data : List Byte) (completed : List Nat) (s : State), s.ready = true →
    ∃ t, exec (.memoryWrite addr data completed) s = .next t ∧
      let reaches := ∃ i < data.length, (addr.toNat + i) % 65536 = 0x0040 ∨ (addr.toNat + i) % 65536 = 0x0041
      let changes := reaches ∧ s.sup.alive = false ∧ t.keepaliveWord ≠ s.sup.reference
      (changes → t.sup =
        { alive := true, reference := t.keepaliveWord, silentReturn := none,
          period := if s.portSet.keepalivePeriod = 0 then none else some (s.now + 1000 * s.portSet.keepalivePeriod) }) ∧
      (¬ changes → t.sup = s.sup)) ∧
  (∀ (s : State) (moment : Nat), s.ready = true → s.sup.alive = true → s.sup.period = some moment →
    s.portSet.keepalivePeriod ≠ 0 →
    exec .keepalivePeriodEnd s = .next
      { s with
        now := max s.now moment,
        sup :=
          if s.keepaliveWord = s.sup.reference then
            { alive := false, reference := s.sup.reference, period := none,
              silentReturn := if s.portSet.silentDelay = 0 then none
                else some (max s.now moment + 1000 * s.portSet.silentDelay) }
          else
            { alive := true, reference := s.keepaliveWord, silentReturn := s.sup.silentReturn,
              period := some (max s.now moment + 1000 * s.portSet.keepalivePeriod) } }) ∧
  (∀ s : State, s.sup.alive = false ∨ s.sup.period = none → exec .keepalivePeriodEnd s = .next s)

/-- R25: while the port is not ready no write and no unknown command changes anything but what the port sends, and every read
returns 0x00 bytes and captures nothing; R46: the fields of PORT_STATUS read 0 as well; R47: a port reset raises no notice;
R44, R181: ATTN is deasserted, since nothing is pending.
The model's choice: what the port sends is kept in dataOut (notes/assumptions/5.md). -/
def Obligations.APortThatIsNotReadyDoesNothing : Prop :=
  ∀ s : State, s.ready = false →
    (∀ addr data completed,
      exec (.memoryWrite addr data completed) s = .next { s with dataOut := [0, 0, 0], reading := none }) ∧
    (∀ data, exec (.noticeMaskWrite data) s = .next { s with dataOut := [0, 0], reading := none }) ∧
    (∀ register data, exec (.registerWriteRefused register data) s = .next { s with dataOut := [0, 0], reading := none }) ∧
    (∀ command, exec (.unknownCommand command) s = .next { s with dataOut := [0], reading := none }) ∧
    (∀ released, exec (.portReset released) s = .next { s with reading := some .discarded }) ∧
    (∀ addr count, exec (.memoryRead (some addr) count) s = .next
      { s with dataOut := List.replicate (4 + count) 0,
               reading := some (.bytes (addr + BitVec.ofNat 16 count) []) }) ∧
    (∀ next captured count, s.reading = some (.bytes next captured) → 0 < count → exec (.memoryRead none count) s = .next
      { s with dataOut := List.replicate count 0,
               reading := some (.bytes (next + BitVec.ofNat 16 count) []) }) ∧
    (∀ register count, exec (.noticeRead ⟨register, count⟩) s = .next
      { s with dataOut := List.replicate (3 + count) 0, reading := none }) ∧
    s.attn = false

/-- R42: a read of NOTICE returns the code of the highest class that is pending and enabled, or 0, and once its byte has
been sent in full it clears that class; no other flag and no other state changes. R24, R43, R46: a read of NOTICE_MASK
returns the mask in force, one of PORT_STATUS the ready indication, the store state and the refused-write count, one of any
other number 0x00; the bytes after a register's own are 0x00, and such a read changes nothing else.
R43, R24: a REGISTER WRITE of two bytes or more to NOTICE_MASK replaces the nine enable bits and nothing else. R47: a port
reset raises PORT, discards the transaction and does nothing else; an assertion of chip select takes no second one.
The model's choice: what the port sends is kept in dataOut, after a byte 0x00 for each byte before the data, the read of any
register is this command, and an operand tells a new assertion from the one of the last port reset (notes/assumptions/5.md,
31.md, 45.md). -/
def Obligations.TheRegistersAreReadAndWritten : Prop :=
  (∀ (count : Nat) (s : State), s.ready = true → ∃ t, exec (.noticeRead ⟨1, count⟩) s = .next t ∧
    t = { s with dataOut := t.dataOut, reading := none, noticePending := t.noticePending } ∧ t.dataOut.length = 3 + count ∧
    (∀ i < 3 + count, i ≠ 3 → t.dataOut[i]? = some 0) ∧
    (∀ k : Nat, k < 9 → (s.noticePending &&& s.noticeMask).getLsbD k = true →
      (∀ j < k, (s.noticePending &&& s.noticeMask).getLsbD j = false) →
      (0 < count → t.dataOut[3]? = some (BitVec.ofNat 8 (k + 1))) ∧
      ∀ j < 9, t.noticePending.getLsbD j = if 0 < count ∧ j = k then false else s.noticePending.getLsbD j) ∧
    (s.noticePending &&& s.noticeMask = 0 →
      (0 < count → t.dataOut[3]? = some 0) ∧ t.noticePending = s.noticePending)) ∧
  (∀ (register : Byte) (count : Nat) (s : State), s.ready = true → register ≠ 1 →
    let store := match s.store.state with
      | .ok => 0
      | .saving => 1
      | .lost => 2
    let own : List Byte := if register = 2 then [s.noticeMask.extractLsb' 0 8, (s.noticeMask.extractLsb' 8 1).zeroExtend 8]
      else if register = 3 then [BitVec.ofNat 8 (1 + 2 * store), BitVec.ofNat 8 s.refused] else []
    exec (.noticeRead ⟨register, count⟩) s = .next
      { s with dataOut := [0, 0, 0] ++ (own ++ List.replicate count 0).take count, reading := none }) ∧
  ∀ (low high : Byte) (more : List Byte) (s : State), s.ready = true →
    (∃ t, exec (.noticeMaskWrite (low :: high :: more)) s = .next t ∧
      t = { s with noticeMask := t.noticeMask, dataOut := [0, 0], reading := none } ∧
      ∀ k < 9, t.noticeMask.getLsbD k = if k < 8 then low.getLsbD k else high.getLsbD (k - 8)) ∧
    (∀ released, released = true ∨ s.reading ≠ some .discarded → exec (.portReset released) s =
      .next { s with noticePending := s.noticePending ||| NoticeClass.port.bit, reading := some .discarded }) ∧
    (s.reading = some .discarded → exec (.portReset false) s = .next s)

/-- R21 to R24, R43: the bytes that a host sends for a well-formed command of the port spell that command again; a part with an
empty queue that receives them executes it in its next step. A transaction released before its address or register number
is complete has no effect. The word of the bytes of any transaction, the first byte lowest, spells the same command, and put
before the queue it is executed in the next step; the word of a transaction without effect spells none.
The model's choice: the word (notes/assumptions/1.md). -/
def Obligations.PortCommandsRoundTrip : Prop :=
  (∀ bytes : List Byte,
    let word := bytes.foldr (fun b w => b.toNat + 256 * w) 0
    decodeTableWord (8 * bytes.length) word = decodeTransaction [] bytes ∧
    ∀ s : State,
      (∀ i, decodeTransaction [] bytes = some i → step (s.withFetchWord (8 * bytes.length) word) = exec i s) ∧
      (decodeTransaction [] bytes = none → s.withFetchWord (8 * bytes.length) word = s)) ∧
  (∀ command ∈ [0x51, 0x52, 0x61, 0x62], decodeTableWord 8 command = none) ∧
  ∀ (i : Instr) (bytes : List Byte) (completed : List Nat), i.wellFormed = true → encodeTransaction i = some bytes →
    (∀ addr data c, i = .memoryWrite addr data c → c = completed) →
    decodeTransaction completed bytes = some i ∧
    ∀ s : State, (s.pending = [] → step (s.receive completed bytes) = exec i s) ∧ s.receive completed [] = s ∧
      (∀ command ∈ [0x51, 0x52], ∀ low, s.receive completed [command] = s ∧ s.receive completed [command, low] = s) ∧
      ∀ command ∈ [0x61, 0x62], s.receive completed [command] = s

/-! ## Cards (R33 to R37) -/

/-- R33, R29: a card that fails validation leaves the list and ends BAD_CARD, with the offset of the failing field as the
first byte of its result and nothing else changed but its own bytes and CARDS. Validation judges the kind, the flags and
then the fields of the kind in ascending order of offset, each in its range (2.7.8).
The model's choice: the coin numbers of a PAYOUT are judged as four fields (notes/assumptions/38.md). -/
def Obligations.ABadCardShowsTheFailingOffset : Prop :=
  (∀ (s : State) (slot off : Nat), s.memoryOk → s.working = true → s.intake.head? = some slot →
    s.failing slot = some off →
    ∃ t, exec .badCard s = .next t ∧ answered s t slot .badCard [BitVec.ofNat 8 off] s) ∧
  ∀ (s : State) (slot : Nat), let code := s.slotByte slot 1
    s.failing slot =
      if code = 0 ∨ 19 < code then some 1
      else if 2 ≤ s.slotByte slot 5 then some 5
      else ((requestRanges s slot code).find? fun f => !f.2).map Prod.fst

/-- R40, 2.7.8, R38, R52, R109, R148, R167: after a SET_MONEY, SET_VEND, SET_LOAD, SET_PORT or SET_COOLING that ends OK the
settings mirror shows, byte for byte, the request body of the card.
2.7.8, R15, R106: what a SET_SPIRAL and a SET_COIN select, by the bits of their selectors, stands at the offsets of the
table. -/
def Obligations.RequestBodiesAreReadAtTheirOffsets : Prop :=
  (∀ (s : State) (slot base size : Nat) (k : CardKind) (c : Instr),
    (k, c, base, size) ∈ [(CardKind.setMoney, Instr.setMoney, 0x0200, 8), (.setVend, .setVend, 0x0220, 12),
      (.setLoad, .setLoad, 0x0240, 6), (.setPort, .setPort, 0x0260, 5), (.setCooling, .setCooling, 0x0280, 29)] →
    s.validHead k slot → ∃ t, exec c s = .next t ∧
      (t.slotHalf slot 6 = CardOutcome.ok.code → ∀ j < size, t.readByte (base + j) = readCell s.mem (slotAddr slot (8 + j)))) ∧
  ∀ (s : State) (slot : Nat),
    let b := s.slotByte slot
    let half (off : Nat) := b off + 256 * b (off + 1)
    let onlyIf {α : Type} (selector bit : Nat) (x : α) : Option α := if (b selector).testBit bit then some x else none
    (let q := s.spiralRequest slot;
      q.price = onlyIf 9 0 (half 10) ∧ q.zone = onlyIf 9 1 (if b 12 = 0 then .ambient else .chilled) ∧
      (b 13 ∈ [0, 1, 3] →
        q.state = onlyIf 9 2 (if b 13 = 0 then .ready else if b 13 = 1 then .soldOut else .disabled)) ∧
      q.stock = onlyIf 9 3 (b 14) ∧ q.twin = onlyIf 9 4 (b 15 == 1) ∧
      ∀ c : Fin 4, b 16 = c.val + 1 → q.jamClass = onlyIf 9 5 c) ∧
    (let q := s.channelRequest slot;
      q.value = onlyIf 10 0 (half 12) ∧ (b 14 = 0 → q.route = onlyIf 10 1 none) ∧
      (∀ t : Fin 4, b 14 = t.val + 1 → q.route = onlyIf 10 1 (some t)) ∧ q.enable = onlyIf 10 2 (b 15 == 1)) ∧
    (let q := s.tubeRequest slot;
      q.value = onlyIf 10 3 (half 12) ∧ q.count = onlyIf 10 4 (b 16) ∧ q.capacity = onlyIf 10 5 (b 17) ∧
      q.reserve = onlyIf 10 6 (b 18))

/-- R34, R53: a valid VEND without a chain and a valid TEST_SPIRAL join the tail of the vend queue and stay TAKEN; without a
free entry they end QUEUE_FULL. The zero result of a refused TEST_SPIRAL is DEDUCED (notes/assumptions/12.md). -/
def Obligations.VendAndTestCardsJoinTheVendQueue : Prop :=
  ∀ (s : State) (slot : Nat) (k : CardKind) (c : Instr), s.validHead k slot →
    (k = .vend ∧ c = .vend ∧ s.slotByte slot 4 = 255) ∨ (k = .testSpiral ∧ c = .testSpiral) →
    ∃ t, exec c s = .next t ∧
      (s.vendQueue.length < 16 → keptTaken s t slot { s with vendQueue := s.vendQueue ++ [⟨slot, none⟩] }) ∧
      (16 ≤ s.vendQueue.length → answered s t slot .queueFull (if k = .vend then noVend else []) s)

/-- R56, R57, R29: a chain of VENDs that are LINKED and valid, named by their link fields up to a link of 255, of at most 8
cards with its head: with as many free entries it joins the tail of the vend queue in one step, head first, every follower
TAKEN; with fewer, every card of it ends QUEUE_FULL. -/
def Obligations.AGoodChainIsPlacedWholeOrNotAtAll : Prop :=
  ∀ (s : State) (head : Nat) (followers : List Nat), s.validHead .vend head → s.slotByte head 4 ≠ 255 →
    s.slotByte head 9 ≠ 0 → s.linkedVends (s.slotByte head 4) followers 255 → followers.length ≤ 7 → head ∉ followers →
    ∃ t, exec .vend s = .next t ∧ keepsBytes s t (fun a => ∃ slot ∈ head :: followers, cardByte slot a) ∧
      (followers.length + 1 + s.vendQueue.length ≤ 16 →
        t = { s with intake := s.intake.tail, mem := t.mem,
                     vendQueue := s.vendQueue ++ (head :: followers).map fun slot => ⟨slot, some head⟩ } ∧
        ∀ slot ∈ head :: followers, t.takenIn slot) ∧
      (16 < followers.length + 1 + s.vendQueue.length →
        t = { s with intake := s.intake.tail, mem := t.mem,
                     noticePending := s.noticePending ||| s.cardsBits (head :: followers) } ∧
        ∀ slot ∈ head :: followers, t.doneWith slot .queueFull noVend)

/-- R56, R29: a chain is bad when its head is paid by COIN_CREDIT, and then no follower is visited; when a link names the head
or a slot that is not LINKED; when a visited follower is no valid VEND; and when it has a ninth card. The head ends
BAD_CHAIN and every LINKED slot visited CHAIN_ABORTED.
The zero result of a follower that is no VEND is DEDUCED (notes/assumptions/11.md). -/
def Obligations.ABadChainAbortsWhatItVisited : Prop :=
  ∀ (s : State) (head next : Nat) (visited aborted : List Nat), s.validHead .vend head → s.slotByte head 4 ≠ 255 →
    (s.slotByte head 9 = 0 ∧ aborted = []) ∨
    (s.slotByte head 9 ≠ 0 ∧ s.linkedVends (s.slotByte head 4) visited next ∧ head ∉ visited ∧ next ≠ 255 ∧
      ((visited.length ≤ 7 ∧ (next = head ∨ s.holder next ≠ .linked) ∧ aborted = visited) ∨
       (visited.length = 7 ∧ aborted = visited) ∨
       (visited.length < 7 ∧ next ≠ head ∧ s.holder next = .linked ∧
        (s.cardKind next ≠ some .vend ∨ s.failing next ≠ none) ∧ aborted = visited ++ [next]))) →
    ∃ t, exec .vend s = .next t ∧
      t = { s with intake := s.intake.tail, mem := t.mem, noticePending := s.noticePending ||| s.cardsBits (head :: aborted) } ∧
      t.doneWith head .badChain noVend ∧
      (∀ f ∈ aborted, t.doneWith f .chainAborted (if s.cardKind f = some .vend then noVend else [])) ∧
      keepsBytes s t (fun a => ∃ slot ∈ head :: aborted, cardByte slot a)

/-- R73, R75: a CANCEL of a VEND in the vend queue takes it, and the items of its basket behind it, out of the queue and
completes them CANCELLED; a target that is no taken VEND, as the CANCEL's own slot, is NOT_CANCELLABLE, and one that is
neither queued nor in CLAIMING is TOO_LATE. -/
def Obligations.ACancelIsJudgedByItsTarget : Prop :=
  ∀ (s : State) (slot target : Nat), s.validHead .cancel slot → s.slotByte slot 8 = target →
    ∃ t, exec .cancel s = .next t ∧
      (target = slot ∨ s.holder target ≠ .taken ∨ s.cardKind target ≠ some .vend → answered s t slot .notCancellable [] s) ∧
      (target ≠ slot → s.holder target = .taken → s.cardKind target = some .vend →
        (s.vendQueue.find? (fun e => e.slot == target) = none →
          (∀ f ∈ s.flight, f.slot = target → f.stage ≠ .claiming) → answered s t slot .tooLate [] s) ∧
        ∀ e, s.vendQueue.find? (fun x => x.slot == target) = some e →
          let items := s.cancelItems e
          (∀ f ∈ items, f ≠ slot ∧ s.takenIn f ∧ ∀ b ∈ s.basket, b.head ≠ f) → (∀ b ∈ s.basket, b.head ≠ slot) →
          cardsCancelled { s with intake := s.intake.tail, mem := (takeHead slot s).mem } t slot items items.length)

/-- R73, R74, R75: a CANCEL of the vend in flight while it is in CLAIMING ends that vend with CANCELLED, which gives back its
held amount and withdraws its claim, and cancels the items of its basket that are queued; the CANCEL counts them all. -/
def Obligations.ACancelInClaimingEndsTheVend : Prop :=
  ∀ (s : State) (slot : Nat) (f : Flight), s.validHead .cancel slot → s.slotByte slot 8 = f.slot → f.slot ≠ slot →
    s.holder f.slot = .taken → s.cardKind f.slot = some .vend → s.vendQueue.find? (fun e => e.slot == f.slot) = none →
    s.flight = some f → f.stage = .claiming →
    let items := match f.basket with
      | none => []
      | some head => (s.vendQueue.filter fun e => e.basket == some head).map QueueEntry.slot
    (∀ i ∈ items, i ≠ slot ∧ i ≠ f.slot ∧ s.takenIn i ∧ ¬ payoutByte s (slotAddr i 0) ∧ ∀ b ∈ s.basket, b.head ≠ i) →
    ¬ payoutByte s (slotAddr slot 0) → (∀ b ∈ s.basket, b.head ≠ slot) →
    ∃ t u, exec .cancel s = .next t ∧
      vendEnded { s with intake := s.intake.tail, mem := (takeHead slot s).mem } u f .cancelled ∧
      cardsCancelled u t slot items (items.length + 1)

/-- R129, R136, R34: a RETURN_CREDIT joins a waiting credit return that has no card, forms a new entry, or is answered
ALREADY_QUEUED or QUEUE_FULL.
R128, R137: a valid PAYOUT joins the tail of the payout queue with its form, amount and coin numbers, or ends QUEUE_FULL.
The zero results of the refusals are DEDUCED (notes/assumptions/12.md). -/
def Obligations.PayoutCardsJoinThePayoutQueue : Prop :=
  (∀ (s : State) (slot : Nat), s.validHead .returnCredit slot →
    ∃ t, exec .returnCredit s = .next t ∧
      match s.payQueue.find? (fun e => e.form == .creditReturn) with
      | some e =>
        if e.card = none then keptTaken s t slot { s with payQueue := attachCard (some ⟨slot, none⟩) s.payQueue }
        else answered s t slot .alreadyQueued [] s
      | none =>
        if s.payQueue.length < 4 then
          keptTaken s t slot
            { s with payQueue := s.payQueue ++ [⟨.card, .creditReturn, some ⟨slot, none⟩, 0, Vector.replicate 4 0⟩] }
        else answered s t slot .queueFull [] s) ∧
  (∀ (s : State) (slot : Nat), s.validHead .payout slot →
    let b := s.slotByte slot
    ∃ t, exec .payout s = .next t ∧
      (s.payQueue.length < 4 → keptTaken s t slot { s with
        payQueue := s.payQueue ++ [⟨.service, if b 8 = 2 then .amount else .tubeList, some ⟨slot, none⟩,
          b 10 + 256 * b 11, #v[b 12, b 13, b 14, b 15]⟩] }) ∧
      (4 ≤ s.payQueue.length → answered s t slot .queueFull [] s))

/-- R125: the exact-change status is computed and written in one step, and MONEY is raised exactly when the flag changes.
R111: a TUBE_FILL raises the count by the lesser of the coins added and the free places, shows what it accepted, and
schedules a save; for a tube of value 0 it ends OUT_OF_RANGE.
R106, R107, R97: a SET_COIN on a channel writes the selected fields and schedules a save, unless the combined record would
break the route condition; then it ends OUT_OF_RANGE and no record changes.
R106, R108, R98: a SET_COIN on a tube is refused TUBE_BUSY or OUT_OF_RANGE with no record changed, or writes the selected
fields, clamps a count and a reserve it does not select to a lowered capacity, and passes the tubes to the solver. The
result of a SET_COIN shows the 16 bytes of the record as it stands after the card.
The zero result of a TUBE_FILL that ends OUT_OF_RANGE is DEDUCED (notes/assumptions/12.md). -/
def Obligations.TubeFillAndSetCoinWriteTheRecords : Prop :=
  (∀ s : State, let t := recomputeChange s
    statusFresh t ∧ t = { s with
      exactOnly := t.exactOnly, guaranteed := t.guaranteed,
      noticePending := s.noticePending ||| moneyIf (s.ready && t.exactOnly != s.exactOnly) }) ∧
  (∀ (s : State) (slot : Nat) (t : Fin 4), s.validHead .tubeFill slot → s.slotByte slot 8 = t.val + 1 →
    ∃ u, exec .tubeFill s = .next u ∧
      let accepted := min (s.slotByte slot 9) (s.tubes[t].capacity - s.tubes[t].count)
      let value := min 65535 (accepted * s.tubes[t].value)
      if s.tubes[t].value = 0 then answered s u slot .outOfRange [] s
      else applied s u slot
        [BitVec.ofNat 8 accepted, 0, BitVec.ofNat 8 value, BitVec.ofNat 8 (value / 256),
          BitVec.ofNat 8 (s.tubes[t].count + accepted)]
        (recomputeChange { s with tubes := s.tubes.set t { s.tubes[t] with count := s.tubes[t].count + accepted } })) ∧
  (∀ (s : State) (slot : Nat) (c : Fin 6), s.validHead .setCoin slot → s.slotByte slot 8 = 0 →
    s.slotByte slot 9 = c.val + 1 →
    let q := s.channelRequest slot
    let old := s.channels[c]
    let new : Channel := ⟨q.value.getD old.value, q.route.getD old.route, q.enable.getD old.enable⟩
    ∃ u, exec .setCoin s = .next u ∧
      let shown := (List.range 16).map fun k => u.readByte (0x2E00 + 16 * c.val + k)
      if ∀ tube : Fin 4, new.route = some tube → new.value = 0 ∨ s.tubes[tube].value = new.value then
        applied s u slot shown { s with channels := s.channels.set c new }
      else answered s u slot .outOfRange shown s) ∧
  (∀ (s : State) (slot : Nat) (t : Fin 4), s.validHead .setCoin slot → s.slotByte slot 8 = 1 →
    s.slotByte slot 9 = t.val + 1 →
    let q := s.tubeRequest slot
    let old := s.tubes[t]
    let capacity := q.capacity.getD old.capacity
    let value := q.value.getD old.value
    let new := { old with value := value, capacity := capacity, count := q.count.getD (min old.count capacity),
                          reserve := q.reserve.getD (min old.reserve capacity) }
    let fits := (∀ n, q.count = some n → n ≤ capacity) ∧ (∀ n, q.reserve = some n → n ≤ capacity) ∧
      (value = old.value ∨ ∀ c : Fin 6, s.channels[c].route = some t → s.channels[c].value = 0 ∨ s.channels[c].value = value)
    ∃ u, exec .setCoin s = .next u ∧
      let shown := (List.range 16).map fun k => u.readByte (0x2E60 + 16 * t.val + k)
      (old.busy = false → fits → applied s u slot shown (recomputeChange { s with tubes := s.tubes.set t new })) ∧
      (old.busy = true ∨ ¬ fits → answered s u slot (if old.busy then .tubeBusy else .outOfRange) shown s))

/-- R16, R7, R8, R5, R12, R9, R17: a SET_SPIRAL that no check refuses writes the selected fields, forms or dissolves the pair,
mirrors the lead, leaves every other record as it was, and raises SPIRAL exactly when a state or role has changed.
R16, R7, R15: the refusals of a SET_SPIRAL leave every record as it was.
The model's choice: the in-flight check comes before the refusal of a FOLLOWER; DEDUCED: the zero results of the refusals
(notes/assumptions/13.md, 12.md). -/
def Obligations.ASetSpiralWritesItsRecordsOrNone : Prop :=
  (∀ (s : State) (slot : Nat) (i : Fin 80), s.validHead .setSpiral slot → s.slotByte slot 8 = i.val + 1 →
    s.spirals[i].inFlight = false → s.spirals[i].role ≠ .follower →
    let q := s.spiralRequest slot
    let old := s.spirals[i]
    (q.twin = some true → old.role = .single →
      hasNext i = true ∧ s.spirals[nextSpiral i].role = .single ∧ s.spirals[nextSpiral i].inFlight = false) →
    ∃ t, exec .setSpiral s = .next t ∧
      applied s t slot
        ([BitVec.ofNat 8 t.spirals[i].role.code, BitVec.ofNat 8 t.spirals[i].state.code, BitVec.ofNat 8 t.spirals[i].stock, 0]
          ++ leBytes (field16 t.spirals[i].price) 2)
        { s with spirals := t.spirals, noticePending := s.noticePending ||| spiralIf s t } ∧
      let stock := q.stock.getD old.stock
      let state := q.state.getD old.state
      let role := if q.twin = some true then .lead else if q.twin = some false then .single else old.role
      let new := { old with role := role, zone := q.zone.getD old.zone, price := q.price.getD old.price, stock := stock,
                            jamClass := q.jamClass.getD old.jamClass,
                            state := if state = .ready ∧ stock = 0 then .soldOut else state }
      t.spirals[i] = new ∧
      (∀ j : Fin 80, j ≠ i → j ≠ nextSpiral i → t.spirals[j] = s.spirals[j]) ∧
      (nextSpiral i ≠ i →
        t.spirals[nextSpiral i] =
          let partner := s.spirals[nextSpiral i]
          if role = .lead then
            { partner with role := if old.role = .single then .follower else partner.role, price := new.price,
                           zone := new.zone, state := new.state, stock := new.stock }
          else if old.role = .lead then { partner with role := .single, state := .disabled }
          else partner)) ∧
  (∀ (s : State) (slot : Nat) (i : Fin 80) (o : CardOutcome), s.validHead .setSpiral slot → s.slotByte slot 8 = i.val + 1 →
    let q := s.spiralRequest slot
    let asked := q.twin = some true ∧ s.spirals[i].role = .single
    (s.spirals[i].inFlight = true ∧ o = .spiralBusy) ∨
    (s.spirals[i].inFlight = false ∧ s.spirals[i].role = .follower ∧ o = .notSelectable) ∨
    (s.spirals[i].inFlight = false ∧ asked ∧ i.val % 10 = 9 ∧ o = .outOfRange) ∨
    (s.spirals[i].inFlight = false ∧ asked ∧ i.val % 10 ≠ 9 ∧ s.spirals[nextSpiral i].inFlight = true ∧ o = .spiralBusy) ∨
    (s.spirals[i].inFlight = false ∧ asked ∧ i.val % 10 ≠ 9 ∧ s.spirals[nextSpiral i].inFlight = false ∧
      s.spirals[nextSpiral i].role ≠ .single ∧ o = .twinConflict) →
    ∃ t, exec .setSpiral s = .next t ∧ answered s t slot o [] s)

/-- R38, R52: a valid SET_VEND puts its eight fields in force, a valid SET_PORT its three with their effects on supervision;
each ends OK and schedules a save.
R110: a SET_MONEY puts its five fields in force, recomputes the exact-change status and schedules a save; a change of
the base unit with credit, a held amount or a payout ends BUSY and applies no field.
R148, R149: a SET_LOAD whose relations hold puts its group in force, gives every waiting claim the size of its kind, has
the head judged with the grants as they stand, ends OK and schedules a save; otherwise it ends OUT_OF_RANGE.
The model's choice: an equal keepalive period does not restart the period (notes/assumptions/25.md). -/
def Obligations.TheSettingsCardsApplyTheirGroups : Prop :=
  ∀ (s : State) (slot : Nat),
    (s.validHead .setVend slot → ∃ t, exec .setVend s = .next t ∧
      applied s t slot [] { s with vendSet := s.vendRequest slot }) ∧
    (s.validHead .setPort slot → ∃ t, exec .setPort s = .next t ∧ applied s t slot [] (portApplied s (s.portRequest slot))) ∧
    (s.validHead .setMoney slot → let m := s.moneyRequest slot
      ∃ t, exec .setMoney s = .next t ∧
        if m.baseUnit ≠ s.moneySet.baseUnit ∧ (s.credit ≠ 0 ∨ s.held ≠ 0 ∨ s.payout.isSome = true) then
          answered s t slot .busy [] s
        else applied s t slot [] (recomputeChange { s with moneySet := m })) ∧
    (s.validHead .setLoad slot → let l := s.loadRequest slot
      ∃ t, exec .setLoad s = .next t ∧
        if l.startSize ≤ l.budget ∧ l.runSize ≤ l.startSize ∧ l.heaterSize ≤ l.budget ∧ 2 * l.singleSize ≤ l.budget ∧
            l.payoutSize ≤ l.budget then
          loadApplied s t slot l
        else answered s t slot .outOfRange [] s)

/-- R168, R154, R159, R161: a valid SET_COOLING puts its twenty fields in force, ends OK and schedules a save; a change of the
CAB_B enable makes CAB_B UNSEEDED or DISABLED with its counts cleared, raises COOLING, and begins or ends fallback cycling;
a change of the defrost interval is judged against the accumulator, and a defrost that it makes DUE starts at once unless the
compressor runs.
The model's choice: fallback is judged before the defrost falls due (notes/assumptions/40.md). -/
def Obligations.ASetCoolingAppliesItsGroup : Prop :=
  ∀ (s : State) (slot : Nat), s.validHead .setCooling slot →
    let c := s.coolingRequest slot
    ∃ t, exec .setCooling s = .next t ∧ t.coolSet = c ∧ t.holder slot = .done ∧
      t.slotHalf slot 6 = CardOutcome.ok.code ∧
      ((s.without .compressor).headStays → ∃ w, applied s t slot [] w ∧
        let u := coolingApplied { s with intake := s.intake.tail, mem := (takeHead slot s).mem } c
        (c.defrostInterval = s.coolSet.defrostInterval → w = u) ∧
        (c.defrostInterval ≠ s.coolSet.defrostInterval → dueJudged u w))

/-- R184, R18, R38, R52, R110, R114, R35: the DEFAULTS card gives its group, and no other setting, the factory values, ends OK
and schedules a save; the owners of MONEY, SPIRALS and CHANNELS_AND_TUBES refuse it under their conditions, and a refusal
changes nothing but the card and schedules no save.
R149, R145: the LOAD group lets the head of the wait list through where it now fits.
The model's choice: a defrost that a changed interval makes DUE does not start in this step, which leaves the accumulator
as it is, a grant acts although it may end a card that moves H or an audit counter, and an equal keepalive period does not
restart the period (notes/assumptions/41.md, 48.md, 25.md). DEDUCED: the zero results (notes/assumptions/12.md). -/
def Obligations.DefaultsRestoreTheirGroup : Prop :=
  ∀ (s : State) (slot : Nat), s.validHead .defaults slot →
    ∃ t, exec .defaults s = .next t ∧
      let group := s.slotByte slot 8
      (group = 1 → if MoneySettings.factory.baseUnit ≠ s.moneySet.baseUnit ∧
          (s.credit ≠ 0 ∨ s.held ≠ 0 ∨ s.payout.isSome = true)
        then answered s t slot .busy [] s
        else applied s t slot [] (recomputeChange { s with moneySet := .factory })) ∧
      (group = 2 → applied s t slot [] { s with vendSet := .factory }) ∧
      (group = 3 → loadApplied s t slot .factory) ∧
      (group = 4 → applied s t slot [] (portApplied s .factory)) ∧
      (group = 5 → let u := coolingApplied s .factory
        applied s t slot [] { u with defrost :=
          if u.coolSet.defrostInterval ≠ s.coolSet.defrostInterval ∧ u.dueByTime ∧ s.defrost.state = .notDue then
            { s.defrost with state := .due, forcedAt := some (s.now + 3600000), forced := false }
          else s.defrost }) ∧
      (group = 6 → if ∃ i : Fin 80, s.spirals[i].inFlight = true
        then answered s t slot .spiralBusy [] s
        else applied s t slot [] { s with spirals := t.spirals, noticePending := s.noticePending ||| spiralIf s t } ∧
          ∀ i : Fin 80, t.spirals[i] =
            { Spiral.factory with sales := s.spirals[i].sales, lastRevolution := s.spirals[i].lastRevolution,
                                  lastOutcome := s.spirals[i].lastOutcome }) ∧
      (group = 7 → if s.payout.isSome = true
        then answered s t slot .tubeBusy [] s
        else applied s t slot [] (recomputeChange { s with
          channels := Vector.replicate 6 .factory,
          tubes := s.tubes.map fun r => { r with value := 0, count := min r.count 100, capacity := 100, reserve := 0 } }))

/-- R175: RELEASE_ZONE unlocks a zone that is not warm, ends STILL_WARM on a warm one, and shows the zone state, E and the
safety temperature as they stand after the card. -/
def Obligations.AReleaseZoneUnlocksAColdZone : Prop :=
  ∀ (s : State) (slot : Nat), s.validHead .releaseZone slot → s.exposure ≤ 65535 →
    ∃ t, exec .releaseZone s = .next t ∧
      let warm := s.safetyTemp = none ∨ ∃ f, s.safetyTemp = some f ∧ s.coolSet.safeLimit < f
      let bytes := [BitVec.ofNat 8 t.zone.code, 0, BitVec.ofNat 8 t.exposure, BitVec.ofNat 8 (t.exposure / 256),
        BitVec.ofNat 8 (tempField s.safetyTemp), BitVec.ofNat 8 (tempField s.safetyTemp / 256)]
      (s.zone = .locked → warm → answered s t slot .stillWarm bytes s) ∧
      (s.zone = .locked → ¬ warm → applied s t slot bytes
        { s with zone := .safe, exposure := 0, noticePending := s.noticePending ||| NoticeClass.zone.bit }) ∧
      (s.zone ≠ .locked → applied s t slot bytes s)

/-- R92: a RESUME_DRIVE is held for the off-current check of 100 ms while the drive is FAULTED, ends OK at once while it is
OK, and ends BUSY while one is held. A check that passes makes the drive OK, raises DRIVE and schedules a save; one that fails
ends it STILL_FAULTED; the result shows the highest current, up to 500.
The model's choice: the clock of the check (notes/assumptions/3.md). DEDUCED: the zero result of the BUSY answer, and the one
save at the end of a check that passes (notes/assumptions/12.md, 24.md). -/
def Obligations.AResumeDriveRunsTheOffCurrentCheck : Prop :=
  (∀ (s : State) (slot : Nat), s.validHead .resumeDrive slot →
    ∃ t, exec .resumeDrive s = .next t ∧
      (s.offCheck = none → s.driveFaulted = true →
        keptTaken s t slot { s with offCheck := some ⟨slot, some (s.now + 100)⟩ }) ∧
      (s.offCheck = none → s.driveFaulted = false → applied s t slot [] s) ∧
      (s.offCheck ≠ none → answered s t slot .busy [] s)) ∧
  (∀ (s : State) (slot ends highest : Nat), s.memoryOk → s.working = true → s.offCheck = some ⟨slot, some ends⟩ →
    s.takenIn slot →
    let shown := [BitVec.ofNat 8 (min 500 highest), BitVec.ofNat 8 (min 500 highest / 256)]
    (highest < 5 → ∃ t, exec (.offCurrentCheckPass highest) s = .next t ∧ t.doneWith slot .ok shown ∧
      keepsBytes s t (cardByte slot) ∧
      t = saveScheduled { s with
        now := max s.now ends, mem := t.mem, driveFaulted := false, offCheck := none,
        noticePending := s.noticePending ||| NoticeClass.drive.bit ||| s.cardsBit slot }) ∧
    (5 ≤ highest → ∃ t, exec (.offCurrentCheckFail highest) s = .next t ∧ t.doneWith slot .stillFaulted shown ∧
      keepsBytes s t (cardByte slot) ∧
      t = { s with mem := t.mem, offCheck := none, noticePending := s.noticePending ||| s.cardsBit slot }))

/-- R179, R183: a save that is requested begins while the store is idle, capturing every record of the image (R178), and sets
the pending-save mark while one is in progress; STORE and SNAPSHOT are held and request a save, a SNAPSHOT after all 26 live
counters have been copied; a second card of a held kind ends BUSY. A completed save stores its image with the CRC of its
bytes, completes each held card that it covers OK with that CRC, and a pending mark begins the next save. R180: the
power-fail save completes no card. R178: an image is valid when it is not marked incomplete and its CRC is the CRC-16 of its
bytes.
The model's choice: the image is a record whose bytes are a free value (notes/assumptions/28.md). DEDUCED: the zero result of
a STORE or SNAPSHOT that ends BUSY (notes/assumptions/12.md). -/
def Obligations.SavesAreRequestedAndComplete : Prop :=
  (∀ s : State, requestSave s = saveScheduled s ∧ captures s.image s) ∧
  (∀ bytes, crc16 bytes = crcOfBits (bitsOf bytes)) ∧
  (∀ st : Store, st.image = if st.stored.incomplete = false ∧
      st.stored.crc = crcOfBits (bitsOf (Config.imageBytes st.stored.records)) then some st.stored.records else none) ∧
  (∀ (s : State) (slot : Nat),
    (s.validHead .store slot → ∃ t, exec .store s = .next t ∧
      (s.store.heldStore = none → t.takenIn slot ∧ keepsBytes s t (cardByte slot) ∧
        t = saveScheduled { s with intake := s.intake.tail, mem := t.mem,
                                   store := { s.store with heldStore := some ⟨slot, false⟩ } }) ∧
      (s.store.heldStore ≠ none → answered s t slot .busy [] s)) ∧
    (s.validHead .snapshot slot → ∃ t, exec .snapshot s = .next t ∧
      (s.store.heldSnapshot = none → t.takenIn slot ∧ keepsBytes s t (cardByte slot) ∧
        t = saveScheduled { s with intake := s.intake.tail, mem := t.mem, snap := s.live,
                                   store := { s.store with heldSnapshot := some ⟨slot, false⟩ } }) ∧
      (s.store.heldSnapshot ≠ none → answered s t slot .busy [] s))) ∧
  (∀ (pins : Pins) (i : Image) (s : State), s.memoryOk → s.store.capture = some i →
    ∃ t, exec (.saveComplete pins) s = .next t ∧
      let crc := crcOfBits (bitsOf (Config.imageBytes i))
      let stored := { s.store with state := .ok, stored := ⟨i, crc, false⟩, capture := none, ends := none }
      let left (h : Option HeldSave) := h.filter fun c => !c.covered
      let covers (c : HeldSave) := c.covered = true ∧ (s.store.heldStore = some c ∨ s.store.heldSnapshot = some c)
      (s.pfail = .asserted → t = { s with store := stored }) ∧
      (s.pfail = .clear →
        (∀ c, covers c → t.holder c.slot = .done ∧ t.slotHalf c.slot 6 = CardOutcome.ok.code ∧
          t.slotHalf c.slot 40 = crc.toNat) ∧
        keepsBytes s t (fun a => ∃ c, covers c ∧ cardByte c.slot a) ∧
        s.noticePending ||| t.noticePending = t.noticePending ∧
        let u := { s with
          mem := t.mem, noticePending := t.noticePending,
          store := { stored with mark := false, heldStore := left s.store.heldStore,
                                 heldSnapshot := left s.store.heldSnapshot } }
        t = if s.store.mark then saveBegun u else u))

/-! ## The vend sequencer (R53 to R80) -/

/-- R59, R60, R55, R58: the first check that fails ends a VEND with its outcome, nothing charged: a standalone VEND and an item
complete, the head of a basket waits for its items, and a basket of which nothing is left completes with its head. R61, R62:
when all pass, the price of a COIN_CREDIT vend is held from the credit, the selection is committed, and the spiral drive's
claim is placed and judged. The head of a basket brings the authorised amount, and an item is checked against what remains
of it.
The model's choice: a price of 0 raises MONEY too (notes/assumptions/14.md). -/
def Obligations.TheCheckStageDecidesAVend : Prop :=
  ∀ (s : State) (e : QueueEntry) (rest : List QueueEntry), s.memoryOk → s.working = true → s.flight = none →
    s.vendQueue = e :: rest → s.cardKind e.slot = some .vend →
    (e.basket ≠ some e.slot → ∀ b ∈ s.basket, b.head ≠ e.slot) →
    let isHead := e.basket = some e.slot
    let opened := if isHead then some ⟨e.slot, s.slotHalf e.slot 10, 0, none⟩ else s.basket
    let coin := decide (e.basket = none ∧ s.slotByte e.slot 9 = 0)
    let funds := if coin then s.credit - s.held
      else if e.basket = none ∨ isHead then s.slotHalf e.slot 10 else (s.basket.map Basket.remaining).getD 0
    let u := { s with vendQueue := rest, basket := opened }
    let refusal := checkTable s (s.slotByte e.slot 8) coin funds
    ∃ t, exec .vendCheckStage s = .next t ∧
      (∀ o, refusal = some o → s.takenIn e.slot →
        let left := if isHead then opened.map fun b => { b with headOutcome := some o } else opened
        let closed := if e.basket = none then none else left.filter u.basketEnds
        t = { u with
          mem := t.mem, basket := if closed.isSome then none else left,
          noticePending := s.noticePending |||
            s.cardsBits ((if isHead then [] else [e.slot]) ++ (closed.map Basket.head).toList) } ∧
        (¬ isHead ∨ closed.isSome = true → t.doneWith e.slot o noVend) ∧
        (isHead → closed = none → t.holder e.slot = .taken ∧
          ∀ i < 24, readCell t.mem (slotAddr e.slot (40 + i)) = noVend.getD i 0) ∧
        (∀ b ∈ closed, ¬ isHead → t.holder b.head = .done ∧ (∀ own ∈ b.headOutcome, t.slotHalf b.head 6 = own.code) ∧
          t.slotHalf b.head 50 = field16 b.charged) ∧
        keepsBytes s t (fun a => cardByte e.slot a ∨ ∃ b ∈ closed, cardByte b.head a)) ∧
      (refusal = none → ∃ i : Fin 80, s.slotByte e.slot 8 = i.val + 1 ∧
        t = judgeLoad (committed u (captured s e.slot e.basket i false coin)
          (if coin then s.held + s.spirals[i].price else s.held) (s.noticePending ||| moneyIf coin)))

/-- R78: a TEST_SPIRAL ends SERVICE_ONLY, DRIVE_FAULTED or NOT_SELECTABLE, or its selection is committed and the spiral
drive's claim is placed and judged, with nothing held.
The model's choice: a refused test shows the drop seen time 65,535 (notes/assumptions/16.md). -/
def Obligations.TheCheckStageDecidesATest : Prop :=
  ∀ (s : State) (e : QueueEntry) (rest : List QueueEntry), s.memoryOk → s.working = true → s.flight = none →
    s.vendQueue = e :: rest → s.cardKind e.slot = some .testSpiral →
    let ready := s.door = .opened ∧ s.driveFaulted = false
    let selectable (i : Fin 80) := s.slotByte e.slot 8 = i.val + 1 ∧ s.spirals[i].role ≠ .follower
    ∃ t, exec .testCheckStage s = .next t ∧
      (∀ o, (s.door = .closed ∧ o = .serviceOnly) ∨ (s.door = .opened ∧ s.driveFaulted = true ∧ o = .driveFaulted) ∨
          (ready ∧ (∀ i, ¬ selectable i) ∧ o = .notSelectable) → s.takenIn e.slot →
        t = { s with vendQueue := rest, mem := t.mem, noticePending := s.noticePending ||| s.cardsBit e.slot } ∧
        t.doneWith e.slot o [0, 0, 0xFF, 0xFF] ∧ keepsBytes s t (cardByte e.slot)) ∧
      (∀ i, ready → selectable i →
        t = judgeLoad (committed { s with vendQueue := rest } (captured s e.slot e.basket i true false) s.held
          s.noticePending))

/-- R62, R63, R82: the grant of the spiral drive's claim starts the motors of the selection in the same step, unless the zone
state now turns a VEND on a CHILLED selection away.
The model's choice: a revolution begins with a measured current of 0, and with the cam levels that the last changes left
(notes/assumptions/21.md, 9.md). -/
def Obligations.AGrantStartsTheMotors : Prop :=
  ∀ (s : State) (f : Flight) (size : Nat), s.memoryOk → s.flight = some f → s.pfail = .clear →
    s.waiting = [⟨.drive, size⟩] → s.granted + size ≤ s.loadSet.budget →
    (startAllowed s f →
      judgeLoad s = motorsStarted { s with waiting := [], grants := s.grants ++ [⟨.drive, size⟩] } f) ∧
    (¬ startAllowed s f → vendEnded s (judgeLoad s) f (zoneOutcome s))

/-- R62, R79, R89, R90, R91, R71: the load wait timer ends a vend or test in CLAIMING with LOAD_TIMEOUT; the jam timer ends it
with a jam and DRIVE, and so does a short, which also makes the drive FAULTED and schedules a save.
R87: at its limit a cam that has not opened, or has not closed, ends the vend or test with a jam and DRIVE, unless the edge
it waits for is pending with a time within the limit; then the judgement waits for that edge.
The model's choice: the clock, and the order within an end (notes/assumptions/3.md, 23.md). DEDUCED: the save of a short
captures the records after the end (notes/assumptions/24.md). -/
def Obligations.TimersLimitsAndShortsEndTheFlight : Prop :=
  ∀ (s : State) (f : Flight), s.memoryOk → s.working = true → s.flight = some f →
    let jam := s.noticePending ||| NoticeClass.drive.bit
    (∀ m, f.stage = .claiming → f.loadTimer = some m →
      ∃ t, exec .loadWaitExpiry s = .next t ∧ flightEnded { s with now := max s.now m } t f .loadTimeout .loadTimeout) ∧
    ∀ r, s.rev = some r →
      (∀ m, r.jamSince = some m → ∃ t, exec .jamTimerExpiry s = .next t ∧
        flightEnded { s with now := max s.now (m + 250), noticePending := jam } t f .jammed .testJammed) ∧
      (∀ current, 300 < current → ∃ u, exec (.motorShort current) s = .next (saveScheduled u) ∧
        flightEnded { s with driveFaulted := true, noticePending := jam } u f .jammed .testJammed) ∧
      ∃ t u, exec .camLeaveLimit s = .next t ∧ exec .revolutionLimit s = .next u ∧
        let limit := 100 * f.revolutionLimit
        let late (level : CamLevel) (phase : CamPhase) (at_ : Nat) (c : Cam) : Prop :=
          c.phase ≠ phase ∨ c.level ≠ level ∨ c.edge = none ∨ ∃ e, c.edge = some e ∧ at_ < e
        let leaveLate := ∃ c ∈ r.cams, c.phase = .awaitOpen ∧ late .closed .awaitOpen 1000 c
        let revolutionLate := ∃ c ∈ r.cams, c.phase ≠ .home ∧ late .opened .turningOpen limit c
        let atLeave := max s.now (r.started + 1000)
        let atLimit := max s.now (r.started + limit)
        (leaveLate → flightEnded { s with now := atLeave, noticePending := jam } t f .jammed .testJammed) ∧
        (¬ leaveLate → t = { s with
          now := atLeave,
          rev := some { r with
            cams := r.cams.map fun c => if c.phase = .awaitOpen then { c with limitWaits := true } else c } }) ∧
        (revolutionLate → flightEnded { s with now := atLimit, noticePending := jam } u f .jammed .testJammed) ∧
        (¬ revolutionLate → u = { s with
          now := atLimit,
          rev := some { r with cams := r.cams.map fun c => if c.phase ≠ .home then { c with limitWaits := true } else c } })

/-- R84: the change of a cam is what its next motor start finds (R82), and while its spiral is energised and has not reached
HOME its record follows: a change becomes the pending edge, a return within 20 ms drops it, and a limit that waited for a
dropped edge is taken and reported with DRIVE.
R88, R89, R90: a measured current within 3.00 A is taken and starts, keeps or stops the jam timer by the limit of the
motors that turn; a current above it ends the vend or test as a short.
The model's choice: the command names the spiral whose cam changes, the clock moves by the operand `after`, a current above
3.00 A is a short whichever command brings it, and an edge 20 ms old stays (notes/assumptions/9.md, 3.md, 21.md, 22.md).
DEDUCED: the save of a short captures the records after the end (notes/assumptions/24.md). -/
def Obligations.SenseLinesAndCurrentsAreFollowed : Prop :=
  (∀ (after : Nat) (spiral : Fin 80) (level : CamLevel) (s : State), ∃ t, exec (.camLineChange after spiral level) s = .next t ∧
    let now := s.now + after
    let changed := { s with now := now, camLevel := s.camLevel.set spiral level }
    (s.rev = none ∨ s.working = false → t = changed) ∧
    ∀ r, s.rev = some r → s.working = true →
      let follows (c : Cam) := c.spiral = spiral ∧ c.phase ≠ .home
      let dropped := ∃ c ∈ r.cams, follows c ∧ c.limitWaits = true ∧ c.edge.isSome = true ∧
        (camFollowed (now - r.started) level c).edge = none
      let u := { changed with
        rev := some { r with cams := r.cams.map fun c => if follows c then camFollowed (now - r.started) level c else c } }
      (¬ dropped → t = u) ∧
      (∀ f, dropped → s.memoryOk → s.flight = some f →
        flightEnded { u with noticePending := s.noticePending ||| NoticeClass.drive.bit } t f .jammed .testJammed)) ∧
  (∀ (after current : Nat) (s : State), ∃ t, exec (.motorCurrentChange after current) s = .next t ∧
    let now := s.now + after
    (s.rev = none ∨ s.working = false → t = { s with now := now }) ∧
    ∀ r, s.rev = some r → s.working = true →
      (current ≤ 300 → t = { s with
        now := now,
        rev := some { r with current := current, jamSince := jamTimer { r with current := current } now } }) ∧
      ∀ f, 300 < current → s.memoryOk → s.flight = some f →
        ∃ u, t = saveScheduled u ∧
          flightEnded { s with now := now, driveFaulted := true, noticePending := s.noticePending ||| NoticeClass.drive.bit }
            u f .jammed .testJammed)

/-- R85, R63: 20 ms after its edge a cam takes the opposite level, leaves AWAIT_OPEN at its open edge and reaches HOME at its
close edge; when every cam has opened the vend or test moves from LEAVING_HOME to TURNING.
The model's choice: the clock (notes/assumptions/3.md). -/
def Obligations.AConsumedEdgeMovesItsCam : Prop :=
  ∀ (column : Fin 10) (s : State) (r : Revolution) (before after : List Cam) (c : Cam) (e : Nat), s.working = true →
    s.rev = some r → r.cams = before ++ c :: after → (∀ x ∈ before ++ after, columnOf x.spiral ≠ column) →
    columnOf c.spiral = column → c.phase ≠ .home → c.edge = some e →
    let cams := before ++ camConsumed e c :: after
    let now := max s.now (r.started + e + 20)
    let opened := cams.all fun x => x.phase != .awaitOpen
    (∃ x ∈ cams, x.phase ≠ .home) →
    exec (.camEdgeConsumed column) s = .next { s with
      now := now,
      rev := some { r with cams := cams, jamSince := jamTimer { r with cams := cams } now },
      flight := s.flight.map fun f => if opened ∧ f.stage = .leavingHome then { f with stage := .turning } else f }

/-- R86, R65, R79, R11: the close edge of the last cam completes the revolution: its time is recorded, and the vend ends by the
drop assurance, the drop seen and the drop sensor or enters DROP_WAIT for 1.5 s; a test ends HOME_OK.
The model's choice: the clock, and the order within a verdict (notes/assumptions/3.md, 23.md). DEDUCED: a JAMMED selection of
stock 0 that tests HOME_OK becomes SOLD_OUT (notes/assumptions/15.md). -/
def Obligations.ACompletedRevolutionDecidesTheVend : Prop :=
  ∀ (s : State) (f : Flight) (r : Revolution) (before after : List Cam) (c : Cam) (e : Nat), s.memoryOk → s.working = true →
    s.flight = some f → s.rev = some r → r.cams = before ++ c :: after →
    (∀ x ∈ before ++ after, x.phase = .home) → c.phase = .turningOpen → c.level = .opened → c.edge = some e →
    let f' := { f with revolutions := f.revolutions + 1 }
    let w := { s with
      now := max s.now (r.started + e + 20), rev := none, flight := some f',
      spirals := s.spirals.set f.spiral { s.spirals[f.spiral] with lastRevolution := e } }
    let unseen := f.dropSeen = none
    ∃ t, exec (.camEdgeConsumed (columnOf c.spiral)) s = .next t ∧
      (f.isTest = true → testEnded w t f' .homeOk e) ∧
      (f.isTest = false → f.assurance = .off → vendEnded w t f' .vendedUnconfirmed) ∧
      (f.isTest = false → f.assurance ≠ .off → ¬ unseen → vendEnded w t f' .vended) ∧
      (f.isTest = false → f.assurance = .required → unseen → s.drop.fault = true → vendEnded w t f' .dropSensorFault) ∧
      (f.isTest = false → f.assurance = .preferred → unseen → s.drop.fault = true → vendEnded w t f' .vendedUnconfirmed) ∧
      (f.isTest = false → f.assurance ≠ .off → unseen → s.drop.fault = false →
        t = { w with flight := some { f' with stage := .dropWait, dropTimer := some (w.now + 1500) } })

/-- R66: at the end of the drop wait another turn starts while extra turns are left, unless the zone turns it away; then the
vend ends NO_DROP.
The model's choice: the clock, the order within a verdict, and that a turn begins with a measured current of 0 and with the
cam levels that the last changes left (notes/assumptions/3.md, 23.md, 21.md, 9.md). -/
def Obligations.ADropWaitEndsInATurnOrNoDrop : Prop :=
  ∀ (s : State) (f : Flight) (m : Nat), s.memoryOk → s.working = true → s.flight = some f →
    f.stage = .dropWait → f.dropTimer = some m →
    let u := { s with now := max s.now m }
    ∃ t, exec .dropWaitExpiry s = .next t ∧
      (f.revolutions ≤ f.extraTurns → startAllowed s f → t = motorsStarted u f) ∧
      (f.revolutions ≤ f.extraTurns → ¬ startAllowed s f → vendEnded u t f (zoneOutcome s)) ∧
      (f.extraTurns < f.revolutions → vendEnded u t f .noDrop)

/-- R76, R77, R64, R66: the beam is followed live; a break of 5 ms is one drop, which goes to the vend or test whose drop
window is open and has seen none, ends a vend in DROP_WAIT as VENDED, and is a stray drop otherwise.
R76, R66: a beam blocked for more than 2 s puts the sensor in FAULT and ends a vend in DROP_WAIT by its drop assurance; a
beam clear for 1 s makes the sensor OK again; each change raises DRIVE.
The model's choice: the clock, FAULT at 2,001 ms, and FAULT and OK follow the beam after PFAIL as well, where no vend ends
(notes/assumptions/3.md, 30.md, 7.md). -/
def Obligations.TheDropSensorIsFollowedAndJudged : Prop :=
  (∀ s : State,
    (∀ after blocked, exec (.beamChange after blocked) s = .next { s with
      now := s.now + after,
      drop := if blocked = s.drop.blocked then s.drop
        else { s.drop with blocked := blocked, since := s.now + after, latch := s.drop.latch && blocked } }) ∧
    (s.working = true → s.drop.blocked = true → s.drop.fault = false → s.drop.latch = false →
      let u := { s with now := max s.now (s.drop.since + 5), drop := { s.drop with latch := true } }
      ∃ t, exec .dropRecognised s = .next t ∧
        (∀ f start, s.flight = some f → f.firstStart = some start → f.dropSeen = none →
          let f' := { f with dropSeen := some (u.now - start) }
          (f.stage ≠ .dropWait → t = { u with flight := some f' }) ∧
          (f.stage = .dropWait → s.memoryOk → vendEnded { u with flight := some f' } t f' .vended)) ∧
        ((∀ f, s.flight = some f → f.firstStart = none ∨ f.dropSeen.isSome = true) →
          t = { u with live := s.live.set 21 (s.live[21] + 1) }))) ∧
  (∀ s : State, s.ready = true →
    (s.drop.blocked = true → s.drop.fault = false →
      let u := { s with
        now := max s.now (s.drop.since + 2001), drop := { s.drop with fault := true },
        noticePending := s.noticePending ||| NoticeClass.drive.bit }
      ∃ t, exec .dropSensorFault s = .next t ∧
        (s.working = false ∨ (∀ f, s.flight = some f → f.stage ≠ .dropWait) → t = u) ∧
        ∀ f, s.working = true → s.flight = some f → f.stage = .dropWait → s.memoryOk →
          vendEnded u t f (if f.assurance = .required then .dropSensorFault else .vendedUnconfirmed)) ∧
    (s.drop.blocked = false → s.drop.fault = true →
      exec .dropSensorRecovery s = .next { s with
        now := max s.now (s.drop.since + 1000), drop := { s.drop with fault := false },
        noticePending := s.noticePending ||| NoticeClass.drive.bit }))

/-- R112, R70, R79, R72: a change of the door raises DOOR; the door that opens ends a vend in flight with DOOR_OPEN_ABORT, and
the door that closes ends a test with TEST_ABORTED.
The model's choice: the door is followed while the port is not ready and after PFAIL (notes/assumptions/7.md, 8.md). -/
def Obligations.TheDoorEndsAVendOrATest : Prop :=
  ∀ (door : DoorState) (s : State), ∃ t, exec (.doorStateChange door) s = .next t ∧
    let u := { s with door := door, noticePending := s.noticePending ||| (if s.ready then NoticeClass.door.bit else 0) }
    let ends (f : Flight) := s.working = true ∧ f.isTest = (door == .closed)
    (door = s.door → t = s) ∧
    (door ≠ s.door → (∀ f, s.flight = some f → ¬ ends f) → t = u) ∧
    ∀ f, door ≠ s.door → s.flight = some f → ends f → s.memoryOk →
      (f.isTest = false → vendEnded u t f .doorOpenAbort) ∧ (f.isTest = true → testEnded u t f .testAborted 0)

/-- R58, R67: a VENDED item of a basket, not its head, is charged to the basket and to no credit; when the head's own item has
ended and no later item waits, the head completes with its own outcome and the total charged. -/
def Obligations.ABasketItemIsChargedToTheBasket : Prop :=
  ∀ (s : State) (f : Flight) (b : Basket) (start : Nat), s.memoryOk → s.breakPending = true → s.flight = some f →
    f.isTest = false → f.coin = false → f.stage = .dropWait → f.firstStart = some start → f.dropSeen = none →
    f.basket = some b.head → f.slot ≠ b.head → s.basket = some b → s.waiting = [] →
    let more := s.vendQueue.any fun e => e.basket == some b.head
    ∃ t, exec .dropRecognised s = .next t ∧ t.flight = none ∧ t.credit = s.credit ∧ t.held = s.held ∧
      t.holder f.slot = .done ∧ t.slotHalf f.slot 6 = CardOutcome.vended.code ∧ t.slotHalf f.slot 40 = field16 f.price ∧
      recordEnded .vended s.spirals[f.spiral] t.spirals[f.spiral] ∧
      (b.headOutcome = none ∨ more = true →
        t.basket = some { b with remaining := b.remaining - f.price, charged := b.charged + f.price } ∧
        keepsBytes s t (cardByte f.slot)) ∧
      (∀ o, b.headOutcome = some o → more = false →
        t.basket = none ∧ t.holder b.head = .done ∧ t.slotHalf b.head 6 = o.code ∧
        t.slotHalf b.head 50 = field16 (b.charged + f.price) ∧
        keepsBytes s t (fun a => cardByte f.slot a ∨ cardByte b.head a))

/-! ## Coins, tubes and payouts (R96 to R141) -/

/-- R100, R101, R102, R125: a coin is credited up to 65,535 and counted; it enters the tube of its channel's route, whose gate
opens for 400 ms, when that tube has room and its sensor is clear, and falls into the cash box otherwise. R99: one
activation gives one coin, and one in progress when the restart sequence finished gives none.
R102, R165: a gate closes at the end of its 400 ms, a full sensor follows its switch, and the recovery grace ends; nothing
else changes.
R113, R50, R129, R130: a press of the lever raises DOOR, and with available credit asks for its return; the silent return
is disarmed and asks for it once.
The model's choice: the clock, the full sensors that go on after PFAIL, and the operand that says whether the input was
inactive before (notes/assumptions/3.md, 7.md, 43.md). -/
def Obligations.CoinsTubesAndReturnRequests : Prop :=
  (∀ (channel : Fin 6) (returned : Bool) (s : State), s.working = true →
    let v := s.channels[channel].value
    let spent := { s.spent with coin := s.spent.coin.set channel true }
    let new := returned = true ∨ s.spent.coin[channel] = false
    let c := min 65535 (s.credit + v)
    let enters (k : Fin 4) : Prop := s.channels[channel].route = some k ∧ v ≠ 0 ∧ s.tubes[k].count < s.tubes[k].capacity ∧
      s.tubes[k].full = false
    ∃ t, exec (.coinArrival channel returned) s = .next t ∧
      (¬ new → t = s) ∧
      (∀ k, new → enters k →
        t = { s with spent := spent, credit := c, tubes := t.tubes, exactOnly := t.exactOnly, guaranteed := t.guaranteed, live := t.live,
                     noticePending := s.noticePending ||| moneyIf (c != s.credit || t.exactOnly != s.exactOnly) } ∧
        t.tubes = s.tubes.set k { s.tubes[k] with count := s.tubes[k].count + 1, gate := some (s.now + 400) } ∧
        statusFresh t ∧
        ∀ i : Fin 26, t.live[i] = s.live[i] + if i.val = 3 + channel.val ∨ i.val = 9 + k.val then 1 else 0) ∧
      (new → (∀ k, ¬ enters k) →
        t = { s with spent := spent, credit := c, live := t.live, noticePending := s.noticePending ||| moneyIf (c != s.credit) } ∧
        ∀ i : Fin 26, t.live[i] =
          s.live[i] + if i.val = 3 + channel.val then 1 else if i.val = 13 then BitVec.ofNat 32 v else 0)) ∧
  (∀ (k : Fin 4) (s : State),
    (∀ m, s.tubes[k].gate = some m → exec (.gateTimerExpiry k) s =
      .next { s with now := max s.now m, tubes := s.tubes.set k { s.tubes[k] with gate := none } }) ∧
    (∀ full, exec (.fullSensorChange k full) s = .next { s with tubes := s.tubes.set k { s.tubes[k] with full := full } }) ∧
    (∀ m, s.working = true → s.defrost.grace = some m → exec .recoveryGraceEnd s =
      .next { s with now := max s.now m, defrost := { s.defrost with grace := none } })) ∧
  ∀ s : State,
    let asked (o : Origin) (u : State) : State :=
      if s.held < s.credit then { u with payQueue := (returnAsked s o).1, returnMark := (returnAsked s o).2 } else u
    (s.working = true → exec .coinReturnLever s =
      .next (asked .lever { s with noticePending := s.noticePending ||| NoticeClass.door.bit })) ∧
    (∀ m, s.ready = true → s.sup.silentReturn = some m → exec .silentReturnExpiry s =
      .next (asked .silentReturn { s with now := max s.now m, sup := { s.sup with silentReturn := none } }))

/-- R131, R130, R138: the head entry starts; a service TUBE_LIST with the door closed ends SERVICE_ONLY, a payout of nothing
NOTHING_TO_PAY, one of which nothing can be ejected PARTIAL; every other payout marks the tubes busy and places its claim.
The model's choice: the order within the end of a payout, a field above 65,535, and a TUBE_LIST share of an empty tube ends
at the draw (notes/assumptions/23.md, 17.md, 37.md). -/
def Obligations.APayoutStartsOrEndsAtOnce : Prop :=
  ∀ (s : State) (e : PayEntry) (rest : List PayEntry), s.memoryOk → s.working = true → s.payout = none →
    s.payQueue = e :: rest →
    let u := { s with
      payQueue := rest ++ (s.returnMark.map fun o => PayEntry.mk o .creditReturn none 0 (Vector.replicate 4 0)).toList,
      returnMark := none }
    let tubes := s.tubes.map fun x => { x with busy := true }
    let due := match e.form with
      | .creditReturn => s.credit - s.held
      | .amount => e.amount
      | .tubeList => e.coins[0] * s.tubes[0].value + e.coins[1] * s.tubes[1].value + e.coins[2] * s.tubes[2].value +
          e.coins[3] * s.tubes[3].value
    let fresh (left : CoinsLeft) : Payout := ⟨e, due, 0, left, Vector.replicate 4 0, 0, none, none⟩
    let list := e.form == .tubeList
    let none' := if list then ∀ k : Fin 4, e.coins[k] = 0 else due = 0
    let plan := planFor s.tubes due
    let ejects := if list then ∃ k : Fin 4, e.coins[k] ≠ 0 ∧ s.tubes[k].count ≠ 0 else ∃ c ∈ plan.coins, c.2 ≠ 0
    let left := if list then .byTube e.coins else .byValue plan.coins
    let notices := s.noticePending ||| moneyIf (!list && plan.reserveUsed)
    let alone := (s.without .payout).headStays
    ∃ t, exec .payoutStart s = .next t ∧
      (list → s.door = .closed → alone → payoutEnded u t (fresh (.byValue [])) .serviceOnly) ∧
      (¬ (list ∧ s.door = .closed) → none' → alone → payoutEnded u t (fresh (.byValue [])) .nothingToPay) ∧
      (¬ (list ∧ s.door = .closed) → ¬ none' → ¬ ejects → alone →
        payoutEnded { u with noticePending := notices } t (fresh left) .partialPaid) ∧
      (¬ (list ∧ s.door = .closed) → ¬ none' → ejects →
        t = judgeLoad { u with payout := some (fresh left), tubes := tubes, noticePending := notices,
                               waiting := s.waiting ++ [⟨.payout, s.loadSet.payoutSize⟩] })

/-- R133, R139, R135: a coin at the exit sensor confirms the coin in the air, which leaves its tube, its credit and its count,
and the payout ends, waits for the pulse or ejects its next coin; without a window it is a stray coin, and so is one that comes
together with the expiry of its window when the expiry is taken first. One activation gives one coin, and one in progress
when the restart sequence finished gives none.
Read from the manual by inference: together is the same millisecond, of which missedAt keeps the last (notes/assumptions/49.md).
The model's choice: the order within the end of a payout, the operand that says whether the input was inactive before, the end
of a payout without a coin to draw, the moment at which a share ends, and a pulse that runs already starts anew
(notes/assumptions/23.md, 43.md, 27.md, 37.md, 42.md). -/
def Obligations.ACoinSeenIsConfirmedOrStray : Prop :=
  ∀ (returned : Bool) (s : State), s.working = true → ∃ t, exec (.exitCoinSeen returned) s = .next t ∧
    (returned = false → s.spent.exit = true → t = s) ∧
    (returned = true ∨ s.spent.exit = false →
      let v := { s with spent := { s.spent with exit := true } }
      (s.payout.bind Payout.air = none ∨ s.missedAt = some s.now → t = { v with live := s.live.set 22 (s.live[22] + 1) }) ∧
      ∀ p a, s.payout = some p → p.air = some a → s.missedAt ≠ some s.now → s.memoryOk →
        ∃ u p', confirmed v p a u p' ∧
          let done := match p'.left with
            | .byValue coins => ∀ c ∈ coins, c.2 = 0
            | .byTube n => ∀ k : Fin 4, n[k] = 0
          (done → (u.without .payout).headStays → payoutEnded u t p' (payoutOutcome p')) ∧
          (¬ done → p.pulse.isSome = true → t = u) ∧
          (¬ done → p.pulse = none → nextCoinTaken u t p'))

/-- R132, R134: an ejector pulse runs its 100 ms whatever becomes of the payout; at the end of the pulse that ends first the
payout that waits for it ejects its next coin once the last one is confirmed. A window that expires ejects the same coin once
more, and the second time finds the tube empty, plans what remains anew and goes on; a coin that comes together with the expiry
taken first is stray (R133, by the inference of notes/assumptions/49.md).
The model's choice: the clock, the end of a payout without a coin to draw, the moment at which a share ends, and a pulse
that runs already starts anew (notes/assumptions/3.md, 27.md, 37.md, 42.md). -/
def Obligations.APulseAndAWindowEnd : Prop :=
  ∀ s : State, s.memoryOk → s.working = true →
    (∀ (tube : Fin 4) (m : Nat), s.ejectors[tube] = some m →
      (∀ (k : Fin 4) (n : Nat), s.ejectors[k] = some n → m < n ∨ (m = n ∧ tube ≤ k)) →
      let u := { s with now := max s.now m, ejectors := s.ejectors.set tube none }
      ∃ t, exec .ejectorPulseEnd s = .next t ∧
        ((∀ p, s.payout = some p → p.pulse ≠ some tube) → t = u) ∧
        ∀ p, s.payout = some p → p.pulse = some tube →
          let v := { u with payout := some { p with pulse := none } }
          (p.air.isSome = true → t = v) ∧ (p.air = none → nextCoinTaken v t { p with pulse := none })) ∧
    ∀ p a, s.payout = some p → p.air = some a →
      let w := { s with now := max s.now a.window, missedAt := some (max s.now a.window) }
      ∃ t, exec .confirmWindowExpiry s = .next t ∧
        exec .exitCoinSeen t =
          .next { t with spent := { t.spent with exit := true }, live := t.live.set 22 (t.live[22] + 1) } ∧
        (a.retried = false → mayEject s p a.value → t = ejecting w p a.tube a.value true) ∧
        (a.retried = false → ¬ mayEject s p a.value → (s.without .payout).headStays →
          payoutEnded w t p (payoutOutcome p)) ∧
        (a.retried = true → ∃ u p',
          u.tubes = s.tubes.set a.tube { s.tubes[a.tube] with count := 0 } ∧ statusFresh u ∧
          u = { w with tubes := u.tubes, exactOnly := u.exactOnly, guaranteed := u.guaranteed,
                       live := s.live.set 23 (s.live[23] + 1), payout := some p',
                       noticePending := s.noticePending ||| NoticeClass.money.bit } ∧
          p' = { p with
            emptyEvents := min 255 (p.emptyEvents + 1), air := none,
            left := match p.left with
              | .byTube n => .byTube (n.set a.tube 0)
              | .byValue _ => .byValue (planFor u.tubes (p.due - p.paid)).coins } ∧
          nextCoinTaken u t p')

/-! ## The load budget (R142 to R151) -/

/-- R145, R150: a judgement grants from the head while it fits: afterwards the head does not fit, the units granted are within
the budget or no more than before, and the claims that still wait keep their order; from PFAIL on nothing is granted.
R145, R157, R163, R63, R132: a head that fits joins the grants, its claimant acts in that step, and the judgement goes on:
the compressor is STARTING, the heater HEATING, the motors start, or the first coin is ejected.
The model's choice: the measured current of 0 and the cam levels of a motor start, the end of a payout without a coin to draw,
the moment at which a share ends, and a pulse that runs already starts anew (notes/assumptions/21.md, 9.md, 27.md, 37.md,
42.md). -/
def Obligations.AJudgementGrantsFromTheHead : Prop :=
  ∀ s : State,
    (s.pfail = .clear → (judgeLoad s).headStays) ∧ (s.headStays ∨ s.pfail ≠ .clear → judgeLoad s = s) ∧
    (judgeLoad s).loadSet = s.loadSet ∧ (judgeLoad s).granted ≤ max s.granted s.loadSet.budget ∧
    (judgeLoad s).waiting.Sublist s.waiting ∧
    ∀ w rest, s.waiting = w :: rest → s.pfail = .clear → s.granted + w.size ≤ s.loadSet.budget →
      let g := { s with waiting := rest, grants := s.grants ++ [w] }
      (judgeLoad s).waiting.Sublist rest ∧
      (w.claimant = .compressor → judgeLoad s = judgeLoad { g with
        comp := { s.comp with state := .starting, minOn := some (s.now + 1000 * s.coolSet.minOn),
                              window := some (s.now + 1000 * s.coolSet.startWindow) },
        runSecond := some (s.now + 1000) }) ∧
      (w.claimant = .heater → judgeLoad s = judgeLoad { g with defrost := { s.defrost with state := .heating } }) ∧
      (∀ f, w.claimant = .drive → s.flight = some f → startAllowed s f → judgeLoad s = judgeLoad (motorsStarted g f)) ∧
      ∀ p, w.claimant = .payout → s.payout = some p → s.memoryOk →
        (∀ k left, drawn s.tubes p.left left k → mayEject s p s.tubes[k].value →
          judgeLoad s = judgeLoad (ejecting g { p with left := left } k s.tubes[k].value false)) ∧
        ((∀ k left, drawn s.tubes p.left left k → ¬ mayEject s p s.tubes[k].value) → (g.without .payout).headStays →
          s.ready = true → payoutEnded g (judgeLoad s) p (payoutOutcome p))

/-! ## Refrigeration and the chilled zone (R152 to R177) -/

/-- R152, R153, R154, R171, R172, R173, R174, R168: a sample takes each channel through its table, and the zone state and E
through theirs, by the warm and paused conditions after the sample; a zone that locks begins a save in that step; and the
thermostat judges by the SP and D in force at the sample.
The model's choice: the clock, the order within a sample, and that what the last sample took of SP and D stands in the state
(notes/assumptions/3.md, 19.md, 44.md). -/
def Obligations.ASampleJudgesChannelsAndZone : Prop :=
  ∀ (a b e : BitVec 12) (s : State) (m : Nat), s.working = true → s.nextSample = some m →
    ∃ t, exec (.sample a b e) s = .next t ∧ t.now = max s.now m ∧ t.nextSample = some (m + 1000) ∧
      channelSampled s.coolSet.filterK s.coolSet.trimA a s.cabA t.cabA ∧
      channelSampled s.coolSet.filterK s.coolSet.trimB b s.cabB t.cabB ∧
      channelSampled s.coolSet.filterK s.coolSet.trimEvap e s.evap t.evap ∧
      t.thermostat = ⟨s.coolSet.setpoint, s.coolSet.differential⟩ ∧
      (t.zone, t.exposure) = zoneSampled s.zone s.exposure s.coolSet.allowedExposure t.warm t.paused ∧
      (t.zone ≠ s.zone → t.noticePending &&& NoticeClass.zone.bit ≠ 0) ∧
      (t.zone = .locked → s.zone ≠ .locked →
        t.store.state = .saving ∧ t.store.capture = some t.image ∧ t.store.ends = some (t.now + 200)) ∧
      ((t.cabA.state ≠ s.cabA.state ∨ t.cabB.state ≠ s.cabB.state ∨ t.evap.state ≠ s.evap.state) →
        t.noticePending &&& NoticeClass.cooling.bit ≠ 0) ∧
      t.coolSet = s.coolSet ∧ t.channels = s.channels ∧ t.sup = s.sup ∧ t.door = s.door ∧ t.moneySet = s.moneySet

/-- R156: at a sample at which both cabinet channels are VALID, a spread above the limit raises the above count and clears the
within count, and one within it the reverse; at 600 the airflow flag is set or cleared; without both both counts are cleared
and the flag stays. Each change of the flag raises COOLING.
R159: fallback cycling is active after a sample exactly while there is no control temperature and neither cabinet channel is
UNSEEDED; it begins with the phase ON if the compressor is in CLAIMING, STARTING or RUNNING, and 15 minutes; each start and
end raises COOLING, and the thermostat does not judge the samples at which it begins, is active or ends.
The model's choice: the order within a sample (notes/assumptions/19.md). -/
def Obligations.ASampleJudgesAirflowAndFallback : Prop :=
  ∀ (a b e : BitVec 12) (s : State) (m : Nat), s.working = true → s.nextSample = some m →
    ∃ t, exec (.sample a b e) s = .next t ∧
      let cooling := t.noticePending &&& NoticeClass.cooling.bit ≠ 0
      let called := t.cabA.state ≠ .valid ∧ t.cabB.state ≠ .valid ∧ t.cabA.state ≠ .unseeded ∧ t.cabB.state ≠ .unseeded
      let wanted := [CompressorState.claiming, .starting, .running].contains s.comp.state
      (∀ x y, t.cabA.reading = some x → t.cabB.reading = some y → (s.coolSet.spreadLimit : Int) < |x - y| →
        t.aboveCount = min 600 (s.aboveCount + 1) ∧ t.withinCount = 0 ∧
        t.airflow = (t.aboveCount == 600 || s.airflow)) ∧
      (∀ x y, t.cabA.reading = some x → t.cabB.reading = some y → |x - y| ≤ s.coolSet.spreadLimit →
        t.withinCount = min 600 (s.withinCount + 1) ∧ t.aboveCount = 0 ∧
        t.airflow = (t.withinCount != 600 && s.airflow)) ∧
      (t.cabA.state ≠ .valid ∨ t.cabB.state ≠ .valid → t.aboveCount = 0 ∧ t.withinCount = 0 ∧ t.airflow = s.airflow) ∧
      (t.airflow ≠ s.airflow → cooling) ∧
      (called → t.fallback = some (s.fallback.getD ⟨wanted, t.now + 900000⟩)) ∧ (¬ called → t.fallback = none) ∧
      (s.fallback.isSome ≠ t.fallback.isSome → cooling) ∧
      (s.fallback.isSome = true ∨ t.fallback.isSome = true → s.defrost.endable = false →
        t.comp = s.comp ∧ t.waiting = s.waiting ∧ t.grants = s.grants ∧ t.defrost = s.defrost)

/-- R157, R162: at a sample outside fallback and defrost the thermostat claims the start at or above SP + D, withdraws a claim
below it, also without a control temperature, and stops a RUNNING compressor whose minimum on timer has expired at or below
SP; a DUE defrost then starts, and otherwise the compressor rests, every whole second of its run counted (R161).
The model's choice: the order within a sample, and the seconds that are whole (notes/assumptions/19.md, 20.md). -/
def Obligations.TheThermostatJudgesASample : Prop :=
  ∀ (a b e : BitVec 12) (s : State) (m size : Nat), s.working = true → s.nextSample = some m →
    s.waiting = (if s.comp.state = .claiming then [⟨.compressor, size⟩] else []) → s.fallback = none →
    s.defrost.state = .notDue ∨ s.defrost.state = .due →
    ∃ t, exec (.sample a b e) s = .next t ∧
      (s.comp.state = .offIdle → t.coldNeeded →
        if s.granted + s.loadSet.startSize ≤ s.loadSet.budget then
          t.comp = ⟨.starting, s.comp.minOff, some (t.now + 1000 * s.coolSet.minOn),
            some (t.now + 1000 * s.coolSet.startWindow)⟩ ∧
          t.grants = s.grants ++ [⟨.compressor, s.loadSet.startSize⟩] ∧ t.waiting = []
        else t.comp = { s.comp with state := .claiming } ∧ t.waiting = [⟨.compressor, s.loadSet.startSize⟩]) ∧
      (s.comp.state = .offIdle → ¬ t.coldNeeded → t.comp = s.comp ∧ t.waiting = []) ∧
      (s.comp.state = .claiming → t.coldNeeded → t.comp = s.comp ∧ t.waiting = s.waiting) ∧
      (s.comp.state = .claiming → ¬ t.coldNeeded → t.fallback = none →
        t.comp = { s.comp with state := .offIdle } ∧ t.waiting = []) ∧
      (s.comp.state = .running → s.comp.minOn = none → t.coldReached →
        (runCounted { s with now := t.now }).defrost.state = .notDue →
        t.runTime = (runCounted { s with now := t.now }).runTime ∧ t.runSecond = none ∧
        t.comp = ⟨.offResting, some (t.now + 1000 * s.coolSet.minOff), none, none⟩ ∧ t.hasGrant .compressor = false ∧
        t.defrost = s.defrost) ∧
      (s.comp.state = .running → s.comp.minOn = none → t.coldReached →
        (runCounted { s with now := t.now }).defrost.state = .due →
        (∀ f, t.evap.reading = some f → f < s.coolSet.termination) →
        t.comp = ⟨.offResting, none, none, none⟩ ∧ t.hasGrant .compressor = false ∧ t.runTime = 0 ∧
        t.defrost.startedAt = t.now ∧ t.defrost.timer = some (t.now + 60000 * s.coolSet.maxDuration) ∧
        t.defrost.state = match s.coolSet.defrostType with
          | .offCycle => .offCycle
          | .heater =>
            if (s.without .compressor).granted + s.loadSet.heaterSize ≤ s.loadSet.budget then .heating else .claimingHeat) ∧
      (s.comp.state = .running → s.comp.minOn.isSome = true ∨ ¬ t.coldReached → t.comp = s.comp) ∧
      (s.comp.state = .offResting ∨ s.comp.state = .starting → t.comp = s.comp)

/-- R157, R158, R146, R159, R161, R162: what the compressor's timers do at their ends: the cut-in, the end of the start window
with its shrink, the cut-out of the thermostat and of fallback, at which the run is counted and a DUE defrost starts, the
forced stop that has waited for the minimum on time, and the second of running.
The model's choice: the clock, the seconds that are whole, a DUE defrost's start, and that the thermostat judges an expiry between the end
of fallback and the next sample (notes/assumptions/3.md, 20.md, 33.md, 39.md). -/
def Obligations.TheCompressorTimersEnd : Prop :=
  ∀ (s : State) (m : Nat), s.working = true →
    let at_ := { s with now := max s.now m }
    let phase (on : Bool) := { at_ with fallback := some ⟨on, max s.now m + 900000⟩ }
    let stopped (u : State) := judgeLoad (u.rested.without .compressor)
    let alone := (s.without .compressor).headStays
    (s.comp.minOff = some m →
      let u := { at_ with comp := { s.comp with state := .offIdle, minOff := none } }
      let cutIn := (∃ f, s.fallback = some f ∧ f.on = true) ∨ (s.fallback = none ∧ s.coldNeeded)
      ∃ t, exec .minOffExpiry s = .next t ∧ (cutIn → t = startClaimed u) ∧ (¬ cutIn → t = u)) ∧
    (s.comp.window = some m → s.comp.state = .starting → exec .startWindowExpiry s = .next (judgeLoad { at_ with
      comp := { s.comp with state := .running, window := none },
      grants := s.grants.map fun g =>
        { g with size := if g.claimant = .compressor then min g.size s.loadSet.runSize else g.size } })) ∧
    (s.comp.minOn = some m →
      let u := { at_ with comp := { s.comp with minOn := none } }
      let out := s.comp.state = .running ∧
        ((∃ f, s.fallback = some f ∧ f.on = false) ∨ (s.fallback = none ∧ s.coldReached))
      let forced := s.comp.state = .running ∧ s.defrost.state = .due ∧ s.defrost.forced = true
      ∃ t, exec .minOnExpiry s = .next t ∧ (out → (runCounted u).defrost.state ≠ .due → t = stopped (runCounted u)) ∧
        (forced ∨ (out ∧ (runCounted u).defrost.state = .due) → alone → t = defrostBegun u) ∧ (¬ out → ¬ forced → t = u)) ∧
    (∀ on, s.fallback = some ⟨on, m⟩ → ∃ t, exec .fallbackPhaseExpiry s = .next t ∧
      let u := phase (!on)
      let out := on = true ∧ s.comp.state = .running ∧ s.comp.minOn = none
      (on = false → s.comp.state = .offIdle → t = startClaimed u) ∧
      (on = true → s.comp.state = .claiming →
        t = judgeLoad (State.without { u with comp := { s.comp with state := .offIdle } } .compressor)) ∧
      (out → (runCounted u).defrost.state ≠ .due → t = stopped (runCounted u)) ∧
      (out → (runCounted u).defrost.state = .due → alone → t = defrostBegun u) ∧
      ((on = false ∧ s.comp.state ≠ .offIdle) ∨ (on = true ∧ s.comp.state ≠ .claiming ∧
        (s.comp.state = .running → s.comp.minOn.isSome = true)) → t = u)) ∧
    (s.runSecond = some m →
      let u := { at_ with runTime := min 4294967295 (s.runTime + 1), runSecond := some (m + 1000) }
      ∃ t, exec .runTimeAccumulatorSecond s = .next t ∧ (alone → dueJudged u t))

/-- R161, R162, R169: a defrost that falls due starts at once unless the compressor runs, and then waits for it at most 60
minutes and the minimum on time; DEFROST_NOW makes one due, or ends ALREADY_DEFROSTING.
The model's choice: the clock, and DEFROST_DUE judges again what a change of the accumulator has judged and starts a DUE
defrost that the compressor does not hold back (notes/assumptions/3.md, 33.md). DEDUCED: the zero result of
ALREADY_DEFROSTING (notes/assumptions/12.md). -/
def Obligations.ADefrostFallsDueAndStarts : Prop :=
  ∀ s : State, s.working = true →
    let alone := (s.without .compressor).headStays
    let waits := s.defrost.state = .due ∧ ¬ s.compressorRuns
    (∃ t, exec .defrostDue s = .next t ∧ (s.defrost.state = .notDue → s.dueByTime → defrostCalled s t) ∧
      (waits → alone → t = defrostBegun s) ∧ (¬ waits → (s.defrost.state = .notDue → ¬ s.dueByTime) → t = s)) ∧
    (∀ m, s.defrost.state = .due → s.defrost.forcedAt = some m → ∃ t, exec .defrostForcedStop s = .next t ∧
      let u := { s with now := max s.now m }
      (s.comp.minOn = none → alone → t = defrostBegun u) ∧
      (s.comp.minOn.isSome = true → t = { u with defrost := { s.defrost with forcedAt := none, forced := true } })) ∧
    ∀ slot, s.validHead .defrostNow slot → ∃ t, exec .defrostNow s = .next t ∧
      let u := { s with intake := s.intake.tail, mem := (takeSlot slot s).mem, defrost := { s.defrost with card := some slot } }
      if s.defrost.inProgress = true ∨ s.defrost.card.isSome = true then answered s t slot .alreadyDefrosting [] s
      else u.takenIn slot ∧ keepsBytes s u (cardByte slot) ∧ (s.defrost.state = .notDue → defrostCalled u t) ∧
        (waits → alone → t = defrostBegun u) ∧ (s.defrost.state = .due → s.compressorRuns → t = u)

/-- R164, R165, R169: the defrost timer ends a defrost TIMED_OUT with the DEFROST_TIMEOUT flag and COOLING, its heater claim or
grant given up, and DRAINING lasts the drip time; its end rests the compressor and completes a held DEFROST_NOW. A sample
with an evaporator reading at or above the termination temperature ends it COMPLETE and clears the flag.
The model's choice: the clock, and the broken last second (notes/assumptions/3.md, 18.md). -/
def Obligations.ADefrostEndsAndDrains : Prop :=
  ∀ (s : State) (m : Nat), s.memoryOk → s.working = true →
    (s.defrost.timer = some m → s.defrost.endable = true → (s.without .heater).headStays →
      let now := max s.now m
      ∃ t u seconds, exec .defrostTimerExpiry s = .next t ∧
        u = { s.without .heater with
          now := now, noticePending := s.noticePending ||| NoticeClass.cooling.bit,
          defrost := { s.defrost with
            state := .draining, timer := none, timeoutFlag := true, drip := some (now + 60000 * s.coolSet.dripTime),
            result := some ⟨.timedOut, seconds, s.evap.reading⟩ } } ∧
        1000 * seconds ≤ now - s.defrost.startedAt + 999 ∧ now - s.defrost.startedAt < 1000 * (seconds + 1) ∧
        if s.coolSet.dripTime = 0 then drained u t else t = u) ∧
    (∀ a b e, s.nextSample = some m → s.defrost.endable = true → s.comp.state = .offResting →
      (s.without .heater).headStays → ∃ t, exec (.sample a b e) s = .next t ∧
        ((∀ f, t.evap.reading = some f → f < s.coolSet.termination) → t.defrost = s.defrost ∧ t.comp = s.comp) ∧
        ∀ f, t.evap.reading = some f → s.coolSet.termination ≤ f → ∃ seconds,
          1000 * seconds ≤ t.now - s.defrost.startedAt + 999 ∧ t.now - s.defrost.startedAt < 1000 * (seconds + 1) ∧
          t.waiting = (s.without .heater).waiting ∧ t.grants = (s.without .heater).grants ∧
          t.defrost.timeoutFlag = false ∧ t.defrost.timer = none ∧
          t.defrost.result = some ⟨.complete, seconds, some f⟩ ∧
          (s.coolSet.dripTime ≠ 0 → t.defrost.state = .draining ∧
            t.defrost.drip = some (t.now + 60000 * s.coolSet.dripTime) ∧ t.comp = s.comp ∧ t.mem = s.mem) ∧
          (s.coolSet.dripTime = 0 → t.defrost.state = .notDue ∧
            t.comp = ⟨.offResting, some (t.now + 1000 * s.coolSet.minOff), none, none⟩ ∧
            ∀ slot, s.defrost.card = some slot → t.holder slot = .done ∧
              t.slotHalf slot 6 = CardOutcome.complete.code ∧ t.slotHalf slot 40 = field16 seconds ∧
              t.slotHalf slot 42 = tempField (some f))) ∧
    (s.defrost.drip = some m → s.defrost.state = .draining →
      ∃ t, exec .drainingEnd s = .next t ∧ drained { s with now := max s.now m } t)

/-! ## The persistent store and restarts (R178 to R184) -/

/-- R180, R72, R93, R94, R102, R103, R104, R141, R160, R166: PFAIL switches every output of the machine off and stops the timers
that drive them, counts a vend in flight as interrupted and the whole seconds of a run (R161), and begins the save of the
records as they then stand, all in one step.
The model's choice: a PFAIL after its release begins the save again, one during a restart sequence is taken as well, the save
leaves no valid image until it completes, the vend in flight keeps its stage, and its record is saved as it stands
(notes/assumptions/26.md, 8.md, 28.md, 46.md, 47.md); a stopped recovery grace is still shown (log entry 51), and a
last second that is not whole is dropped (log entry 20). -/
def Obligations.PfailStopsTheOutputsAndSaves : Prop :=
  ∀ s : State,
    (s.pfail = .clear → exec .pfailAssert s = .next (saveBegun { runCounted s with
      pfail := .asserted, rev := none, offCheck := s.offCheck.map fun c => { c with ends := none },
      tubes := s.tubes.map fun x => { x with gate := none }, ejectors := Vector.replicate 4 none,
      payout := s.payout.map fun p => { p with air := none, pulse := none },
      live := if s.flight.any (fun f => !f.isTest) then s.live.set 24 (s.live[24] + 1) else s.live,
      store := { s.store with mark := false } })) ∧
    (s.pfail = .released → exec .pfailAssert s = .next (saveBegun { s with pfail := .asserted })) ∧
    (∀ pins, s.pfail = .asserted → s.store.state = .saving → exec (.pfailRelease pins) s = .next { s with pfail := .released }) ∧
    ∀ t, s.pfail = .clear → exec .pfailAssert s = .next t →
      t.globalInhibit = true ∧ (∀ c, t.channelInhibit c = true) ∧ (∀ k, t.gateOn k = false ∧ t.ejectorOn k = false) ∧
      (∀ r, t.rowOn r = false) ∧ (∀ c, t.columnOn c = false) ∧ t.compressorRelay = false ∧ t.heaterRelay = false ∧
      t.fanOn = false ∧ t.store.image = none

/-- R181, R180: every kind of restart takes the stored image, or the factory values when there is none that is valid, and
leaves each block at its restart values with the port not ready.
R181, R43, R45, R76, R99, R139, R152, R170: the end of the restart sequence makes the port ready with RESTART alone pending and
the mask default loaded, starts the minimum off timer in full and the samples, and takes the coin and exit inputs as they
stand.
The model's choice: the queue and the clock stay, the stored image is a record, the inputs at the end of the sequence are an
operand, SP and D are at once those of the restored group, and the filter of a fresh channel holds 0
(notes/assumptions/34.md, 28.md, 43.md, 44.md, 4.md); PFAIL is clear until it is asserted anew (log entry 52). -/
def Obligations.EveryRestartRestoresTheImageAndEnds : Prop :=
  (∀ (pins : Pins) (s : State), ∃ t u v w, exec (.powerOn pins) s = .next t ∧ exec (.resetAssert pins) s = .next u ∧
    exec (.pfailRelease pins) s = .next v ∧ exec (.saveComplete pins) s = .next w ∧
    restarted .powerOn pins s t ∧ restarted .resetPin pins s u ∧
    (s.pfail = .asserted → s.store.state ≠ .saving → restarted .supplyDip pins s v) ∧
    ∀ i, s.pfail = .released → s.store.capture = some i →
      restarted .supplyDip pins { s with store := { s.store with stored := ⟨i, imageCrc i, false⟩ } } w) ∧
  (∀ (active : PulseInputs) (s : State), s.ready = false → exec (.restartSequenceEnd active) s = .next { s with
    ready := true, noticePending := 1, noticeMask := s.portSet.maskDefault, nextSample := some (s.now + 1000),
    comp := { s.comp with minOff := some (s.now + 1000 * s.coolSet.minOff) }, drop := { s.drop with since := s.now },
    spent := active })

/-! ## The change solver (R115 to R126) -/

/-- R117: the solver's exact solution of an amount is the solution that is greatest in lexicographic order, the largest coin
first; it has one whenever there is a solution, the amount 0 always has the tuple of zeros, and without a denomination only
the amount 0 has one. -/
def Obligations.TheExactSolutionIsTheGreatest : Prop :=
  ∀ (ds : List (Nat × Nat)) (amount : Nat), (∀ d ∈ ds, 0 < d.1) →
    (match exactSolution ds amount with
    | some ks => solves ds amount ks ∧ ∀ ms, solves ds amount ms → lexLe ms ks
    | none => ∀ ms, ¬ solves ds amount ms) ∧
    exactSolution ds 0 = some (ds.map fun _ => 0) ∧ (exactSolution [] amount).isSome = decide (amount = 0)

/-- R115, R116, R118, R119, R121, R122: an amount is payable when pass 2 solves it; a plan pays the largest amount up to it that
pass 2 solves, the whole of it when payable, with the greatest solution of the pass that solves it, and is marked when it
takes a coin of the reserve. -/
def Obligations.APlanPaysTheMostThatTheTubesAllow : Prop :=
  ∀ (tubes : Vector Tube 4) (amount : Nat) (ds : List Nat), isDenominations tubes ds →
    let plan := planFor tubes amount
    let coins := plan.coins.map Prod.snd
    plan.coins.map Prod.fst = ds ∧ plan.total ≤ amount ∧ (∀ b ≤ amount, solvedFull tubes ds b → b ≤ plan.total) ∧
    (solvedKept tubes ds amount → solves (ds.map fun v => (v, kept tubes v)) amount coins ∧
      ∀ ms, solves (ds.map fun v => (v, kept tubes v)) amount ms → lexLe ms coins) ∧
    (¬ solvedKept tubes ds amount → solves (ds.map fun v => (v, full tubes v)) plan.total coins ∧
      ∀ ms, solves (ds.map fun v => (v, full tubes v)) plan.total ms → lexLe ms coins) ∧
    (payable tubes amount = true ↔ solvedFull tubes ds amount) ∧ (payable tubes amount = true → plan.total = amount) ∧
    (plan.reserveUsed = true ↔ ∃ c ∈ plan.coins, kept tubes c.1 < c.2)

/-- R123, R124: the exact-change flag is set when an examined multiple of the smallest denomination has no solution that
keeps the reserve, and the guaranteed amount is the unbroken run of those that have one; the status page shows both. -/
def Obligations.TheExactChangeStatusFollowsItsRules : Prop :=
  ∀ (s : State) (ds : List Nat), isDenominations s.tubes ds →
    let t := recomputeChange s
    let limit := s.moneySet.guaranteeLimit
    (ds = [] → (t.exactOnly = true ↔ 0 < limit) ∧ t.guaranteed = 0) ∧
    (∀ g, ds.getLast? = some g →
      (t.exactOnly = true ↔ ∃ n, 1 ≤ n ∧ n * g ≤ limit ∧ ¬ solvedKept s.tubes ds (n * g)) ∧
      (∃ n, t.guaranteed = n * g ∧ n * g ≤ limit ∧ (∀ i, 1 ≤ i → i ≤ n → solvedKept s.tubes ds (i * g)) ∧
        ((n + 1) * g ≤ limit → ¬ solvedKept s.tubes ds ((n + 1) * g))) ∧
      (t.exactOnly = false → t.guaranteed = g * (limit / g))) ∧
    (s.ready = true → t.readByte 0x005C = (if t.exactOnly then 1 else 0) ∧
      t.readByte 0x005E = BitVec.ofNat 8 t.guaranteed ∧ t.readByte 0x005F = BitVec.ofNat 8 (t.guaranteed / 256))

/-! ## What the host reads, and the outputs (R1, R39, R40, 2.7) -/

/-- R1, R97, R98, R182, 2.7.4, 2.7.5, 2.7.7: the spiral table, the money table and the audit block with its snapshot show every
record and counter at its place as it stands, least significant byte first, and 0x00 elsewhere. -/
def Obligations.TheTablesShowTheRecords : Prop :=
  ∀ s : State, s.ready = true →
    (∀ i : Fin 80,
      let base := 0x2400 + 32 * i.val
      let r := s.spirals[i]
      let fields : List (Nat × Nat × Nat) :=
        [(base, 1, i.val + 1),
         (base + 1, 1, match r.role with
            | .single => 0
            | .lead => 1
            | .follower => 2),
         (base + 2, 1, match r.zone with
            | .ambient => 0
            | .chilled => 1),
         (base + 3, 1, match r.state with
            | .ready => 0
            | .soldOut => 1
            | .jammed => 2
            | .disabled => 3),
         (base + 4, 2, r.price), (base + 6, 1, r.stock), (base + 7, 1, r.jamClass.val + 1), (base + 8, 2, r.sales),
         (base + 10, 2, r.lastRevolution), (base + 12, 2, r.lastOutcome.code), (base + 14, 1, r.inFlight.toNat)]
      s.shows fields ∧ s.blankBut base (base + 32) fields) ∧
    (∀ c : Fin 6,
      let base := 0x2E00 + 16 * c.val
      let r := s.channels[c]
      let fields : List (Nat × Nat × Nat) :=
        [(base, 1, c.val + 1), (base + 1, 1, r.enable.toNat), (base + 2, 2, r.value),
         (base + 4, 1, match r.route with
            | none => 0
            | some t => t.val + 1),
         (base + 5, 1, (s.channelInhibit c).toNat)]
      s.shows fields ∧ s.blankBut base (base + 16) fields) ∧
    (∀ t : Fin 4,
      let base := 0x2E60 + 16 * t.val
      let r := s.tubes[t]
      let fields : List (Nat × Nat × Nat) :=
        [(base, 1, t.val + 1), (base + 1, 1, r.count), (base + 2, 2, r.value), (base + 4, 1, r.capacity),
         (base + 5, 1, r.reserve), (base + 6, 1, r.full.toNat), (base + 7, 1, r.gate.isSome.toNat), (base + 8, 1, r.busy.toNat)]
      s.shows fields ∧ s.blankBut base (base + 16) fields) ∧
    (let counters (base : Nat) (n : Counters) : List (Nat × Nat × Nat) :=
        (List.finRange 26).map fun i => (base + 4 * i.val, 4, n[i].toNat);
      s.shows (counters 0x2F00 s.live ++ counters 0x2F80 s.snap) ∧
      s.blankBut 0x2F00 0x3000 (counters 0x2F00 s.live ++ counters 0x2F80 s.snap)) ∧
    s.blankBut 0x2EA0 0x2F00 [] ∧ s.blankBut 0x3000 0x10000 []

/-- R20, R39, R40, 2.7.6, 2.7.7: the identity block, the status page and the settings mirror show every field at its address as
it stands, with the codes of the tables, least significant byte first, and 0x00 elsewhere.
The model's choice: a remaining payout amount above 65,535 is a free value (notes/assumptions/17.md). -/
def Obligations.ThePagesShowTheState : Prop :=
  ∀ s : State, s.ready = true →
    let temp (t : Option Int) : Nat := ((t.getD (-32768)) % 65536).toNat
    let channel (c : TempChannel) : Nat := match c.state with
      | .unseeded => 0
      | .valid => 1
      | .fault => 2
      | .disabled => 3
    let origin (o : Origin) : Nat := match o with
      | .lever => 1
      | .card => 2
      | .postVend => 3
      | .silentReturn => 4
      | .service => 5
    let form (f : PayForm) : Nat := match f with
      | .creditReturn => 1
      | .amount => 2
      | .tubeList => 3
    let carried (e : PayEntry) : Nat := (e.card.map AttachedCard.slot).getD 255
    let claimant (c : Claimant) : Nat := match c with
      | .compressor => 1
      | .heater => 2
      | .drive => 3
      | .payout => 4
    let identity : List (Nat × Nat × Nat) :=
      [(0x00, 2, 0x0C7B), (0x02, 2, 0x4820), (0x04, 1, Config.siliconRevision.toNat), (0x05, 1, 1), (0x06, 1, 80),
       (0x07, 1, 128), (0x08, 1, 16), (0x09, 1, 4)]
    let status : List (Nat × Nat × Nat) :=
      [(0x50, 1, match s.reason with
          | .powerOn => 1
          | .resetPin => 2
          | .supplyDip => 3),
       (0x51, 1, s.storeLost.toNat), (0x52, 1, s.sup.alive.toNat), (0x53, 1, if s.door = .opened then 1 else 0),
       (0x54, 1, s.driveFaulted.toNat), (0x55, 1, s.drop.fault.toNat),
       (0x56, 1, match s.store.state with
          | .ok => 0
          | .saving => 1
          | .lost => 2),
       (0x57, 1, s.refused), (0x58, 2, s.credit), (0x5A, 2, s.held), (0x5C, 1, s.exactOnly.toNat), (0x5E, 2, s.guaranteed),
       (0x64, 1, s.payout.isSome.toNat), (0x65, 1, (s.payout.map fun p => origin p.entry.origin).getD 0),
       (0x66, 2, (s.payout.map fun p => field16 (p.due - p.paid)).getD 0),
       (0x68, 1, (s.payout.map fun p => carried p.entry).getD 255), (0x69, 1, (s.payout.map fun p => form p.entry.form).getD 0),
       (0x6A, 1, s.returnMark.isSome.toNat), (0x6B, 1, s.payQueue.length), (0x6C, 1, (s.flight.map Flight.slot).getD 255),
       (0x6D, 1, (s.flight.map fun f => f.spiral.val + 1).getD 0),
       (0x6E, 1, match s.flight.map Flight.stage with
          | none => 0
          | some .claiming => 1
          | some .leavingHome => 2
          | some .turning => 3
          | some .dropWait => 4),
       (0x6F, 1, s.vendQueue.length), (0x70, 1, s.loadSet.budget), (0x71, 1, s.granted), (0x72, 1, s.waiting.length),
       (0x78, 2, temp s.cabA.reading), (0x7A, 1, channel s.cabA), (0x7C, 2, temp s.cabB.reading), (0x7E, 1, channel s.cabB),
       (0x80, 2, temp s.evap.reading), (0x82, 1, channel s.evap), (0x84, 2, temp s.controlTemp),
       (0x86, 1, if s.cabA.state = .valid then 1 else if s.cabB.state = .valid then 2 else 0),
       (0x87, 1, match s.comp.state with
          | .offResting => 0
          | .offIdle => 1
          | .claiming => 2
          | .starting => 3
          | .running => 4),
       (0x88, 1, match s.defrost.state with
          | .notDue => 0
          | .due => 1
          | .claimingHeat => 2
          | .heating => 3
          | .offCycle => 4
          | .draining => 5),
       (0x89, 1, s.airflow.toNat), (0x8A, 1, s.defrost.timeoutFlag.toNat), (0x8B, 1, s.fanOn.toNat),
       (0x8C, 1, s.fallback.isSome.toNat), (0x8D, 1, s.defrost.grace.isSome.toNat), (0x90, 4, s.runTime),
       (0x94, 1, match s.zone with
          | .unverified => 0
          | .safe => 1
          | .exposed => 2
          | .locked => 3),
       (0x96, 2, s.exposure), (0x98, 2, temp s.safetyTemp), (0x9A, 1, s.intake.length)] ++
      ((List.finRange 4).map fun k => (0x60 + k.val, 1, s.tubes[k].count)) ++
      ((List.range 4).map fun k => (0x73 + k, 1, ((s.waiting[k]?).map fun w => claimant w.claimant).getD 0)) ++
      ((List.range 16).map fun k => (0xA0 + k, 1, ((s.vendQueue[k]?).map QueueEntry.slot).getD 255)) ++
      ((List.range 4).flatMap fun k => [(0xB0 + 3 * k, 1, ((s.payQueue[k]?).map fun e => origin e.origin).getD 0),
        (0xB1 + 3 * k, 1, ((s.payQueue[k]?).map fun e => form e.form).getD 0),
        (0xB2 + 3 * k, 1, ((s.payQueue[k]?).map carried).getD 255)])
    let m := s.moneySet
    let v := s.vendSet
    let l := s.loadSet
    let p := s.portSet
    let c := s.coolSet
    let signed (i : Int) : Nat := (i % 65536).toNat
    let mirror : List (Nat × Nat × Nat) :=
      [(0x200, 2, m.baseUnit), (0x202, 2, m.maxCredit), (0x204, 1, if m.changeMode = .hold then 1 else 0),
       (0x205, 1, if m.overpay = .accept then 1 else 0), (0x206, 2, m.guaranteeLimit),
       (0x220, 1, v.loadWait), (0x221, 1, v.revolutionLimit), (0x222, 1, v.extraTurns),
       (0x223, 1, match v.assurance with
          | .off => 0
          | .preferred => 1
          | .required => 2),
       (0x224, 2, v.jamLimit[0]), (0x226, 2, v.jamLimit[1]), (0x228, 2, v.jamLimit[2]), (0x22A, 2, v.jamLimit[3]),
       (0x240, 1, l.budget), (0x241, 1, l.startSize), (0x242, 1, l.runSize), (0x243, 1, l.heaterSize), (0x244, 1, l.singleSize),
       (0x245, 1, l.payoutSize),
       (0x260, 1, p.keepalivePeriod), (0x261, 2, p.silentDelay), (0x263, 2, p.maskDefault.toNat),
       (0x280, 2, signed c.setpoint), (0x282, 1, c.differential), (0x283, 2, c.minOff), (0x285, 2, c.minOn),
       (0x287, 1, c.startWindow), (0x288, 1, if c.fanMode = .withCompressor then 1 else 0), (0x289, 1, c.cabBEnable.toNat),
       (0x28A, 2, signed c.trimA), (0x28C, 2, signed c.trimB), (0x28E, 2, signed c.trimEvap), (0x290, 1, c.filterK),
       (0x291, 1, c.spreadLimit), (0x292, 1, c.defrostInterval), (0x293, 1, if c.defrostType = .offCycle then 1 else 0),
       (0x294, 2, signed c.termination), (0x296, 1, c.maxDuration), (0x297, 1, c.dripTime), (0x298, 1, c.recoveryGrace),
       (0x299, 2, signed c.safeLimit), (0x29B, 2, c.allowedExposure)]
    s.shows identity ∧ s.blankBut 0x0000 0x0040 identity ∧ s.shows status ∧
    (s.waiting.length ≤ 4 → s.blankBut 0x0050 0x0200 status) ∧ s.shows mirror ∧ s.blankBut 0x0200 0x0400 mirror

/-- R44, R103, R104, R102, R132, R160, R163, R166, R81, R157: ATTN, the global and the channel inhibits, the gates, the
ejectors, the row and column drivers, the two relays and the fan stand exactly while their conditions hold. -/
def Obligations.TheOutputsFollowTheirConditions : Prop :=
  ∀ s : State,
    let turns (i : Fin 80) := ∃ r ∈ s.rev, ∃ c ∈ r.cams, c.spiral = i ∧ c.phase ≠ .home
    let atWork := s.ready = true ∧ s.pfail = .clear
    (s.attn = true ↔ s.ready = true ∧ ∃ k < 9, s.noticePending.getLsbD k = true ∧ s.noticeMask.getLsbD k = true) ∧
    (s.globalInhibit = true ↔ s.door = .opened ∨ s.sup.alive = false ∨ s.moneySet.maxCredit ≤ s.credit ∨
      (∀ c : Fin 6, s.channels[c].enable = false ∨ s.channels[c].value = 0) ∨ ¬ atWork) ∧
    (∀ c : Fin 6, s.channelInhibit c = true ↔ ¬ atWork ∨ s.channels[c].enable = false ∨ s.channels[c].value = 0 ∨
      s.moneySet.maxCredit < s.credit + s.channels[c].value) ∧
    (∀ t : Fin 4, (s.gateOn t = true ↔ ∃ m, s.tubes[t].gate = some m) ∧ (s.ejectorOn t = true ↔ ∃ m, s.ejectors[t] = some m)) ∧
    (∀ r : Fin 8, s.rowOn r = true ↔ ∃ i : Fin 80, turns i ∧ i.val / 10 = r.val) ∧
    (∀ c : Fin 10, s.columnOn c = true ↔ ∃ i : Fin 80, turns i ∧ i.val % 10 = c.val) ∧
    (s.compressorRelay = true ↔ atWork ∧ s.compressorRuns) ∧ (s.heaterRelay = true ↔ atWork ∧ s.defrost.state = .heating) ∧
    (s.fanOn = true ↔ atWork ∧ (s.compressorRuns ∨ s.coolSet.fanMode = .continuous) ∧ s.defrost.state ≠ .heating ∧
      s.defrost.state ≠ .draining ∧ s.door = .closed)

/-! ## What every step keeps -/

/-- Every step keeps the canonical form of the stored bytes and a legal holder in every slot (R27). -/
def Obligations.EveryStepKeepsTheMemory : Prop :=
  ∀ s t : State, s.memoryOk → s.holdersOk → step s = .next t → t.memoryOk ∧ t.holdersOk

/-- Every step keeps the held amount within the credit and the credit within 65,535 (R105), the counts and reserves within the
capacities, and the values of channels and of the tubes on their routes equal (R97, R98).
Every step keeps READY apart from a stock of 0 (R12), and E at 0 while the zone is SAFE (R172, R173). -/
def Obligations.EveryStepKeepsTheRecords : Prop :=
  (∀ s t : State, s.moneyOk → s.coinsOk → step s = .next t → t.moneyOk ∧ t.coinsOk) ∧
  ∀ s t : State, s.spiralsOk → s.exposureOk → step s = .next t → t.spiralsOk ∧ t.exposureOk

/-- Every step keeps the compressor at rest during a defrost and the claims in their stages; so the compressor relay and the
heater relay are never closed together (R157, R162, R163, R166).
Every step keeps the motors still but under the spiral drive's grant, for a flight, with the door as the flight needs it
(R81, R94, R95). -/
def Obligations.EveryStepKeepsTheRelaysAndTheMotors : Prop :=
  (∀ s t : State, s.coolingOk → step s = .next t →
    t.coolingOk ∧ ¬ (t.compressorRelay = true ∧ t.heaterRelay = true)) ∧
  ∀ s t : State, s.driveOk → step s = .next t → t.driveOk

end
end

