-- ==== Sys2Proof/Laws/Memory.lean ====
section
/-! SUPPORT. The stored bytes: a read after a write, and the canonical form that every operation on them keeps. -/

namespace Sys2Proof.Machine

/-! ## One byte -/

theorem wfFrom_mono {low low' : Nat} (h : low ≤ low') : ∀ {m : List Host.Cell}, wfFrom low' m = true → wfFrom low m = true
  | [], _ => rfl
  | (a, b) :: rest, hm => by
    simp only [wfFrom, Bool.and_eq_true, decide_eq_true_eq] at hm ⊢
    exact ⟨⟨by omega, hm.1.2⟩, hm.2⟩

/-- An address below every listed one reads 0x00. -/
theorem readCell_below : ∀ {m : List Host.Cell} {low addr : Nat}, wfFrom low m = true → addr < low → readCell m addr = 0
  | [], _, _, _, _ => rfl
  | (a, b) :: rest, low, addr, hm, h => by
    simp only [wfFrom, Bool.and_eq_true, decide_eq_true_eq] at hm
    rw [readCell, if_neg (by omega)]
    exact readCell_below hm.2 (by omega)

theorem writeCell_wfFrom : ∀ {m : List Host.Cell} {low addr : Nat} {v : Byte}, wfFrom low m = true → low ≤ addr →
    wfFrom low (writeCell m addr v) = true
  | [], low, addr, v, _, h => by
    unfold writeCell; split <;> simp_all [wfFrom]
  | (a, b) :: rest, low, addr, v, hm, h => by
    simp only [wfFrom, Bool.and_eq_true, decide_eq_true_eq] at hm
    unfold writeCell
    split
    · split
      · simp_all [wfFrom]
      · simp_all [wfFrom]
    · split
      · split
        · exact wfFrom_mono (by omega) hm.2
        · simp_all [wfFrom]
      · simp only [wfFrom, Bool.and_eq_true, decide_eq_true_eq]
        exact ⟨hm.1, writeCell_wfFrom hm.2 (by omega)⟩

theorem readCell_writeCell_from : ∀ {m : List Host.Cell} {low addr other : Nat} {v : Byte}, wfFrom low m = true →
    readCell (writeCell m addr v) other = if other = addr then v else readCell m other
  | [], low, addr, other, v, _ => by
    unfold writeCell
    by_cases ho : other = addr
    · split <;> simp_all [readCell]
    · rw [if_neg ho]
      split
      · rfl
      · simp [readCell, Ne.symm ho]
  | (a, b) :: rest, low, addr, other, v, hm => by
    have hm' := hm
    simp only [wfFrom, Bool.and_eq_true, decide_eq_true_eq] at hm
    have ih := readCell_writeCell_from (addr := addr) (other := other) (v := v) hm.2
    by_cases ho : other = addr
    · subst ho
      rw [if_pos rfl] at ih ⊢
      unfold writeCell
      split
      · split
        · rename_i hlt hv
          rw [readCell, if_neg (by omega), readCell_below hm.2 (by omega), hv]
        · simp [readCell]
      · split
        · split
          · rename_i hv
            subst_vars
            rw [readCell_below hm.2 (by omega)]
          · simp [readCell]
        · rw [readCell, if_neg (by omega), ih]
    · rw [if_neg ho] at ih ⊢
      unfold writeCell
      split
      · split
        · rfl
        · rw [readCell, if_neg (by omega)]
      · split
        · split
          · rename_i h1 h2 hv
            rw [show readCell ((a, b) :: rest) other = readCell rest other by rw [readCell, if_neg (by omega)]]
          · rw [readCell, if_neg (by omega), readCell, if_neg (by omega)]
        · rw [readCell, ih, readCell]

/-- A read after a write: the byte written at its address, every other byte as before. -/
theorem readCell_writeCell {m : List Host.Cell} (h : Memory.wf m = true) (addr other : Nat) (v : Byte) :
    readCell (writeCell m addr v) other = if other = addr then v else readCell m other :=
  readCell_writeCell_from h

theorem writeCell_wf {m : List Host.Cell} (h : Memory.wf m = true) (addr : Nat) (v : Byte) :
    Memory.wf (writeCell m addr v) = true :=
  writeCell_wfFrom h (Nat.zero_le _)

/-! ## Several bytes -/

theorem writeCells_wf : ∀ (vs : List Byte) {m : List Host.Cell} (addr : Nat), Memory.wf m = true →
    Memory.wf (writeCells m addr vs) = true
  | [], _, _, h => h
  | v :: rest, _, addr, h => writeCells_wf rest (addr + 1) (writeCell_wf h addr v)

/-- A read after several bytes have been written from an address onward. -/
theorem readCell_writeCells : ∀ (vs : List Byte) {m : List Host.Cell} (addr other : Nat), Memory.wf m = true →
    readCell (writeCells m addr vs) other =
      if addr ≤ other ∧ other < addr + vs.length then vs.getD (other - addr) 0 else readCell m other
  | [], _, addr, other, _ => by
    rw [writeCells, if_neg (by simp)]
  | v :: rest, m, addr, other, h => by
    rw [writeCells, readCell_writeCells rest (addr + 1) other (writeCell_wf h addr v), readCell_writeCell h]
    by_cases h1 : other = addr
    · subst h1
      rw [if_neg (by omega), if_pos rfl, if_pos (by simp)]
      simp
    · by_cases h2 : addr + 1 ≤ other ∧ other < addr + 1 + rest.length
      · rw [if_pos h2, if_pos (by simp; omega)]
        obtain ⟨k, hk⟩ : ∃ k, other - addr = k + 1 := ⟨other - addr - 1, by omega⟩
        rw [hk, show other - (addr + 1) = k by omega]
        simp
      · rw [if_neg h2, if_neg h1, if_neg (by simp; omega)]

/-- Where no byte is written, nothing changes. -/
theorem readCell_writeCells_of_outside {m : List Host.Cell} (h : Memory.wf m = true) {addr other : Nat} (vs : List Byte)
    (ho : other < addr ∨ addr + vs.length ≤ other) : readCell (writeCells m addr vs) other = readCell m other := by
  rw [readCell_writeCells vs addr other h, if_neg (by omega)]

theorem storeBytes_wf : ∀ (bs : List (Nat × Byte)) {m : List Host.Cell}, Memory.wf m = true →
    Memory.wf (storeBytes bs m) = true
  | [], _, h => h
  | (a, v) :: rest, _, h => storeBytes_wf rest (writeCell_wf h a v)

/-- A read after the bytes of a transaction have been stored: the last byte for its address stands. -/
theorem readCell_storeBytes : ∀ (bs : List (Nat × Byte)) {m : List Host.Cell} (other : Nat), Memory.wf m = true →
    readCell (storeBytes bs m) other =
      ((bs.reverse.find? fun b => b.1 == other).map Prod.snd).getD (readCell m other)
  | [], _, _, _ => rfl
  | (a, v) :: rest, m, other, h => by
    rw [storeBytes, readCell_storeBytes rest other (writeCell_wf h a v), readCell_writeCell h, List.reverse_cons,
      List.find?_append]
    cases hf : rest.reverse.find? (fun b => b.1 == other) with
    | some b => simp
    | none =>
      by_cases ha : a = other
      · subst ha; simp
      · simp [ha, Ne.symm ha]

/-! ## Slots -/

theorem putSlot_wf {s : State} (h : Memory.wf s.mem = true) (slot off : Nat) (bytes : List Byte) :
    Memory.wf (s.putSlot slot off bytes).mem = true := writeCells_wf _ _ h

theorem setHolder_wf {s : State} (h : Memory.wf s.mem = true) (slot : Nat) (v : Holder) :
    Memory.wf (s.setHolder slot v).mem = true := putSlot_wf h _ _ _

/-- The stored bytes after a slot has been written. -/
theorem readCell_putSlot {s : State} (h : Memory.wf s.mem = true) (slot off : Nat) (bytes : List Byte) (a : Nat) :
    readCell (s.putSlot slot off bytes).mem a =
      if slotAddr slot off ≤ a ∧ a < slotAddr slot off + bytes.length then bytes.getD (a - slotAddr slot off) 0
      else readCell s.mem a := readCell_writeCells _ _ _ h

theorem takeSlot_wf {s : State} (h : Memory.wf s.mem = true) (slot : Nat) : Memory.wf (takeSlot slot s).mem = true :=
  putSlot_wf (putSlot_wf (setHolder_wf h _ _) _ _ _) _ _ _

/-- The memory right after reset is in canonical form. -/
theorem reset_wf : Memory.wf State.reset.mem = true := rfl

end Sys2Proof.Machine
end

