-- ==== Sys2Proof/Laws/State.lean ====
section
/-! SUPPORT. What each shared operation leaves as it was, and the values of the fields it writes. -/

namespace Sys2Proof.Machine

/-! ## The fields an operation does not write -/

@[simp] theorem raise_frame (c : NoticeClass) (s : State) :
    (raise c s).pending = s.pending ∧ (raise c s).now = s.now ∧ (raise c s).ready = s.ready ∧
    (raise c s).pfail = s.pfail ∧ (raise c s).reason = s.reason ∧ (raise c s).storeLost = s.storeLost ∧
    (raise c s).mem = s.mem ∧ (raise c s).dataOut = s.dataOut ∧ (raise c s).reading = s.reading ∧
    (raise c s).refused = s.refused ∧ (raise c s).intake = s.intake ∧ (raise c s).noticeMask = s.noticeMask ∧
    (raise c s).sup = s.sup ∧ (raise c s).door = s.door ∧ (raise c s).spirals = s.spirals ∧
    (raise c s).moneySet = s.moneySet ∧ (raise c s).vendSet = s.vendSet ∧ (raise c s).loadSet = s.loadSet ∧
    (raise c s).portSet = s.portSet ∧ (raise c s).coolSet = s.coolSet ∧ (raise c s).channels = s.channels ∧
    (raise c s).tubes = s.tubes ∧ (raise c s).credit = s.credit ∧ (raise c s).held = s.held ∧
    (raise c s).exactOnly = s.exactOnly ∧ (raise c s).guaranteed = s.guaranteed ∧
    (raise c s).vendQueue = s.vendQueue ∧ (raise c s).flight = s.flight ∧ (raise c s).basket = s.basket ∧
    (raise c s).driveFaulted = s.driveFaulted ∧ (raise c s).rev = s.rev ∧ (raise c s).camLevel = s.camLevel ∧
    (raise c s).offCheck = s.offCheck ∧ (raise c s).drop = s.drop ∧ (raise c s).payQueue = s.payQueue ∧
    (raise c s).returnMark = s.returnMark ∧ (raise c s).payout = s.payout ∧ (raise c s).ejectors = s.ejectors ∧
    (raise c s).spent = s.spent ∧ (raise c s).missedAt = s.missedAt ∧ (raise c s).waiting = s.waiting ∧
    (raise c s).grants = s.grants ∧
    (raise c s).cabA = s.cabA ∧ (raise c s).cabB = s.cabB ∧ (raise c s).evap = s.evap ∧
    (raise c s).nextSample = s.nextSample ∧ (raise c s).airflow = s.airflow ∧ (raise c s).aboveCount = s.aboveCount ∧
    (raise c s).withinCount = s.withinCount ∧ (raise c s).thermostat = s.thermostat ∧ (raise c s).comp = s.comp ∧
    (raise c s).fallback = s.fallback ∧ (raise c s).defrost = s.defrost ∧ (raise c s).runTime = s.runTime ∧
    (raise c s).runSecond = s.runSecond ∧ (raise c s).zone = s.zone ∧ (raise c s).exposure = s.exposure ∧
    (raise c s).store = s.store ∧ (raise c s).live = s.live ∧ (raise c s).snap = s.snap := by
  unfold raise; split <;> and_intros <;> rfl

@[simp] theorem countRefused_frame (s : State) :
    (countRefused s).pending = s.pending ∧ (countRefused s).now = s.now ∧ (countRefused s).ready = s.ready ∧
    (countRefused s).pfail = s.pfail ∧ (countRefused s).reason = s.reason ∧ (countRefused s).storeLost = s.storeLost ∧
    (countRefused s).mem = s.mem ∧ (countRefused s).dataOut = s.dataOut ∧ (countRefused s).reading = s.reading ∧
    (countRefused s).intake = s.intake ∧ (countRefused s).noticeMask = s.noticeMask ∧ (countRefused s).sup = s.sup ∧
    (countRefused s).door = s.door ∧ (countRefused s).spirals = s.spirals ∧ (countRefused s).moneySet = s.moneySet ∧
    (countRefused s).vendSet = s.vendSet ∧ (countRefused s).loadSet = s.loadSet ∧
    (countRefused s).portSet = s.portSet ∧ (countRefused s).coolSet = s.coolSet ∧
    (countRefused s).channels = s.channels ∧ (countRefused s).tubes = s.tubes ∧ (countRefused s).credit = s.credit ∧
    (countRefused s).held = s.held ∧ (countRefused s).exactOnly = s.exactOnly ∧
    (countRefused s).guaranteed = s.guaranteed ∧ (countRefused s).vendQueue = s.vendQueue ∧
    (countRefused s).flight = s.flight ∧ (countRefused s).basket = s.basket ∧
    (countRefused s).driveFaulted = s.driveFaulted ∧ (countRefused s).rev = s.rev ∧
    (countRefused s).camLevel = s.camLevel ∧ (countRefused s).offCheck = s.offCheck ∧ (countRefused s).drop = s.drop ∧
    (countRefused s).payQueue = s.payQueue ∧ (countRefused s).returnMark = s.returnMark ∧
    (countRefused s).payout = s.payout ∧ (countRefused s).ejectors = s.ejectors ∧
    (countRefused s).spent = s.spent ∧ (countRefused s).missedAt = s.missedAt ∧ (countRefused s).waiting = s.waiting ∧
    (countRefused s).grants = s.grants ∧ (countRefused s).cabA = s.cabA ∧ (countRefused s).cabB = s.cabB ∧
    (countRefused s).evap = s.evap ∧ (countRefused s).nextSample = s.nextSample ∧
    (countRefused s).airflow = s.airflow ∧ (countRefused s).aboveCount = s.aboveCount ∧
    (countRefused s).withinCount = s.withinCount ∧ (countRefused s).thermostat = s.thermostat ∧
    (countRefused s).comp = s.comp ∧ (countRefused s).fallback = s.fallback ∧ (countRefused s).defrost = s.defrost ∧
    (countRefused s).runTime = s.runTime ∧ (countRefused s).runSecond = s.runSecond ∧ (countRefused s).zone = s.zone ∧
    (countRefused s).exposure = s.exposure ∧ (countRefused s).store = s.store ∧ (countRefused s).live = s.live ∧
    (countRefused s).snap = s.snap := by
  unfold countRefused; simp

@[simp] theorem count_frame (c : Counter) (n : Nat) (s : State) :
    (count c n s).pending = s.pending ∧ (count c n s).now = s.now ∧ (count c n s).ready = s.ready ∧
    (count c n s).pfail = s.pfail ∧ (count c n s).reason = s.reason ∧ (count c n s).storeLost = s.storeLost ∧
    (count c n s).mem = s.mem ∧ (count c n s).dataOut = s.dataOut ∧ (count c n s).reading = s.reading ∧
    (count c n s).refused = s.refused ∧ (count c n s).intake = s.intake ∧
    (count c n s).noticePending = s.noticePending ∧ (count c n s).noticeMask = s.noticeMask ∧
    (count c n s).sup = s.sup ∧ (count c n s).door = s.door ∧ (count c n s).spirals = s.spirals ∧
    (count c n s).moneySet = s.moneySet ∧ (count c n s).vendSet = s.vendSet ∧ (count c n s).loadSet = s.loadSet ∧
    (count c n s).portSet = s.portSet ∧ (count c n s).coolSet = s.coolSet ∧ (count c n s).channels = s.channels ∧
    (count c n s).tubes = s.tubes ∧ (count c n s).credit = s.credit ∧ (count c n s).held = s.held ∧
    (count c n s).exactOnly = s.exactOnly ∧ (count c n s).guaranteed = s.guaranteed ∧
    (count c n s).vendQueue = s.vendQueue ∧ (count c n s).flight = s.flight ∧ (count c n s).basket = s.basket ∧
    (count c n s).driveFaulted = s.driveFaulted ∧ (count c n s).rev = s.rev ∧ (count c n s).camLevel = s.camLevel ∧
    (count c n s).offCheck = s.offCheck ∧ (count c n s).drop = s.drop ∧ (count c n s).payQueue = s.payQueue ∧
    (count c n s).returnMark = s.returnMark ∧ (count c n s).payout = s.payout ∧ (count c n s).ejectors = s.ejectors ∧
    (count c n s).spent = s.spent ∧ (count c n s).missedAt = s.missedAt ∧ (count c n s).waiting = s.waiting ∧
    (count c n s).grants = s.grants ∧
    (count c n s).cabA = s.cabA ∧ (count c n s).cabB = s.cabB ∧ (count c n s).evap = s.evap ∧
    (count c n s).nextSample = s.nextSample ∧ (count c n s).airflow = s.airflow ∧
    (count c n s).aboveCount = s.aboveCount ∧ (count c n s).withinCount = s.withinCount ∧
    (count c n s).thermostat = s.thermostat ∧ (count c n s).comp = s.comp ∧ (count c n s).fallback = s.fallback ∧
    (count c n s).defrost = s.defrost ∧ (count c n s).runTime = s.runTime ∧ (count c n s).runSecond = s.runSecond ∧
    (count c n s).zone = s.zone ∧ (count c n s).exposure = s.exposure ∧ (count c n s).store = s.store ∧
    (count c n s).snap = s.snap := by
  and_intros <;> rfl

@[simp] theorem putCredit_frame (c h : Nat) (s : State) :
    (putCredit c h s).pending = s.pending ∧ (putCredit c h s).now = s.now ∧ (putCredit c h s).ready = s.ready ∧
    (putCredit c h s).pfail = s.pfail ∧ (putCredit c h s).reason = s.reason ∧
    (putCredit c h s).storeLost = s.storeLost ∧ (putCredit c h s).mem = s.mem ∧
    (putCredit c h s).dataOut = s.dataOut ∧ (putCredit c h s).reading = s.reading ∧
    (putCredit c h s).refused = s.refused ∧ (putCredit c h s).intake = s.intake ∧
    (putCredit c h s).noticeMask = s.noticeMask ∧ (putCredit c h s).sup = s.sup ∧ (putCredit c h s).door = s.door ∧
    (putCredit c h s).spirals = s.spirals ∧ (putCredit c h s).moneySet = s.moneySet ∧
    (putCredit c h s).vendSet = s.vendSet ∧ (putCredit c h s).loadSet = s.loadSet ∧
    (putCredit c h s).portSet = s.portSet ∧ (putCredit c h s).coolSet = s.coolSet ∧
    (putCredit c h s).channels = s.channels ∧ (putCredit c h s).tubes = s.tubes ∧
    (putCredit c h s).exactOnly = s.exactOnly ∧ (putCredit c h s).guaranteed = s.guaranteed ∧
    (putCredit c h s).vendQueue = s.vendQueue ∧ (putCredit c h s).flight = s.flight ∧
    (putCredit c h s).basket = s.basket ∧ (putCredit c h s).driveFaulted = s.driveFaulted ∧
    (putCredit c h s).rev = s.rev ∧ (putCredit c h s).camLevel = s.camLevel ∧
    (putCredit c h s).offCheck = s.offCheck ∧ (putCredit c h s).drop = s.drop ∧
    (putCredit c h s).payQueue = s.payQueue ∧ (putCredit c h s).returnMark = s.returnMark ∧
    (putCredit c h s).payout = s.payout ∧ (putCredit c h s).ejectors = s.ejectors ∧
    (putCredit c h s).spent = s.spent ∧ (putCredit c h s).missedAt = s.missedAt ∧ (putCredit c h s).waiting = s.waiting ∧
    (putCredit c h s).grants = s.grants ∧ (putCredit c h s).cabA = s.cabA ∧ (putCredit c h s).cabB = s.cabB ∧
    (putCredit c h s).evap = s.evap ∧ (putCredit c h s).nextSample = s.nextSample ∧
    (putCredit c h s).airflow = s.airflow ∧ (putCredit c h s).aboveCount = s.aboveCount ∧
    (putCredit c h s).withinCount = s.withinCount ∧ (putCredit c h s).thermostat = s.thermostat ∧
    (putCredit c h s).comp = s.comp ∧ (putCredit c h s).fallback = s.fallback ∧
    (putCredit c h s).defrost = s.defrost ∧ (putCredit c h s).runTime = s.runTime ∧
    (putCredit c h s).runSecond = s.runSecond ∧ (putCredit c h s).zone = s.zone ∧
    (putCredit c h s).exposure = s.exposure ∧ (putCredit c h s).store = s.store ∧ (putCredit c h s).live = s.live ∧
    (putCredit c h s).snap = s.snap := by
  unfold putCredit; simp

@[simp] theorem putSpiral_frame (i : Fin 80) (r : Spiral) (s : State) :
    (putSpiral i r s).pending = s.pending ∧ (putSpiral i r s).now = s.now ∧ (putSpiral i r s).ready = s.ready ∧
    (putSpiral i r s).pfail = s.pfail ∧ (putSpiral i r s).reason = s.reason ∧
    (putSpiral i r s).storeLost = s.storeLost ∧ (putSpiral i r s).mem = s.mem ∧
    (putSpiral i r s).dataOut = s.dataOut ∧ (putSpiral i r s).reading = s.reading ∧
    (putSpiral i r s).refused = s.refused ∧ (putSpiral i r s).intake = s.intake ∧
    (putSpiral i r s).noticeMask = s.noticeMask ∧ (putSpiral i r s).sup = s.sup ∧ (putSpiral i r s).door = s.door ∧
    (putSpiral i r s).moneySet = s.moneySet ∧ (putSpiral i r s).vendSet = s.vendSet ∧
    (putSpiral i r s).loadSet = s.loadSet ∧ (putSpiral i r s).portSet = s.portSet ∧
    (putSpiral i r s).coolSet = s.coolSet ∧ (putSpiral i r s).channels = s.channels ∧
    (putSpiral i r s).tubes = s.tubes ∧ (putSpiral i r s).credit = s.credit ∧ (putSpiral i r s).held = s.held ∧
    (putSpiral i r s).exactOnly = s.exactOnly ∧ (putSpiral i r s).guaranteed = s.guaranteed ∧
    (putSpiral i r s).vendQueue = s.vendQueue ∧ (putSpiral i r s).flight = s.flight ∧
    (putSpiral i r s).basket = s.basket ∧ (putSpiral i r s).driveFaulted = s.driveFaulted ∧
    (putSpiral i r s).rev = s.rev ∧ (putSpiral i r s).camLevel = s.camLevel ∧
    (putSpiral i r s).offCheck = s.offCheck ∧ (putSpiral i r s).drop = s.drop ∧
    (putSpiral i r s).payQueue = s.payQueue ∧ (putSpiral i r s).returnMark = s.returnMark ∧
    (putSpiral i r s).payout = s.payout ∧ (putSpiral i r s).ejectors = s.ejectors ∧
    (putSpiral i r s).spent = s.spent ∧ (putSpiral i r s).missedAt = s.missedAt ∧ (putSpiral i r s).waiting = s.waiting ∧
    (putSpiral i r s).grants = s.grants ∧ (putSpiral i r s).cabA = s.cabA ∧ (putSpiral i r s).cabB = s.cabB ∧
    (putSpiral i r s).evap = s.evap ∧ (putSpiral i r s).nextSample = s.nextSample ∧
    (putSpiral i r s).airflow = s.airflow ∧ (putSpiral i r s).aboveCount = s.aboveCount ∧
    (putSpiral i r s).withinCount = s.withinCount ∧ (putSpiral i r s).thermostat = s.thermostat ∧
    (putSpiral i r s).comp = s.comp ∧ (putSpiral i r s).fallback = s.fallback ∧
    (putSpiral i r s).defrost = s.defrost ∧ (putSpiral i r s).runTime = s.runTime ∧
    (putSpiral i r s).runSecond = s.runSecond ∧ (putSpiral i r s).zone = s.zone ∧
    (putSpiral i r s).exposure = s.exposure ∧ (putSpiral i r s).store = s.store ∧ (putSpiral i r s).live = s.live ∧
    (putSpiral i r s).snap = s.snap := by
  unfold putSpiral; dsimp only; split <;> simp

@[simp] theorem mirror_frame (i : Fin 80) (s : State) :
    (mirror i s).pending = s.pending ∧ (mirror i s).now = s.now ∧ (mirror i s).ready = s.ready ∧
    (mirror i s).pfail = s.pfail ∧ (mirror i s).reason = s.reason ∧ (mirror i s).storeLost = s.storeLost ∧
    (mirror i s).mem = s.mem ∧ (mirror i s).dataOut = s.dataOut ∧ (mirror i s).reading = s.reading ∧
    (mirror i s).refused = s.refused ∧ (mirror i s).intake = s.intake ∧ (mirror i s).noticeMask = s.noticeMask ∧
    (mirror i s).sup = s.sup ∧ (mirror i s).door = s.door ∧ (mirror i s).moneySet = s.moneySet ∧
    (mirror i s).vendSet = s.vendSet ∧ (mirror i s).loadSet = s.loadSet ∧ (mirror i s).portSet = s.portSet ∧
    (mirror i s).coolSet = s.coolSet ∧ (mirror i s).channels = s.channels ∧ (mirror i s).tubes = s.tubes ∧
    (mirror i s).credit = s.credit ∧ (mirror i s).held = s.held ∧ (mirror i s).exactOnly = s.exactOnly ∧
    (mirror i s).guaranteed = s.guaranteed ∧ (mirror i s).vendQueue = s.vendQueue ∧ (mirror i s).flight = s.flight ∧
    (mirror i s).basket = s.basket ∧ (mirror i s).driveFaulted = s.driveFaulted ∧ (mirror i s).rev = s.rev ∧
    (mirror i s).camLevel = s.camLevel ∧ (mirror i s).offCheck = s.offCheck ∧ (mirror i s).drop = s.drop ∧
    (mirror i s).payQueue = s.payQueue ∧ (mirror i s).returnMark = s.returnMark ∧ (mirror i s).payout = s.payout ∧
    (mirror i s).ejectors = s.ejectors ∧ (mirror i s).spent = s.spent ∧ (mirror i s).missedAt = s.missedAt ∧
    (mirror i s).waiting = s.waiting ∧
    (mirror i s).grants = s.grants ∧ (mirror i s).cabA = s.cabA ∧ (mirror i s).cabB = s.cabB ∧
    (mirror i s).evap = s.evap ∧ (mirror i s).nextSample = s.nextSample ∧ (mirror i s).airflow = s.airflow ∧
    (mirror i s).aboveCount = s.aboveCount ∧ (mirror i s).withinCount = s.withinCount ∧
    (mirror i s).thermostat = s.thermostat ∧ (mirror i s).comp = s.comp ∧ (mirror i s).fallback = s.fallback ∧
    (mirror i s).defrost = s.defrost ∧ (mirror i s).runTime = s.runTime ∧ (mirror i s).runSecond = s.runSecond ∧
    (mirror i s).zone = s.zone ∧ (mirror i s).exposure = s.exposure ∧ (mirror i s).store = s.store ∧
    (mirror i s).live = s.live ∧ (mirror i s).snap = s.snap := by
  unfold mirror; simp

@[simp] theorem putSlot_frame (s : State) (slot off : Nat) (bytes : List Byte) :
    (s.putSlot slot off bytes).pending = s.pending ∧ (s.putSlot slot off bytes).now = s.now ∧
    (s.putSlot slot off bytes).ready = s.ready ∧ (s.putSlot slot off bytes).pfail = s.pfail ∧
    (s.putSlot slot off bytes).reason = s.reason ∧ (s.putSlot slot off bytes).storeLost = s.storeLost ∧
    (s.putSlot slot off bytes).dataOut = s.dataOut ∧ (s.putSlot slot off bytes).reading = s.reading ∧
    (s.putSlot slot off bytes).refused = s.refused ∧ (s.putSlot slot off bytes).intake = s.intake ∧
    (s.putSlot slot off bytes).noticePending = s.noticePending ∧
    (s.putSlot slot off bytes).noticeMask = s.noticeMask ∧ (s.putSlot slot off bytes).sup = s.sup ∧
    (s.putSlot slot off bytes).door = s.door ∧ (s.putSlot slot off bytes).spirals = s.spirals ∧
    (s.putSlot slot off bytes).moneySet = s.moneySet ∧ (s.putSlot slot off bytes).vendSet = s.vendSet ∧
    (s.putSlot slot off bytes).loadSet = s.loadSet ∧ (s.putSlot slot off bytes).portSet = s.portSet ∧
    (s.putSlot slot off bytes).coolSet = s.coolSet ∧ (s.putSlot slot off bytes).channels = s.channels ∧
    (s.putSlot slot off bytes).tubes = s.tubes ∧ (s.putSlot slot off bytes).credit = s.credit ∧
    (s.putSlot slot off bytes).held = s.held ∧ (s.putSlot slot off bytes).exactOnly = s.exactOnly ∧
    (s.putSlot slot off bytes).guaranteed = s.guaranteed ∧ (s.putSlot slot off bytes).vendQueue = s.vendQueue ∧
    (s.putSlot slot off bytes).flight = s.flight ∧ (s.putSlot slot off bytes).basket = s.basket ∧
    (s.putSlot slot off bytes).driveFaulted = s.driveFaulted ∧ (s.putSlot slot off bytes).rev = s.rev ∧
    (s.putSlot slot off bytes).camLevel = s.camLevel ∧ (s.putSlot slot off bytes).offCheck = s.offCheck ∧
    (s.putSlot slot off bytes).drop = s.drop ∧ (s.putSlot slot off bytes).payQueue = s.payQueue ∧
    (s.putSlot slot off bytes).returnMark = s.returnMark ∧ (s.putSlot slot off bytes).payout = s.payout ∧
    (s.putSlot slot off bytes).ejectors = s.ejectors ∧ (s.putSlot slot off bytes).spent = s.spent ∧
    (s.putSlot slot off bytes).missedAt = s.missedAt ∧
    (s.putSlot slot off bytes).waiting = s.waiting ∧ (s.putSlot slot off bytes).grants = s.grants ∧
    (s.putSlot slot off bytes).cabA = s.cabA ∧ (s.putSlot slot off bytes).cabB = s.cabB ∧
    (s.putSlot slot off bytes).evap = s.evap ∧ (s.putSlot slot off bytes).nextSample = s.nextSample ∧
    (s.putSlot slot off bytes).airflow = s.airflow ∧ (s.putSlot slot off bytes).aboveCount = s.aboveCount ∧
    (s.putSlot slot off bytes).withinCount = s.withinCount ∧ (s.putSlot slot off bytes).thermostat = s.thermostat ∧
    (s.putSlot slot off bytes).comp = s.comp ∧ (s.putSlot slot off bytes).fallback = s.fallback ∧
    (s.putSlot slot off bytes).defrost = s.defrost ∧ (s.putSlot slot off bytes).runTime = s.runTime ∧
    (s.putSlot slot off bytes).runSecond = s.runSecond ∧ (s.putSlot slot off bytes).zone = s.zone ∧
    (s.putSlot slot off bytes).exposure = s.exposure ∧ (s.putSlot slot off bytes).store = s.store ∧
    (s.putSlot slot off bytes).live = s.live ∧ (s.putSlot slot off bytes).snap = s.snap := by
  and_intros <;> rfl

@[simp] theorem setHolder_frame (s : State) (slot : Nat) (h : Holder) :
    (s.setHolder slot h).pending = s.pending ∧ (s.setHolder slot h).now = s.now ∧
    (s.setHolder slot h).ready = s.ready ∧ (s.setHolder slot h).pfail = s.pfail ∧
    (s.setHolder slot h).reason = s.reason ∧ (s.setHolder slot h).storeLost = s.storeLost ∧
    (s.setHolder slot h).dataOut = s.dataOut ∧ (s.setHolder slot h).reading = s.reading ∧
    (s.setHolder slot h).refused = s.refused ∧ (s.setHolder slot h).intake = s.intake ∧
    (s.setHolder slot h).noticePending = s.noticePending ∧ (s.setHolder slot h).noticeMask = s.noticeMask ∧
    (s.setHolder slot h).sup = s.sup ∧ (s.setHolder slot h).door = s.door ∧ (s.setHolder slot h).spirals = s.spirals ∧
    (s.setHolder slot h).moneySet = s.moneySet ∧ (s.setHolder slot h).vendSet = s.vendSet ∧
    (s.setHolder slot h).loadSet = s.loadSet ∧ (s.setHolder slot h).portSet = s.portSet ∧
    (s.setHolder slot h).coolSet = s.coolSet ∧ (s.setHolder slot h).channels = s.channels ∧
    (s.setHolder slot h).tubes = s.tubes ∧ (s.setHolder slot h).credit = s.credit ∧
    (s.setHolder slot h).held = s.held ∧ (s.setHolder slot h).exactOnly = s.exactOnly ∧
    (s.setHolder slot h).guaranteed = s.guaranteed ∧ (s.setHolder slot h).vendQueue = s.vendQueue ∧
    (s.setHolder slot h).flight = s.flight ∧ (s.setHolder slot h).basket = s.basket ∧
    (s.setHolder slot h).driveFaulted = s.driveFaulted ∧ (s.setHolder slot h).rev = s.rev ∧
    (s.setHolder slot h).camLevel = s.camLevel ∧ (s.setHolder slot h).offCheck = s.offCheck ∧
    (s.setHolder slot h).drop = s.drop ∧ (s.setHolder slot h).payQueue = s.payQueue ∧
    (s.setHolder slot h).returnMark = s.returnMark ∧ (s.setHolder slot h).payout = s.payout ∧
    (s.setHolder slot h).ejectors = s.ejectors ∧ (s.setHolder slot h).spent = s.spent ∧
    (s.setHolder slot h).missedAt = s.missedAt ∧
    (s.setHolder slot h).waiting = s.waiting ∧ (s.setHolder slot h).grants = s.grants ∧
    (s.setHolder slot h).cabA = s.cabA ∧ (s.setHolder slot h).cabB = s.cabB ∧ (s.setHolder slot h).evap = s.evap ∧
    (s.setHolder slot h).nextSample = s.nextSample ∧ (s.setHolder slot h).airflow = s.airflow ∧
    (s.setHolder slot h).aboveCount = s.aboveCount ∧ (s.setHolder slot h).withinCount = s.withinCount ∧
    (s.setHolder slot h).thermostat = s.thermostat ∧ (s.setHolder slot h).comp = s.comp ∧
    (s.setHolder slot h).fallback = s.fallback ∧ (s.setHolder slot h).defrost = s.defrost ∧
    (s.setHolder slot h).runTime = s.runTime ∧ (s.setHolder slot h).runSecond = s.runSecond ∧
    (s.setHolder slot h).zone = s.zone ∧ (s.setHolder slot h).exposure = s.exposure ∧
    (s.setHolder slot h).store = s.store ∧ (s.setHolder slot h).live = s.live ∧ (s.setHolder slot h).snap = s.snap := by
  unfold State.setHolder; simp

@[simp] theorem takeSlot_frame (slot : Nat) (s : State) :
    (takeSlot slot s).pending = s.pending ∧ (takeSlot slot s).now = s.now ∧ (takeSlot slot s).ready = s.ready ∧
    (takeSlot slot s).pfail = s.pfail ∧ (takeSlot slot s).reason = s.reason ∧
    (takeSlot slot s).storeLost = s.storeLost ∧ (takeSlot slot s).dataOut = s.dataOut ∧
    (takeSlot slot s).reading = s.reading ∧ (takeSlot slot s).refused = s.refused ∧
    (takeSlot slot s).intake = s.intake ∧ (takeSlot slot s).noticePending = s.noticePending ∧
    (takeSlot slot s).noticeMask = s.noticeMask ∧ (takeSlot slot s).sup = s.sup ∧ (takeSlot slot s).door = s.door ∧
    (takeSlot slot s).spirals = s.spirals ∧ (takeSlot slot s).moneySet = s.moneySet ∧
    (takeSlot slot s).vendSet = s.vendSet ∧ (takeSlot slot s).loadSet = s.loadSet ∧
    (takeSlot slot s).portSet = s.portSet ∧ (takeSlot slot s).coolSet = s.coolSet ∧
    (takeSlot slot s).channels = s.channels ∧ (takeSlot slot s).tubes = s.tubes ∧
    (takeSlot slot s).credit = s.credit ∧ (takeSlot slot s).held = s.held ∧
    (takeSlot slot s).exactOnly = s.exactOnly ∧ (takeSlot slot s).guaranteed = s.guaranteed ∧
    (takeSlot slot s).vendQueue = s.vendQueue ∧ (takeSlot slot s).flight = s.flight ∧
    (takeSlot slot s).basket = s.basket ∧ (takeSlot slot s).driveFaulted = s.driveFaulted ∧
    (takeSlot slot s).rev = s.rev ∧ (takeSlot slot s).camLevel = s.camLevel ∧
    (takeSlot slot s).offCheck = s.offCheck ∧ (takeSlot slot s).drop = s.drop ∧
    (takeSlot slot s).payQueue = s.payQueue ∧ (takeSlot slot s).returnMark = s.returnMark ∧
    (takeSlot slot s).payout = s.payout ∧ (takeSlot slot s).ejectors = s.ejectors ∧
    (takeSlot slot s).spent = s.spent ∧ (takeSlot slot s).missedAt = s.missedAt ∧ (takeSlot slot s).waiting = s.waiting ∧
    (takeSlot slot s).grants = s.grants ∧ (takeSlot slot s).cabA = s.cabA ∧ (takeSlot slot s).cabB = s.cabB ∧
    (takeSlot slot s).evap = s.evap ∧ (takeSlot slot s).nextSample = s.nextSample ∧
    (takeSlot slot s).airflow = s.airflow ∧ (takeSlot slot s).aboveCount = s.aboveCount ∧
    (takeSlot slot s).withinCount = s.withinCount ∧ (takeSlot slot s).thermostat = s.thermostat ∧
    (takeSlot slot s).comp = s.comp ∧ (takeSlot slot s).fallback = s.fallback ∧
    (takeSlot slot s).defrost = s.defrost ∧ (takeSlot slot s).runTime = s.runTime ∧
    (takeSlot slot s).runSecond = s.runSecond ∧ (takeSlot slot s).zone = s.zone ∧
    (takeSlot slot s).exposure = s.exposure ∧ (takeSlot slot s).store = s.store ∧ (takeSlot slot s).live = s.live ∧
    (takeSlot slot s).snap = s.snap := by
  unfold takeSlot; simp

@[simp] theorem complete_frame (slot : Nat) (o : CardOutcome) (s : State) :
    (complete slot o s).pending = s.pending ∧ (complete slot o s).now = s.now ∧ (complete slot o s).ready = s.ready ∧
    (complete slot o s).pfail = s.pfail ∧ (complete slot o s).reason = s.reason ∧
    (complete slot o s).storeLost = s.storeLost ∧ (complete slot o s).dataOut = s.dataOut ∧
    (complete slot o s).reading = s.reading ∧ (complete slot o s).refused = s.refused ∧
    (complete slot o s).intake = s.intake ∧ (complete slot o s).noticeMask = s.noticeMask ∧
    (complete slot o s).sup = s.sup ∧ (complete slot o s).door = s.door ∧ (complete slot o s).spirals = s.spirals ∧
    (complete slot o s).moneySet = s.moneySet ∧ (complete slot o s).vendSet = s.vendSet ∧
    (complete slot o s).loadSet = s.loadSet ∧ (complete slot o s).portSet = s.portSet ∧
    (complete slot o s).coolSet = s.coolSet ∧ (complete slot o s).channels = s.channels ∧
    (complete slot o s).tubes = s.tubes ∧ (complete slot o s).credit = s.credit ∧ (complete slot o s).held = s.held ∧
    (complete slot o s).exactOnly = s.exactOnly ∧ (complete slot o s).guaranteed = s.guaranteed ∧
    (complete slot o s).vendQueue = s.vendQueue ∧ (complete slot o s).flight = s.flight ∧
    (complete slot o s).basket = s.basket ∧ (complete slot o s).driveFaulted = s.driveFaulted ∧
    (complete slot o s).rev = s.rev ∧ (complete slot o s).camLevel = s.camLevel ∧
    (complete slot o s).offCheck = s.offCheck ∧ (complete slot o s).drop = s.drop ∧
    (complete slot o s).payQueue = s.payQueue ∧ (complete slot o s).returnMark = s.returnMark ∧
    (complete slot o s).payout = s.payout ∧ (complete slot o s).ejectors = s.ejectors ∧
    (complete slot o s).spent = s.spent ∧ (complete slot o s).missedAt = s.missedAt ∧
    (complete slot o s).waiting = s.waiting ∧
    (complete slot o s).grants = s.grants ∧ (complete slot o s).cabA = s.cabA ∧ (complete slot o s).cabB = s.cabB ∧
    (complete slot o s).evap = s.evap ∧ (complete slot o s).nextSample = s.nextSample ∧
    (complete slot o s).airflow = s.airflow ∧ (complete slot o s).aboveCount = s.aboveCount ∧
    (complete slot o s).withinCount = s.withinCount ∧ (complete slot o s).thermostat = s.thermostat ∧
    (complete slot o s).comp = s.comp ∧ (complete slot o s).fallback = s.fallback ∧
    (complete slot o s).defrost = s.defrost ∧ (complete slot o s).runTime = s.runTime ∧
    (complete slot o s).runSecond = s.runSecond ∧ (complete slot o s).zone = s.zone ∧
    (complete slot o s).exposure = s.exposure ∧ (complete slot o s).store = s.store ∧
    (complete slot o s).live = s.live ∧ (complete slot o s).snap = s.snap := by
  unfold complete; dsimp only; split <;> simp

@[simp] theorem putHalf_frame (slot off n : Nat) (s : State) :
    (putHalf slot off n s).pending = s.pending ∧ (putHalf slot off n s).now = s.now ∧
    (putHalf slot off n s).ready = s.ready ∧ (putHalf slot off n s).pfail = s.pfail ∧
    (putHalf slot off n s).reason = s.reason ∧ (putHalf slot off n s).storeLost = s.storeLost ∧
    (putHalf slot off n s).dataOut = s.dataOut ∧ (putHalf slot off n s).reading = s.reading ∧
    (putHalf slot off n s).refused = s.refused ∧ (putHalf slot off n s).intake = s.intake ∧
    (putHalf slot off n s).noticePending = s.noticePending ∧ (putHalf slot off n s).noticeMask = s.noticeMask ∧
    (putHalf slot off n s).sup = s.sup ∧ (putHalf slot off n s).door = s.door ∧
    (putHalf slot off n s).spirals = s.spirals ∧ (putHalf slot off n s).moneySet = s.moneySet ∧
    (putHalf slot off n s).vendSet = s.vendSet ∧ (putHalf slot off n s).loadSet = s.loadSet ∧
    (putHalf slot off n s).portSet = s.portSet ∧ (putHalf slot off n s).coolSet = s.coolSet ∧
    (putHalf slot off n s).channels = s.channels ∧ (putHalf slot off n s).tubes = s.tubes ∧
    (putHalf slot off n s).credit = s.credit ∧ (putHalf slot off n s).held = s.held ∧
    (putHalf slot off n s).exactOnly = s.exactOnly ∧ (putHalf slot off n s).guaranteed = s.guaranteed ∧
    (putHalf slot off n s).vendQueue = s.vendQueue ∧ (putHalf slot off n s).flight = s.flight ∧
    (putHalf slot off n s).basket = s.basket ∧ (putHalf slot off n s).driveFaulted = s.driveFaulted ∧
    (putHalf slot off n s).rev = s.rev ∧ (putHalf slot off n s).camLevel = s.camLevel ∧
    (putHalf slot off n s).offCheck = s.offCheck ∧ (putHalf slot off n s).drop = s.drop ∧
    (putHalf slot off n s).payQueue = s.payQueue ∧ (putHalf slot off n s).returnMark = s.returnMark ∧
    (putHalf slot off n s).payout = s.payout ∧ (putHalf slot off n s).ejectors = s.ejectors ∧
    (putHalf slot off n s).spent = s.spent ∧ (putHalf slot off n s).missedAt = s.missedAt ∧
    (putHalf slot off n s).waiting = s.waiting ∧
    (putHalf slot off n s).grants = s.grants ∧ (putHalf slot off n s).cabA = s.cabA ∧
    (putHalf slot off n s).cabB = s.cabB ∧ (putHalf slot off n s).evap = s.evap ∧
    (putHalf slot off n s).nextSample = s.nextSample ∧ (putHalf slot off n s).airflow = s.airflow ∧
    (putHalf slot off n s).aboveCount = s.aboveCount ∧ (putHalf slot off n s).withinCount = s.withinCount ∧
    (putHalf slot off n s).thermostat = s.thermostat ∧ (putHalf slot off n s).comp = s.comp ∧
    (putHalf slot off n s).fallback = s.fallback ∧ (putHalf slot off n s).defrost = s.defrost ∧
    (putHalf slot off n s).runTime = s.runTime ∧ (putHalf slot off n s).runSecond = s.runSecond ∧
    (putHalf slot off n s).zone = s.zone ∧ (putHalf slot off n s).exposure = s.exposure ∧
    (putHalf slot off n s).store = s.store ∧ (putHalf slot off n s).live = s.live ∧
    (putHalf slot off n s).snap = s.snap := by
  unfold putHalf; simp

@[simp] theorem putVendResult_frame (slot charged revolutions : Nat) (drop : Option Nat) (s : State) :
    (putVendResult slot charged revolutions drop s).pending = s.pending ∧
    (putVendResult slot charged revolutions drop s).now = s.now ∧
    (putVendResult slot charged revolutions drop s).ready = s.ready ∧
    (putVendResult slot charged revolutions drop s).pfail = s.pfail ∧
    (putVendResult slot charged revolutions drop s).reason = s.reason ∧
    (putVendResult slot charged revolutions drop s).storeLost = s.storeLost ∧
    (putVendResult slot charged revolutions drop s).dataOut = s.dataOut ∧
    (putVendResult slot charged revolutions drop s).reading = s.reading ∧
    (putVendResult slot charged revolutions drop s).refused = s.refused ∧
    (putVendResult slot charged revolutions drop s).intake = s.intake ∧
    (putVendResult slot charged revolutions drop s).noticePending = s.noticePending ∧
    (putVendResult slot charged revolutions drop s).noticeMask = s.noticeMask ∧
    (putVendResult slot charged revolutions drop s).sup = s.sup ∧
    (putVendResult slot charged revolutions drop s).door = s.door ∧
    (putVendResult slot charged revolutions drop s).spirals = s.spirals ∧
    (putVendResult slot charged revolutions drop s).moneySet = s.moneySet ∧
    (putVendResult slot charged revolutions drop s).vendSet = s.vendSet ∧
    (putVendResult slot charged revolutions drop s).loadSet = s.loadSet ∧
    (putVendResult slot charged revolutions drop s).portSet = s.portSet ∧
    (putVendResult slot charged revolutions drop s).coolSet = s.coolSet ∧
    (putVendResult slot charged revolutions drop s).channels = s.channels ∧
    (putVendResult slot charged revolutions drop s).tubes = s.tubes ∧
    (putVendResult slot charged revolutions drop s).credit = s.credit ∧
    (putVendResult slot charged revolutions drop s).held = s.held ∧
    (putVendResult slot charged revolutions drop s).exactOnly = s.exactOnly ∧
    (putVendResult slot charged revolutions drop s).guaranteed = s.guaranteed ∧
    (putVendResult slot charged revolutions drop s).vendQueue = s.vendQueue ∧
    (putVendResult slot charged revolutions drop s).flight = s.flight ∧
    (putVendResult slot charged revolutions drop s).basket = s.basket ∧
    (putVendResult slot charged revolutions drop s).driveFaulted = s.driveFaulted ∧
    (putVendResult slot charged revolutions drop s).rev = s.rev ∧
    (putVendResult slot charged revolutions drop s).camLevel = s.camLevel ∧
    (putVendResult slot charged revolutions drop s).offCheck = s.offCheck ∧
    (putVendResult slot charged revolutions drop s).drop = s.drop ∧
    (putVendResult slot charged revolutions drop s).payQueue = s.payQueue ∧
    (putVendResult slot charged revolutions drop s).returnMark = s.returnMark ∧
    (putVendResult slot charged revolutions drop s).payout = s.payout ∧
    (putVendResult slot charged revolutions drop s).ejectors = s.ejectors ∧
    (putVendResult slot charged revolutions drop s).spent = s.spent ∧
    (putVendResult slot charged revolutions drop s).missedAt = s.missedAt ∧
    (putVendResult slot charged revolutions drop s).waiting = s.waiting ∧
    (putVendResult slot charged revolutions drop s).grants = s.grants ∧
    (putVendResult slot charged revolutions drop s).cabA = s.cabA ∧
    (putVendResult slot charged revolutions drop s).cabB = s.cabB ∧
    (putVendResult slot charged revolutions drop s).evap = s.evap ∧
    (putVendResult slot charged revolutions drop s).nextSample = s.nextSample ∧
    (putVendResult slot charged revolutions drop s).airflow = s.airflow ∧
    (putVendResult slot charged revolutions drop s).aboveCount = s.aboveCount ∧
    (putVendResult slot charged revolutions drop s).withinCount = s.withinCount ∧
    (putVendResult slot charged revolutions drop s).thermostat = s.thermostat ∧
    (putVendResult slot charged revolutions drop s).comp = s.comp ∧
    (putVendResult slot charged revolutions drop s).fallback = s.fallback ∧
    (putVendResult slot charged revolutions drop s).defrost = s.defrost ∧
    (putVendResult slot charged revolutions drop s).runTime = s.runTime ∧
    (putVendResult slot charged revolutions drop s).runSecond = s.runSecond ∧
    (putVendResult slot charged revolutions drop s).zone = s.zone ∧
    (putVendResult slot charged revolutions drop s).exposure = s.exposure ∧
    (putVendResult slot charged revolutions drop s).store = s.store ∧
    (putVendResult slot charged revolutions drop s).live = s.live ∧
    (putVendResult slot charged revolutions drop s).snap = s.snap := by
  unfold putVendResult; simp

@[simp] theorem putTube_frame (t : Fin 4) (r : Tube) (s : State) :
    (putTube t r s).pending = s.pending ∧ (putTube t r s).now = s.now ∧ (putTube t r s).ready = s.ready ∧
    (putTube t r s).pfail = s.pfail ∧ (putTube t r s).reason = s.reason ∧ (putTube t r s).storeLost = s.storeLost ∧
    (putTube t r s).mem = s.mem ∧ (putTube t r s).dataOut = s.dataOut ∧ (putTube t r s).reading = s.reading ∧
    (putTube t r s).refused = s.refused ∧ (putTube t r s).intake = s.intake ∧
    (putTube t r s).noticePending = s.noticePending ∧ (putTube t r s).noticeMask = s.noticeMask ∧
    (putTube t r s).sup = s.sup ∧ (putTube t r s).door = s.door ∧ (putTube t r s).spirals = s.spirals ∧
    (putTube t r s).moneySet = s.moneySet ∧ (putTube t r s).vendSet = s.vendSet ∧
    (putTube t r s).loadSet = s.loadSet ∧ (putTube t r s).portSet = s.portSet ∧ (putTube t r s).coolSet = s.coolSet ∧
    (putTube t r s).channels = s.channels ∧ (putTube t r s).credit = s.credit ∧ (putTube t r s).held = s.held ∧
    (putTube t r s).exactOnly = s.exactOnly ∧ (putTube t r s).guaranteed = s.guaranteed ∧
    (putTube t r s).vendQueue = s.vendQueue ∧ (putTube t r s).flight = s.flight ∧ (putTube t r s).basket = s.basket ∧
    (putTube t r s).driveFaulted = s.driveFaulted ∧ (putTube t r s).rev = s.rev ∧
    (putTube t r s).camLevel = s.camLevel ∧ (putTube t r s).offCheck = s.offCheck ∧ (putTube t r s).drop = s.drop ∧
    (putTube t r s).payQueue = s.payQueue ∧ (putTube t r s).returnMark = s.returnMark ∧
    (putTube t r s).payout = s.payout ∧ (putTube t r s).ejectors = s.ejectors ∧
    (putTube t r s).spent = s.spent ∧ (putTube t r s).missedAt = s.missedAt ∧ (putTube t r s).waiting = s.waiting ∧
    (putTube t r s).grants = s.grants ∧
    (putTube t r s).cabA = s.cabA ∧ (putTube t r s).cabB = s.cabB ∧ (putTube t r s).evap = s.evap ∧
    (putTube t r s).nextSample = s.nextSample ∧ (putTube t r s).airflow = s.airflow ∧
    (putTube t r s).aboveCount = s.aboveCount ∧ (putTube t r s).withinCount = s.withinCount ∧
    (putTube t r s).thermostat = s.thermostat ∧ (putTube t r s).comp = s.comp ∧
    (putTube t r s).fallback = s.fallback ∧ (putTube t r s).defrost = s.defrost ∧
    (putTube t r s).runTime = s.runTime ∧ (putTube t r s).runSecond = s.runSecond ∧ (putTube t r s).zone = s.zone ∧
    (putTube t r s).exposure = s.exposure ∧ (putTube t r s).store = s.store ∧ (putTube t r s).live = s.live ∧
    (putTube t r s).snap = s.snap := by
  and_intros <;> rfl

@[simp] theorem setBusy_frame (b : Bool) (s : State) :
    (setBusy b s).pending = s.pending ∧ (setBusy b s).now = s.now ∧ (setBusy b s).ready = s.ready ∧
    (setBusy b s).pfail = s.pfail ∧ (setBusy b s).reason = s.reason ∧ (setBusy b s).storeLost = s.storeLost ∧
    (setBusy b s).mem = s.mem ∧ (setBusy b s).dataOut = s.dataOut ∧ (setBusy b s).reading = s.reading ∧
    (setBusy b s).refused = s.refused ∧ (setBusy b s).intake = s.intake ∧
    (setBusy b s).noticePending = s.noticePending ∧ (setBusy b s).noticeMask = s.noticeMask ∧
    (setBusy b s).sup = s.sup ∧ (setBusy b s).door = s.door ∧ (setBusy b s).spirals = s.spirals ∧
    (setBusy b s).moneySet = s.moneySet ∧ (setBusy b s).vendSet = s.vendSet ∧ (setBusy b s).loadSet = s.loadSet ∧
    (setBusy b s).portSet = s.portSet ∧ (setBusy b s).coolSet = s.coolSet ∧ (setBusy b s).channels = s.channels ∧
    (setBusy b s).credit = s.credit ∧ (setBusy b s).held = s.held ∧ (setBusy b s).exactOnly = s.exactOnly ∧
    (setBusy b s).guaranteed = s.guaranteed ∧ (setBusy b s).vendQueue = s.vendQueue ∧
    (setBusy b s).flight = s.flight ∧ (setBusy b s).basket = s.basket ∧ (setBusy b s).driveFaulted = s.driveFaulted ∧
    (setBusy b s).rev = s.rev ∧ (setBusy b s).camLevel = s.camLevel ∧ (setBusy b s).offCheck = s.offCheck ∧
    (setBusy b s).drop = s.drop ∧ (setBusy b s).payQueue = s.payQueue ∧ (setBusy b s).returnMark = s.returnMark ∧
    (setBusy b s).payout = s.payout ∧ (setBusy b s).ejectors = s.ejectors ∧ (setBusy b s).spent = s.spent ∧
    (setBusy b s).missedAt = s.missedAt ∧
    (setBusy b s).waiting = s.waiting ∧ (setBusy b s).grants = s.grants ∧ (setBusy b s).cabA = s.cabA ∧
    (setBusy b s).cabB = s.cabB ∧ (setBusy b s).evap = s.evap ∧ (setBusy b s).nextSample = s.nextSample ∧
    (setBusy b s).airflow = s.airflow ∧ (setBusy b s).aboveCount = s.aboveCount ∧
    (setBusy b s).withinCount = s.withinCount ∧ (setBusy b s).thermostat = s.thermostat ∧
    (setBusy b s).comp = s.comp ∧ (setBusy b s).fallback = s.fallback ∧ (setBusy b s).defrost = s.defrost ∧
    (setBusy b s).runTime = s.runTime ∧ (setBusy b s).runSecond = s.runSecond ∧ (setBusy b s).zone = s.zone ∧
    (setBusy b s).exposure = s.exposure ∧ (setBusy b s).store = s.store ∧ (setBusy b s).live = s.live ∧
    (setBusy b s).snap = s.snap := by
  and_intros <;> rfl

@[simp] theorem reach_frame (s : State) (moment : Nat) :
    (s.reach moment).pending = s.pending ∧ (s.reach moment).ready = s.ready ∧ (s.reach moment).pfail = s.pfail ∧
    (s.reach moment).reason = s.reason ∧ (s.reach moment).storeLost = s.storeLost ∧ (s.reach moment).mem = s.mem ∧
    (s.reach moment).dataOut = s.dataOut ∧ (s.reach moment).reading = s.reading ∧
    (s.reach moment).refused = s.refused ∧ (s.reach moment).intake = s.intake ∧
    (s.reach moment).noticePending = s.noticePending ∧ (s.reach moment).noticeMask = s.noticeMask ∧
    (s.reach moment).sup = s.sup ∧ (s.reach moment).door = s.door ∧ (s.reach moment).spirals = s.spirals ∧
    (s.reach moment).moneySet = s.moneySet ∧ (s.reach moment).vendSet = s.vendSet ∧
    (s.reach moment).loadSet = s.loadSet ∧ (s.reach moment).portSet = s.portSet ∧
    (s.reach moment).coolSet = s.coolSet ∧ (s.reach moment).channels = s.channels ∧ (s.reach moment).tubes = s.tubes ∧
    (s.reach moment).credit = s.credit ∧ (s.reach moment).held = s.held ∧ (s.reach moment).exactOnly = s.exactOnly ∧
    (s.reach moment).guaranteed = s.guaranteed ∧ (s.reach moment).vendQueue = s.vendQueue ∧
    (s.reach moment).flight = s.flight ∧ (s.reach moment).basket = s.basket ∧
    (s.reach moment).driveFaulted = s.driveFaulted ∧ (s.reach moment).rev = s.rev ∧
    (s.reach moment).camLevel = s.camLevel ∧ (s.reach moment).offCheck = s.offCheck ∧ (s.reach moment).drop = s.drop ∧
    (s.reach moment).payQueue = s.payQueue ∧ (s.reach moment).returnMark = s.returnMark ∧
    (s.reach moment).payout = s.payout ∧ (s.reach moment).ejectors = s.ejectors ∧
    (s.reach moment).spent = s.spent ∧ (s.reach moment).missedAt = s.missedAt ∧ (s.reach moment).waiting = s.waiting ∧
    (s.reach moment).grants = s.grants ∧ (s.reach moment).cabA = s.cabA ∧ (s.reach moment).cabB = s.cabB ∧
    (s.reach moment).evap = s.evap ∧ (s.reach moment).nextSample = s.nextSample ∧
    (s.reach moment).airflow = s.airflow ∧ (s.reach moment).aboveCount = s.aboveCount ∧
    (s.reach moment).withinCount = s.withinCount ∧ (s.reach moment).thermostat = s.thermostat ∧
    (s.reach moment).comp = s.comp ∧ (s.reach moment).fallback = s.fallback ∧ (s.reach moment).defrost = s.defrost ∧
    (s.reach moment).runTime = s.runTime ∧ (s.reach moment).runSecond = s.runSecond ∧ (s.reach moment).zone = s.zone ∧
    (s.reach moment).exposure = s.exposure ∧ (s.reach moment).store = s.store ∧ (s.reach moment).live = s.live ∧
    (s.reach moment).snap = s.snap := by
  and_intros <;> rfl

@[simp] theorem wait_frame (s : State) (ms : Nat) :
    (s.wait ms).pending = s.pending ∧ (s.wait ms).ready = s.ready ∧ (s.wait ms).pfail = s.pfail ∧
    (s.wait ms).reason = s.reason ∧ (s.wait ms).storeLost = s.storeLost ∧ (s.wait ms).mem = s.mem ∧
    (s.wait ms).dataOut = s.dataOut ∧ (s.wait ms).reading = s.reading ∧ (s.wait ms).refused = s.refused ∧
    (s.wait ms).intake = s.intake ∧ (s.wait ms).noticePending = s.noticePending ∧
    (s.wait ms).noticeMask = s.noticeMask ∧ (s.wait ms).sup = s.sup ∧ (s.wait ms).door = s.door ∧
    (s.wait ms).spirals = s.spirals ∧ (s.wait ms).moneySet = s.moneySet ∧ (s.wait ms).vendSet = s.vendSet ∧
    (s.wait ms).loadSet = s.loadSet ∧ (s.wait ms).portSet = s.portSet ∧ (s.wait ms).coolSet = s.coolSet ∧
    (s.wait ms).channels = s.channels ∧ (s.wait ms).tubes = s.tubes ∧ (s.wait ms).credit = s.credit ∧
    (s.wait ms).held = s.held ∧ (s.wait ms).exactOnly = s.exactOnly ∧ (s.wait ms).guaranteed = s.guaranteed ∧
    (s.wait ms).vendQueue = s.vendQueue ∧ (s.wait ms).flight = s.flight ∧ (s.wait ms).basket = s.basket ∧
    (s.wait ms).driveFaulted = s.driveFaulted ∧ (s.wait ms).rev = s.rev ∧ (s.wait ms).camLevel = s.camLevel ∧
    (s.wait ms).offCheck = s.offCheck ∧ (s.wait ms).drop = s.drop ∧ (s.wait ms).payQueue = s.payQueue ∧
    (s.wait ms).returnMark = s.returnMark ∧ (s.wait ms).payout = s.payout ∧ (s.wait ms).ejectors = s.ejectors ∧
    (s.wait ms).spent = s.spent ∧ (s.wait ms).missedAt = s.missedAt ∧ (s.wait ms).waiting = s.waiting ∧
    (s.wait ms).grants = s.grants ∧
    (s.wait ms).cabA = s.cabA ∧ (s.wait ms).cabB = s.cabB ∧ (s.wait ms).evap = s.evap ∧
    (s.wait ms).nextSample = s.nextSample ∧ (s.wait ms).airflow = s.airflow ∧ (s.wait ms).aboveCount = s.aboveCount ∧
    (s.wait ms).withinCount = s.withinCount ∧ (s.wait ms).thermostat = s.thermostat ∧ (s.wait ms).comp = s.comp ∧
    (s.wait ms).fallback = s.fallback ∧ (s.wait ms).defrost = s.defrost ∧ (s.wait ms).runTime = s.runTime ∧
    (s.wait ms).runSecond = s.runSecond ∧ (s.wait ms).zone = s.zone ∧ (s.wait ms).exposure = s.exposure ∧
    (s.wait ms).store = s.store ∧ (s.wait ms).live = s.live ∧ (s.wait ms).snap = s.snap := by
  and_intros <;> rfl

@[simp] theorem beginSave_frame (s : State) :
    (beginSave s).pending = s.pending ∧ (beginSave s).now = s.now ∧ (beginSave s).ready = s.ready ∧
    (beginSave s).pfail = s.pfail ∧ (beginSave s).reason = s.reason ∧ (beginSave s).storeLost = s.storeLost ∧
    (beginSave s).mem = s.mem ∧ (beginSave s).dataOut = s.dataOut ∧ (beginSave s).reading = s.reading ∧
    (beginSave s).refused = s.refused ∧ (beginSave s).intake = s.intake ∧
    (beginSave s).noticePending = s.noticePending ∧ (beginSave s).noticeMask = s.noticeMask ∧
    (beginSave s).sup = s.sup ∧ (beginSave s).door = s.door ∧ (beginSave s).spirals = s.spirals ∧
    (beginSave s).moneySet = s.moneySet ∧ (beginSave s).vendSet = s.vendSet ∧ (beginSave s).loadSet = s.loadSet ∧
    (beginSave s).portSet = s.portSet ∧ (beginSave s).coolSet = s.coolSet ∧ (beginSave s).channels = s.channels ∧
    (beginSave s).tubes = s.tubes ∧ (beginSave s).credit = s.credit ∧ (beginSave s).held = s.held ∧
    (beginSave s).exactOnly = s.exactOnly ∧ (beginSave s).guaranteed = s.guaranteed ∧
    (beginSave s).vendQueue = s.vendQueue ∧ (beginSave s).flight = s.flight ∧ (beginSave s).basket = s.basket ∧
    (beginSave s).driveFaulted = s.driveFaulted ∧ (beginSave s).rev = s.rev ∧ (beginSave s).camLevel = s.camLevel ∧
    (beginSave s).offCheck = s.offCheck ∧ (beginSave s).drop = s.drop ∧ (beginSave s).payQueue = s.payQueue ∧
    (beginSave s).returnMark = s.returnMark ∧ (beginSave s).payout = s.payout ∧ (beginSave s).ejectors = s.ejectors ∧
    (beginSave s).spent = s.spent ∧ (beginSave s).missedAt = s.missedAt ∧ (beginSave s).waiting = s.waiting ∧
    (beginSave s).grants = s.grants ∧
    (beginSave s).cabA = s.cabA ∧ (beginSave s).cabB = s.cabB ∧ (beginSave s).evap = s.evap ∧
    (beginSave s).nextSample = s.nextSample ∧ (beginSave s).airflow = s.airflow ∧
    (beginSave s).aboveCount = s.aboveCount ∧ (beginSave s).withinCount = s.withinCount ∧
    (beginSave s).thermostat = s.thermostat ∧ (beginSave s).comp = s.comp ∧ (beginSave s).fallback = s.fallback ∧
    (beginSave s).defrost = s.defrost ∧ (beginSave s).runTime = s.runTime ∧ (beginSave s).runSecond = s.runSecond ∧
    (beginSave s).zone = s.zone ∧ (beginSave s).exposure = s.exposure ∧ (beginSave s).live = s.live ∧
    (beginSave s).snap = s.snap := by
  and_intros <;> rfl

@[simp] theorem requestSave_frame (s : State) :
    (requestSave s).pending = s.pending ∧ (requestSave s).now = s.now ∧ (requestSave s).ready = s.ready ∧
    (requestSave s).pfail = s.pfail ∧ (requestSave s).reason = s.reason ∧ (requestSave s).storeLost = s.storeLost ∧
    (requestSave s).mem = s.mem ∧ (requestSave s).dataOut = s.dataOut ∧ (requestSave s).reading = s.reading ∧
    (requestSave s).refused = s.refused ∧ (requestSave s).intake = s.intake ∧
    (requestSave s).noticePending = s.noticePending ∧ (requestSave s).noticeMask = s.noticeMask ∧
    (requestSave s).sup = s.sup ∧ (requestSave s).door = s.door ∧ (requestSave s).spirals = s.spirals ∧
    (requestSave s).moneySet = s.moneySet ∧ (requestSave s).vendSet = s.vendSet ∧
    (requestSave s).loadSet = s.loadSet ∧ (requestSave s).portSet = s.portSet ∧ (requestSave s).coolSet = s.coolSet ∧
    (requestSave s).channels = s.channels ∧ (requestSave s).tubes = s.tubes ∧ (requestSave s).credit = s.credit ∧
    (requestSave s).held = s.held ∧ (requestSave s).exactOnly = s.exactOnly ∧
    (requestSave s).guaranteed = s.guaranteed ∧ (requestSave s).vendQueue = s.vendQueue ∧
    (requestSave s).flight = s.flight ∧ (requestSave s).basket = s.basket ∧
    (requestSave s).driveFaulted = s.driveFaulted ∧ (requestSave s).rev = s.rev ∧
    (requestSave s).camLevel = s.camLevel ∧ (requestSave s).offCheck = s.offCheck ∧ (requestSave s).drop = s.drop ∧
    (requestSave s).payQueue = s.payQueue ∧ (requestSave s).returnMark = s.returnMark ∧
    (requestSave s).payout = s.payout ∧ (requestSave s).ejectors = s.ejectors ∧
    (requestSave s).spent = s.spent ∧ (requestSave s).missedAt = s.missedAt ∧ (requestSave s).waiting = s.waiting ∧
    (requestSave s).grants = s.grants ∧
    (requestSave s).cabA = s.cabA ∧ (requestSave s).cabB = s.cabB ∧ (requestSave s).evap = s.evap ∧
    (requestSave s).nextSample = s.nextSample ∧ (requestSave s).airflow = s.airflow ∧
    (requestSave s).aboveCount = s.aboveCount ∧ (requestSave s).withinCount = s.withinCount ∧
    (requestSave s).thermostat = s.thermostat ∧ (requestSave s).comp = s.comp ∧
    (requestSave s).fallback = s.fallback ∧ (requestSave s).defrost = s.defrost ∧
    (requestSave s).runTime = s.runTime ∧ (requestSave s).runSecond = s.runSecond ∧ (requestSave s).zone = s.zone ∧
    (requestSave s).exposure = s.exposure ∧ (requestSave s).live = s.live ∧ (requestSave s).snap = s.snap := by
  unfold requestSave; split <;> simp

@[simp] theorem completeOk_frame (slot : Nat) (s : State) :
    (completeOk slot s).pending = s.pending ∧ (completeOk slot s).now = s.now ∧ (completeOk slot s).ready = s.ready ∧
    (completeOk slot s).pfail = s.pfail ∧ (completeOk slot s).reason = s.reason ∧
    (completeOk slot s).storeLost = s.storeLost ∧ (completeOk slot s).dataOut = s.dataOut ∧
    (completeOk slot s).reading = s.reading ∧ (completeOk slot s).refused = s.refused ∧
    (completeOk slot s).intake = s.intake ∧ (completeOk slot s).noticeMask = s.noticeMask ∧
    (completeOk slot s).sup = s.sup ∧ (completeOk slot s).door = s.door ∧ (completeOk slot s).spirals = s.spirals ∧
    (completeOk slot s).moneySet = s.moneySet ∧ (completeOk slot s).vendSet = s.vendSet ∧
    (completeOk slot s).loadSet = s.loadSet ∧ (completeOk slot s).portSet = s.portSet ∧
    (completeOk slot s).coolSet = s.coolSet ∧ (completeOk slot s).channels = s.channels ∧
    (completeOk slot s).tubes = s.tubes ∧ (completeOk slot s).credit = s.credit ∧ (completeOk slot s).held = s.held ∧
    (completeOk slot s).exactOnly = s.exactOnly ∧ (completeOk slot s).guaranteed = s.guaranteed ∧
    (completeOk slot s).vendQueue = s.vendQueue ∧ (completeOk slot s).flight = s.flight ∧
    (completeOk slot s).basket = s.basket ∧ (completeOk slot s).driveFaulted = s.driveFaulted ∧
    (completeOk slot s).rev = s.rev ∧ (completeOk slot s).camLevel = s.camLevel ∧
    (completeOk slot s).offCheck = s.offCheck ∧ (completeOk slot s).drop = s.drop ∧
    (completeOk slot s).payQueue = s.payQueue ∧ (completeOk slot s).returnMark = s.returnMark ∧
    (completeOk slot s).payout = s.payout ∧ (completeOk slot s).ejectors = s.ejectors ∧
    (completeOk slot s).spent = s.spent ∧ (completeOk slot s).missedAt = s.missedAt ∧
    (completeOk slot s).waiting = s.waiting ∧
    (completeOk slot s).grants = s.grants ∧ (completeOk slot s).cabA = s.cabA ∧ (completeOk slot s).cabB = s.cabB ∧
    (completeOk slot s).evap = s.evap ∧ (completeOk slot s).nextSample = s.nextSample ∧
    (completeOk slot s).airflow = s.airflow ∧ (completeOk slot s).aboveCount = s.aboveCount ∧
    (completeOk slot s).withinCount = s.withinCount ∧ (completeOk slot s).thermostat = s.thermostat ∧
    (completeOk slot s).comp = s.comp ∧ (completeOk slot s).fallback = s.fallback ∧
    (completeOk slot s).defrost = s.defrost ∧ (completeOk slot s).runTime = s.runTime ∧
    (completeOk slot s).runSecond = s.runSecond ∧ (completeOk slot s).zone = s.zone ∧
    (completeOk slot s).exposure = s.exposure ∧ (completeOk slot s).live = s.live ∧ (completeOk slot s).snap = s.snap := by
  unfold completeOk; simp

@[simp] theorem recomputeChange_frame (s : State) :
    (recomputeChange s).pending = s.pending ∧ (recomputeChange s).now = s.now ∧ (recomputeChange s).ready = s.ready ∧
    (recomputeChange s).pfail = s.pfail ∧ (recomputeChange s).reason = s.reason ∧
    (recomputeChange s).storeLost = s.storeLost ∧ (recomputeChange s).mem = s.mem ∧
    (recomputeChange s).dataOut = s.dataOut ∧ (recomputeChange s).reading = s.reading ∧
    (recomputeChange s).refused = s.refused ∧ (recomputeChange s).intake = s.intake ∧
    (recomputeChange s).noticeMask = s.noticeMask ∧ (recomputeChange s).sup = s.sup ∧
    (recomputeChange s).door = s.door ∧ (recomputeChange s).spirals = s.spirals ∧
    (recomputeChange s).moneySet = s.moneySet ∧ (recomputeChange s).vendSet = s.vendSet ∧
    (recomputeChange s).loadSet = s.loadSet ∧ (recomputeChange s).portSet = s.portSet ∧
    (recomputeChange s).coolSet = s.coolSet ∧ (recomputeChange s).channels = s.channels ∧
    (recomputeChange s).tubes = s.tubes ∧ (recomputeChange s).credit = s.credit ∧ (recomputeChange s).held = s.held ∧
    (recomputeChange s).vendQueue = s.vendQueue ∧ (recomputeChange s).flight = s.flight ∧
    (recomputeChange s).basket = s.basket ∧ (recomputeChange s).driveFaulted = s.driveFaulted ∧
    (recomputeChange s).rev = s.rev ∧ (recomputeChange s).camLevel = s.camLevel ∧
    (recomputeChange s).offCheck = s.offCheck ∧ (recomputeChange s).drop = s.drop ∧
    (recomputeChange s).payQueue = s.payQueue ∧ (recomputeChange s).returnMark = s.returnMark ∧
    (recomputeChange s).payout = s.payout ∧ (recomputeChange s).ejectors = s.ejectors ∧
    (recomputeChange s).spent = s.spent ∧ (recomputeChange s).missedAt = s.missedAt ∧
    (recomputeChange s).waiting = s.waiting ∧
    (recomputeChange s).grants = s.grants ∧ (recomputeChange s).cabA = s.cabA ∧ (recomputeChange s).cabB = s.cabB ∧
    (recomputeChange s).evap = s.evap ∧ (recomputeChange s).nextSample = s.nextSample ∧
    (recomputeChange s).airflow = s.airflow ∧ (recomputeChange s).aboveCount = s.aboveCount ∧
    (recomputeChange s).withinCount = s.withinCount ∧ (recomputeChange s).thermostat = s.thermostat ∧
    (recomputeChange s).comp = s.comp ∧ (recomputeChange s).fallback = s.fallback ∧
    (recomputeChange s).defrost = s.defrost ∧ (recomputeChange s).runTime = s.runTime ∧
    (recomputeChange s).runSecond = s.runSecond ∧ (recomputeChange s).zone = s.zone ∧
    (recomputeChange s).exposure = s.exposure ∧ (recomputeChange s).store = s.store ∧
    (recomputeChange s).live = s.live ∧ (recomputeChange s).snap = s.snap := by
  unfold recomputeChange; dsimp only; split <;> simp

@[simp] theorem handOverPlan_frame (p : Plan) (s : State) :
    (handOverPlan p s).pending = s.pending ∧ (handOverPlan p s).now = s.now ∧ (handOverPlan p s).ready = s.ready ∧
    (handOverPlan p s).pfail = s.pfail ∧ (handOverPlan p s).reason = s.reason ∧
    (handOverPlan p s).storeLost = s.storeLost ∧ (handOverPlan p s).mem = s.mem ∧
    (handOverPlan p s).dataOut = s.dataOut ∧ (handOverPlan p s).reading = s.reading ∧
    (handOverPlan p s).refused = s.refused ∧ (handOverPlan p s).intake = s.intake ∧
    (handOverPlan p s).noticeMask = s.noticeMask ∧ (handOverPlan p s).sup = s.sup ∧ (handOverPlan p s).door = s.door ∧
    (handOverPlan p s).spirals = s.spirals ∧ (handOverPlan p s).moneySet = s.moneySet ∧
    (handOverPlan p s).vendSet = s.vendSet ∧ (handOverPlan p s).loadSet = s.loadSet ∧
    (handOverPlan p s).portSet = s.portSet ∧ (handOverPlan p s).coolSet = s.coolSet ∧
    (handOverPlan p s).channels = s.channels ∧ (handOverPlan p s).tubes = s.tubes ∧
    (handOverPlan p s).credit = s.credit ∧ (handOverPlan p s).held = s.held ∧
    (handOverPlan p s).exactOnly = s.exactOnly ∧ (handOverPlan p s).guaranteed = s.guaranteed ∧
    (handOverPlan p s).vendQueue = s.vendQueue ∧ (handOverPlan p s).flight = s.flight ∧
    (handOverPlan p s).basket = s.basket ∧ (handOverPlan p s).driveFaulted = s.driveFaulted ∧
    (handOverPlan p s).rev = s.rev ∧ (handOverPlan p s).camLevel = s.camLevel ∧
    (handOverPlan p s).offCheck = s.offCheck ∧ (handOverPlan p s).drop = s.drop ∧
    (handOverPlan p s).payQueue = s.payQueue ∧ (handOverPlan p s).returnMark = s.returnMark ∧
    (handOverPlan p s).payout = s.payout ∧ (handOverPlan p s).ejectors = s.ejectors ∧
    (handOverPlan p s).spent = s.spent ∧ (handOverPlan p s).missedAt = s.missedAt ∧ (handOverPlan p s).waiting = s.waiting ∧
    (handOverPlan p s).grants = s.grants ∧ (handOverPlan p s).cabA = s.cabA ∧ (handOverPlan p s).cabB = s.cabB ∧
    (handOverPlan p s).evap = s.evap ∧ (handOverPlan p s).nextSample = s.nextSample ∧
    (handOverPlan p s).airflow = s.airflow ∧ (handOverPlan p s).aboveCount = s.aboveCount ∧
    (handOverPlan p s).withinCount = s.withinCount ∧ (handOverPlan p s).thermostat = s.thermostat ∧
    (handOverPlan p s).comp = s.comp ∧ (handOverPlan p s).fallback = s.fallback ∧
    (handOverPlan p s).defrost = s.defrost ∧ (handOverPlan p s).runTime = s.runTime ∧
    (handOverPlan p s).runSecond = s.runSecond ∧ (handOverPlan p s).zone = s.zone ∧
    (handOverPlan p s).exposure = s.exposure ∧ (handOverPlan p s).store = s.store ∧ (handOverPlan p s).live = s.live ∧
    (handOverPlan p s).snap = s.snap := by
  unfold handOverPlan; split <;> simp

@[simp] theorem putZone_frame (z : ZoneState) (e : Nat) (s : State) :
    (putZone z e s).pending = s.pending ∧ (putZone z e s).now = s.now ∧ (putZone z e s).ready = s.ready ∧
    (putZone z e s).pfail = s.pfail ∧ (putZone z e s).reason = s.reason ∧ (putZone z e s).storeLost = s.storeLost ∧
    (putZone z e s).mem = s.mem ∧ (putZone z e s).dataOut = s.dataOut ∧ (putZone z e s).reading = s.reading ∧
    (putZone z e s).refused = s.refused ∧ (putZone z e s).intake = s.intake ∧
    (putZone z e s).noticeMask = s.noticeMask ∧ (putZone z e s).sup = s.sup ∧ (putZone z e s).door = s.door ∧
    (putZone z e s).spirals = s.spirals ∧ (putZone z e s).moneySet = s.moneySet ∧
    (putZone z e s).vendSet = s.vendSet ∧ (putZone z e s).loadSet = s.loadSet ∧ (putZone z e s).portSet = s.portSet ∧
    (putZone z e s).coolSet = s.coolSet ∧ (putZone z e s).channels = s.channels ∧ (putZone z e s).tubes = s.tubes ∧
    (putZone z e s).credit = s.credit ∧ (putZone z e s).held = s.held ∧ (putZone z e s).exactOnly = s.exactOnly ∧
    (putZone z e s).guaranteed = s.guaranteed ∧ (putZone z e s).vendQueue = s.vendQueue ∧
    (putZone z e s).flight = s.flight ∧ (putZone z e s).basket = s.basket ∧
    (putZone z e s).driveFaulted = s.driveFaulted ∧ (putZone z e s).rev = s.rev ∧
    (putZone z e s).camLevel = s.camLevel ∧ (putZone z e s).offCheck = s.offCheck ∧ (putZone z e s).drop = s.drop ∧
    (putZone z e s).payQueue = s.payQueue ∧ (putZone z e s).returnMark = s.returnMark ∧
    (putZone z e s).payout = s.payout ∧ (putZone z e s).ejectors = s.ejectors ∧
    (putZone z e s).spent = s.spent ∧ (putZone z e s).missedAt = s.missedAt ∧ (putZone z e s).waiting = s.waiting ∧
    (putZone z e s).grants = s.grants ∧
    (putZone z e s).cabA = s.cabA ∧ (putZone z e s).cabB = s.cabB ∧ (putZone z e s).evap = s.evap ∧
    (putZone z e s).nextSample = s.nextSample ∧ (putZone z e s).airflow = s.airflow ∧
    (putZone z e s).aboveCount = s.aboveCount ∧ (putZone z e s).withinCount = s.withinCount ∧
    (putZone z e s).thermostat = s.thermostat ∧ (putZone z e s).comp = s.comp ∧
    (putZone z e s).fallback = s.fallback ∧ (putZone z e s).defrost = s.defrost ∧
    (putZone z e s).runTime = s.runTime ∧ (putZone z e s).runSecond = s.runSecond ∧ (putZone z e s).store = s.store ∧
    (putZone z e s).live = s.live ∧ (putZone z e s).snap = s.snap := by
  unfold putZone; dsimp only; split <;> simp

/-- The flag is set or cleared on every record of a selection: nothing but the table and the notices changes. -/
theorem setInFlight_frame (b : Bool) : ∀ (l : List (Fin 80)) (s : State), ∃ v n,
    setInFlight b l s = { s with spirals := v, noticePending := n }
  | [], s => ⟨s.spirals, s.noticePending, rfl⟩
  | i :: rest, s => by
    obtain ⟨v, n, h⟩ := setInFlight_frame b rest (putSpiral i { s.spirals[i] with inFlight := b } s)
    refine ⟨v, n, ?_⟩
    rw [setInFlight, h]
    unfold putSpiral
    dsimp only
    split
    · rfl
    · unfold raise; split <;> rfl

/-! ## The fields an operation writes -/

@[simp] theorem raise_noticePending (c : NoticeClass) (s : State) :
    (raise c s).noticePending = if s.ready then s.noticePending ||| c.bit else s.noticePending := by
  unfold raise; split <;> rfl

@[simp] theorem countRefused_refused (s : State) : (countRefused s).refused = min 255 (s.refused + 1) := by
  unfold countRefused; simp

@[simp] theorem count_live (c : Counter) (n : Nat) (s : State) :
    (count c n s).live = s.live.set c.index (s.live[c.index] + BitVec.ofNat 32 n) := rfl

@[simp] theorem putCredit_credit (c h : Nat) (s : State) : (putCredit c h s).credit = c := by
  unfold putCredit; simp

@[simp] theorem putCredit_held (c h : Nat) (s : State) : (putCredit c h s).held = h := by
  unfold putCredit; simp

@[simp] theorem putSpiral_spirals (i : Fin 80) (r : Spiral) (s : State) :
    (putSpiral i r s).spirals = s.spirals.set i r := by
  unfold putSpiral; dsimp only; split <;> simp

@[simp] theorem putSlot_mem (s : State) (slot off : Nat) (bytes : List Byte) :
    (s.putSlot slot off bytes).mem = writeCells s.mem (slotAddr slot off) bytes := rfl

@[simp] theorem putTube_tubes (t : Fin 4) (r : Tube) (s : State) : (putTube t r s).tubes = s.tubes.set t r := rfl

@[simp] theorem setBusy_tubes (b : Bool) (s : State) :
    (setBusy b s).tubes = s.tubes.map fun t => { t with busy := b } := rfl

@[simp] theorem reach_now (s : State) (moment : Nat) : (s.reach moment).now = max s.now moment := rfl

@[simp] theorem wait_now (s : State) (ms : Nat) : (s.wait ms).now = s.now + ms := rfl

@[simp] theorem recomputeChange_exactOnly (s : State) :
    (recomputeChange s).exactOnly = exactChangeFlag s.tubes s.moneySet.guaranteeLimit := by
  unfold recomputeChange; dsimp only; split <;> simp

@[simp] theorem recomputeChange_guaranteed (s : State) :
    (recomputeChange s).guaranteed = guaranteedAmount s.tubes s.moneySet.guaranteeLimit := by
  unfold recomputeChange; dsimp only; split <;> simp

@[simp] theorem putZone_zone (z : ZoneState) (e : Nat) (s : State) : (putZone z e s).zone = z := by
  unfold putZone; dsimp only; split <;> simp

@[simp] theorem putZone_exposure (z : ZoneState) (e : Nat) (s : State) : (putZone z e s).exposure = e := by
  unfold putZone; dsimp only; split <;> simp

/-- What the count of a run's whole seconds can change: the accumulator, the next second and the state of the defrost. -/
theorem settleRun_eq (s : State) :
    settleRun s = { s with runTime := (settleRun s).runTime, runSecond := (settleRun s).runSecond,
                           defrost := (settleRun s).defrost } := by
  unfold settleRun callIfReached callDefrost
  repeat' split
  all_goals rfl

/-- A run whose next second is still to come counts nothing more. -/
theorem settleRun_of_ahead {s : State} (h : ∀ m ∈ s.runSecond, s.now < m) : settleRun s = s := by
  cases hr : s.runSecond with
  | none => simp [settleRun, State.secondsDue, hr]
  | some m =>
    have := h m (by rw [hr]; rfl)
    simp [settleRun, State.secondsDue, hr]
    omega

/-- A save request, once for all: the pending-save mark while a save is in progress, otherwise a save that begins now,
captures the records and ends within 200 ms (R178, R179). -/
theorem requestSave_cases (s : State) :
    (s.store.state = .saving ∧ requestSave s = { s with store := { s.store with mark := true } }) ∨
    (s.store.state ≠ .saving ∧ requestSave s = { s with store :=
      { s.store with state := .saving, stored := { s.store.stored with incomplete := true },
                     capture := some s.image, ends := some (s.now + 200), heldStore := s.store.heldStore.map HeldSave.cover,
                     heldSnapshot := s.store.heldSnapshot.map HeldSave.cover } }) := by
  unfold requestSave
  split
  · exact .inl ⟨‹_›, rfl⟩
  · exact .inr ⟨‹_›, rfl⟩

end Sys2Proof.Machine
end

