-- ==== Sys2Proof/Laws/Cards.lean ====
section
/-! SUPPORT. A card from its take to its completion: what the bytes of its slot read, and what stays as it was. -/

namespace Sys2Proof.Machine

theorem Holder.code_lt (h : Holder) : h.code < 256 := by cases h <;> decide

theorem CardOutcome.code_lt (o : CardOutcome) : o.code < 65536 := by cases o <;> decide

theorem leBytes_length : ∀ (size value : Nat), (leBytes value size).length = size
  | 0, _ => rfl
  | size + 1, value => by simp [leBytes, leBytes_length size]

/-- A 2-byte field that has been written reads back. -/
theorem slotHalf_of_bytes {s : State} {slot off n : Nat} (hn : n < 65536)
    (h0 : readCell s.mem (slotAddr slot off) = BitVec.ofNat 8 n)
    (h1 : readCell s.mem (slotAddr slot (off + 1)) = BitVec.ofNat 8 (n / 256)) : s.slotHalf slot off = n := by
  simp only [State.slotHalf, State.slotByte, h0, h1, BitVec.toNat_ofNat]
  omega

theorem holder_of_byte {s : State} {slot : Nat} {h : Holder}
    (h0 : readCell s.mem (slotAddr slot 0) = BitVec.ofNat 8 h.code) : s.holder slot = h := by
  simp only [State.holder, State.slotByte, h0]
  cases h <;> rfl

/-! ## The take -/

/-- What a take leaves in the stored bytes (R29). -/
theorem readCell_takeSlot {s : State} (hm : Memory.wf s.mem = true) (slot a : Nat) :
    readCell (takeSlot slot s).mem a =
      if a = slotAddr slot 0 then 2
      else if (slotAddr slot 6 ≤ a ∧ a < slotAddr slot 8) ∨ (slotAddr slot 40 ≤ a ∧ a < slotAddr slot 64) then 0
      else readCell s.mem a := by
  unfold takeSlot
  rw [readCell_putSlot (putSlot_wf (setHolder_wf hm _ _) _ _ _), readCell_putSlot (setHolder_wf hm _ _),
    State.setHolder, readCell_putSlot hm]
  simp only [List.length_replicate, List.length_cons, List.length_nil]
  by_cases h1 : a = slotAddr slot 0
  · subst h1
    rw [if_neg (by simp only [slotAddr]; omega), if_neg (by simp only [slotAddr]; omega), if_pos (by omega), if_pos rfl]
    simp [Holder.code]
  · rw [if_neg h1]
    by_cases h2 : slotAddr slot 40 ≤ a ∧ a < slotAddr slot 40 + 24
    · rw [if_pos h2, if_pos (by simp only [slotAddr] at *; omega)]
      rw [List.getD_eq_getElem?_getD, List.getElem?_replicate]
      split <;> rfl
    · rw [if_neg h2]
      by_cases h3 : slotAddr slot 6 ≤ a ∧ a < slotAddr slot 6 + (0 + 1 + 1)
      · rw [if_pos h3, if_pos (by simp only [slotAddr] at *; omega)]
        obtain h | h : a - slotAddr slot 6 = 0 ∨ a - slotAddr slot 6 = 1 := by omega
        all_goals rw [h]; rfl
      · rw [if_neg h3, if_neg (by simp only [slotAddr] at *; omega), if_neg (by simp only [slotAddr] at *; omega)]

theorem takeHead_mem (slot : Nat) (s : State) : (takeHead slot s).mem = (takeSlot slot s).mem := by
  simp [takeHead, takeSlot, State.setHolder]

theorem takeHead_wf {s : State} (hm : Memory.wf s.mem = true) (slot : Nat) : Memory.wf (takeHead slot s).mem = true := by
  rw [takeHead_mem]; exact takeSlot_wf hm slot

/-- The dispatcher's take: the list loses its head, and only the slot's own bytes change. -/
theorem takeHead_eq (slot : Nat) (s : State) :
    takeHead slot s = { s with intake := s.intake.drop 1, mem := (takeSlot slot s).mem } := by
  simp [takeHead, takeSlot, State.setHolder, State.putSlot]

/-- A byte that a take does not write reads as before. -/
theorem readCell_takeHead_kept {s : State} (hm : Memory.wf s.mem = true) {slot a : Nat} (h : ¬ cardByte slot a) :
    readCell (takeHead slot s).mem a = readCell s.mem a := by
  rw [takeHead_mem, readCell_takeSlot hm, if_neg (fun e => h (.inl e)), if_neg (fun e => h (.inr e))]

theorem not_cardByte_of_request {slot off : Nat} (h : (1 ≤ off ∧ off < 6) ∨ (8 ≤ off ∧ off < 40)) :
    ¬ cardByte slot (slotAddr slot off) := by
  simp only [cardByte, slotAddr]; omega

/-- The header and the request body of a card read after its take as before. -/
theorem slotByte_takeHead {s : State} (hm : Memory.wf s.mem = true) {slot off : Nat}
    (h : (1 ≤ off ∧ off < 6) ∨ (8 ≤ off ∧ off < 40)) : (takeHead slot s).slotByte slot off = s.slotByte slot off := by
  simp only [State.slotByte, readCell_takeHead_kept hm (not_cardByte_of_request h)]

/-- A taken card stands TAKEN, its outcome NONE and its result body zero. -/
theorem takeHead_taken {s : State} (hm : Memory.wf s.mem = true) (slot : Nat) : (takeHead slot s).takenIn slot := by
  refine ⟨holder_of_byte ?_, slotHalf_of_bytes (by decide) ?_ ?_, fun i hi => ?_⟩ <;>
    rw [takeHead_mem, readCell_takeSlot hm]
  · rw [if_pos rfl]; rfl
  · rw [if_neg (by simp [slotAddr]), if_pos (by simp [slotAddr])]; rfl
  · rw [if_neg (by simp [slotAddr]), if_pos (by simp [slotAddr])]; rfl
  · rw [if_neg (by simp only [slotAddr]; omega), if_pos (by simp only [slotAddr]; omega)]

/-! ## The request body -/

/-- The request bodies of two states agree in a slot. -/
def sameRequest (s t : State) (slot : Nat) : Prop := ∀ off, 8 ≤ off → off < 40 → t.slotByte slot off = s.slotByte slot off

theorem sameRequest_takeHead {s : State} (hm : Memory.wf s.mem = true) (slot : Nat) :
    sameRequest s (takeHead slot s) slot := fun _ h1 h2 => slotByte_takeHead hm (.inr ⟨h1, h2⟩)

/-- What a card asks for is read from its request body alone. -/
theorem request_congr {s t : State} {slot : Nat} (h : sameRequest s t slot) :
    t.spiralRequest slot = s.spiralRequest slot ∧ t.channelRequest slot = s.channelRequest slot ∧
    t.tubeRequest slot = s.tubeRequest slot ∧ t.moneyRequest slot = s.moneyRequest slot ∧
    t.vendRequest slot = s.vendRequest slot ∧ t.loadRequest slot = s.loadRequest slot ∧
    t.portRequest slot = s.portRequest slot ∧ t.coolingRequest slot = s.coolingRequest slot ∧
    t.payoutCoins slot = s.payoutCoins slot := by
  have hb := fun off h1 h2 => h off h1 h2
  refine ⟨?_, ?_, ?_, ?_, ?_, ?_, ?_, ?_, ?_⟩ <;>
    simp (disch := omega) [State.spiralRequest, State.channelRequest, State.tubeRequest, State.moneyRequest,
      State.vendRequest, State.loadRequest, State.portRequest, State.coolingRequest, State.payoutCoins, State.slotBit,
      State.slotHalf, State.slotSigned, hb]

/-! ## The completion -/

/-- What a completion leaves in the stored bytes (R29). -/
theorem readCell_complete {s : State} (hm : Memory.wf s.mem = true) (slot : Nat) (o : CardOutcome) (a : Nat) :
    readCell (complete slot o s).mem a =
      if a = slotAddr slot 0 then 3
      else if a = slotAddr slot 6 then BitVec.ofNat 8 o.code
      else if a = slotAddr slot 7 then BitVec.ofNat 8 (o.code / 256)
      else readCell s.mem a := by
  have key : (complete slot o s).mem = ((s.putSlot slot 6 (leBytes o.code 2)).setHolder slot .done).mem := by
    unfold complete; dsimp only; split <;> simp
  rw [key, State.setHolder, readCell_putSlot (putSlot_wf hm _ _ _), readCell_putSlot hm]
  simp only [leBytes_length, List.length_cons, List.length_nil]
  by_cases h1 : a = slotAddr slot 0
  · subst h1
    rw [if_pos (by omega), if_pos rfl]
    simp [Holder.code]
  · rw [if_neg (by omega), if_neg h1]
    by_cases h2 : a = slotAddr slot 6
    · subst h2
      rw [if_pos (by omega), if_pos rfl]
      simp [leBytes]
    · rw [if_neg h2]
      by_cases h3 : a = slotAddr slot 7
      · subst h3
        rw [if_pos (by simp only [slotAddr]; omega), if_pos rfl,
          show slotAddr slot 7 - slotAddr slot 6 = 1 by simp only [slotAddr]; omega]
        simp [leBytes]
      · rw [if_neg (by simp only [slotAddr] at *; omega), if_neg h3]

theorem complete_wf {s : State} (hm : Memory.wf s.mem = true) (slot : Nat) (o : CardOutcome) :
    Memory.wf (complete slot o s).mem = true := by
  unfold complete
  dsimp only
  split
  · exact setHolder_wf (putSlot_wf hm _ _ _) _ _
  · simp only [raise_frame]; exact setHolder_wf (putSlot_wf hm _ _ _) _ _

/-- A completion: the card's own bytes, and CARDS unless it is QUIET. -/
theorem complete_eq {s : State} (hm : Memory.wf s.mem = true) (hr : s.ready = true) (slot : Nat) (o : CardOutcome) :
    complete slot o s =
      { s with mem := (complete slot o s).mem, noticePending := s.noticePending ||| s.cardsBit slot } := by
  have hq : ((s.putSlot slot 6 (leBytes o.code 2)).setHolder slot .done).quiet slot = s.quiet slot := by
    simp only [State.quiet, State.slotByte, State.setHolder, readCell_putSlot (putSlot_wf hm _ _ _), readCell_putSlot hm]
    simp [slotAddr, leBytes_length]
  unfold complete State.cardsBit
  dsimp only
  rw [hq]
  split
  · simp [State.setHolder, State.putSlot]
  · simp [raise, State.setHolder, State.putSlot, hr]

/-- A card that is taken, given a result and completed: its bytes, and that no other byte changes. -/
theorem complete_takeHead {s : State} (hm : Memory.wf s.mem = true) (slot : Nat) (o : CardOutcome) (result : List Byte)
    (hl : result.length ≤ 24) {t : State} (ht : t.mem = ((takeHead slot s).putSlot slot 40 result).mem) :
    (complete slot o t).doneWith slot o result ∧ keepsBytes s (complete slot o t) (cardByte slot) := by
  have hm' : Memory.wf t.mem = true := by rw [ht]; exact putSlot_wf (takeHead_wf hm slot) _ _ _
  refine ⟨⟨holder_of_byte ?_, slotHalf_of_bytes o.code_lt ?_ ?_, fun i hi => ?_⟩, fun a ha => ?_⟩ <;>
    rw [readCell_complete hm']
  · rw [if_pos rfl]; rfl
  · rw [if_neg (by simp [slotAddr]), if_pos rfl]
  · rw [if_neg (by simp [slotAddr]), if_neg (by simp [slotAddr]), if_pos rfl]
  · rw [if_neg (by simp only [slotAddr]; omega), if_neg (by simp only [slotAddr]; omega),
      if_neg (by simp only [slotAddr]; omega), ht,
      readCell_putSlot (takeHead_wf hm slot), takeHead_mem, readCell_takeSlot hm]
    by_cases h : i < result.length
    · rw [if_pos (by simp only [slotAddr]; omega)]
      congr 1
      simp only [slotAddr]; omega
    · rw [if_neg (by simp only [slotAddr]; omega), if_neg (by simp only [slotAddr]; omega),
        if_pos (by simp only [slotAddr]; omega), List.getD_eq_default _ _ (by omega)]
  · have ha' := ha
    simp only [cardByte, slotAddr] at ha'
    rw [if_neg (by simp only [slotAddr]; omega), if_neg (by simp only [slotAddr]; omega),
      if_neg (by simp only [slotAddr]; omega), ht, readCell_putSlot (takeHead_wf hm slot), if_neg (by simp only [slotAddr]; omega),
      readCell_takeHead_kept hm ha]

/-! ## The dispatcher -/

/-- The dispatcher takes a valid head of the kind asked for and hands it on (R33). -/
theorem dispatch_valid {s : State} {k : CardKind} {slot : Nat} (h : s.validHead k slot) (handle : Nat → State → State) :
    dispatch k handle s = handle slot (takeHead slot s) := by
  obtain ⟨⟨_, hw, hi, hk⟩, hf⟩ := h
  simp [dispatch, State.headSlot, hw, hi, hk, hf]

end Sys2Proof.Machine
end

