-- ==== Sys2Proof/Laws/Load.lean ====
section
/-! SUPPORT. The load arbiter: what a judgement of the wait list can do while the spiral drive waits for nothing (R145). -/

namespace Sys2Proof.Machine

/-- The induction over the grants of one judgement, once for all: what every grant keeps, the whole judgement keeps. -/
theorem judgeHead_keeps {P : State → Prop}
    (grant : ∀ (judge : State → State), (∀ s, P s → P (judge s)) → ∀ s head rest, P s → s.waiting = head :: rest →
      s.pfail = .clear → s.granted + head.size ≤ s.loadSet.budget →
      P (onGrant judge head.claimant { s with waiting := rest, grants := s.grants ++ [head] })) :
    ∀ n s, P s → P (judgeHead n s)
  | 0, _, h => h
  | n + 1, s, h => by
    unfold judgeHead
    split
    · exact h
    · split
      · exact judgeHead_keeps grant n _
          (grant (judgeHead n) (judgeHead_keeps grant n) s _ _ h ‹_› (by simp_all) (by simp_all))
      · exact h

theorem judgeLoad_keeps {P : State → Prop}
    (grant : ∀ (judge : State → State), (∀ s, P s → P (judge s)) → ∀ s head rest, P s → s.waiting = head :: rest →
      s.pfail = .clear → s.granted + head.size ≤ s.loadSet.budget →
      P (onGrant judge head.claimant { s with waiting := rest, grants := s.grants ++ [head] }))
    {s : State} (h : P s) : P (judgeLoad s) := judgeHead_keeps grant _ _ h

/-- With nothing waiting, the judgement changes nothing. -/
theorem judgeLoad_of_empty {s : State} (h : s.waiting = []) : judgeLoad s = s := by
  simp [judgeLoad, judgeHead, h]

/-- A head that does not fit keeps every claim waiting. -/
theorem judgeLoad_of_full {s : State} (h : ∀ w ∈ s.waiting.head?, s.loadSet.budget < s.granted + w.size) :
    judgeLoad s = s := by
  unfold judgeLoad
  cases hw : s.waiting with
  | nil => rfl
  | cons head rest =>
    rw [hw] at h
    have := h head rfl
    simp only [List.length_cons, judgeHead, hw]
    rw [if_neg (by omega)]

/-- What a judgement may change while the spiral drive has no claim waiting. -/
structure Judged (s t : State) : Prop where
  frame : t = { s with waiting := t.waiting, grants := t.grants, comp := t.comp, runSecond := t.runSecond,
                       defrost := t.defrost, payout := t.payout, ejectors := t.ejectors, live := t.live,
                       tubes := t.tubes, mem := t.mem, noticePending := t.noticePending }
  noDrive : ∀ w ∈ t.waiting, w.claimant ≠ .drive
  driveGrant : t.hasGrant .drive = s.hasGrant .drive
  wf : Memory.wf s.mem = true → Memory.wf t.mem = true
  notices : s.noticePending ||| t.noticePending = t.noticePending
  live : ∀ i : Fin 26, i ≠ 18 → i ≠ 19 → t.live[i] = s.live[i]
  tubes : ∀ k : Fin 4, t.tubes[k] = { s.tubes[k] with busy := t.tubes[k].busy }
  payout : ∀ p ∈ t.payout, ∃ q ∈ s.payout, q.entry = p.entry
  bytes : Memory.wf s.mem = true → keepsBytes s t (payoutByte s)

/-- A change of the arbiter's own state and of the two machines that act on grants at once. -/
theorem Judged.ofClaims {s : State} {w g : List Claim} (c : Compressor) (r : Option Nat) (d : Defrost)
    (h : ∀ x ∈ w, x.claimant ≠ .drive) (hg : { s with waiting := w, grants := g }.hasGrant .drive = s.hasGrant .drive) :
    Judged s { s with waiting := w, grants := g, comp := c, runSecond := r, defrost := d } :=
  ⟨rfl, h, hg, id, by simp, fun _ _ _ => rfl, fun _ => rfl, fun p hp => ⟨p, hp, rfl⟩, fun _ _ _ => rfl⟩

theorem Judged.refl {s : State} (h : ∀ w ∈ s.waiting, w.claimant ≠ .drive) : Judged s s :=
  ⟨rfl, h, rfl, id, by simp, fun _ _ _ => rfl, fun _ => rfl, fun p hp => ⟨p, hp, rfl⟩, fun _ _ _ => rfl⟩

theorem Judged.trans {s t u : State} (h : Judged s t) (h' : Judged t u) : Judged s u where
  frame := by rw [h'.frame, h.frame]
  noDrive := h'.noDrive
  driveGrant := h'.driveGrant.trans h.driveGrant
  wf := h'.wf ∘ h.wf
  notices := by rw [← h'.notices, ← BitVec.or_assoc, h.notices]
  live := fun i h1 h2 => (h'.live i h1 h2).trans (h.live i h1 h2)
  tubes := fun k => by rw [h'.tubes k, h.tubes k]
  payout := fun p hp => by
    obtain ⟨q, hq, e⟩ := h'.payout p hp
    obtain ⟨r, hr, e'⟩ := h.payout q hq
    exact ⟨r, hr, e'.trans e⟩
  bytes := fun hm a ha => by
    rw [h'.bytes (h.wf hm) a, h.bytes hm a ha]
    rintro ⟨p, hp, c, hc, hb⟩
    obtain ⟨q, hq, e⟩ := h.payout p hp
    exact ha ⟨q, hq, c, by rw [e]; exact hc, hb⟩

theorem or_raise (c : NoticeClass) (s : State) : s.noticePending ||| (raise c s).noticePending = (raise c s).noticePending := by
  rw [raise_noticePending]
  split
  · rw [← BitVec.or_assoc, BitVec.or_self]
  · simp

theorem or_complete (slot : Nat) (o : CardOutcome) (s : State) :
    s.noticePending ||| (complete slot o s).noticePending = (complete slot o s).noticePending := by
  unfold complete
  dsimp only
  split
  · simp
  · exact or_raise .cards ((s.putSlot slot 6 (leBytes o.code 2)).setHolder slot .done)

theorem Counter.index_ne {c : Counter} (h : c = .retained ∨ c = .manualPayout) {i : Fin 26} (h1 : i ≠ 18) (h2 : i ≠ 19) :
    c.index.val ≠ i.val := by
  obtain rfl | rfl := h <;> simp only [Counter.index] <;> intro e <;> simp_all [Fin.ext_iff]

theorem count_live_other {c : Counter} {i : Fin 26} (h : c.index.val ≠ i.val) (n : Nat) (s : State) :
    (count c n s).live[i] = s.live[i] := by
  simp only [count_live, Fin.getElem_fin]
  exact Vector.getElem_set_ne _ _ h

theorem putHalf_wf {s : State} (h : Memory.wf s.mem = true) (slot off n : Nat) :
    Memory.wf (putHalf slot off n s).mem = true := putSlot_wf h _ _ _

/-- A byte outside the result body is not written by a write into it. -/
theorem readCell_putSlot_result {s : State} (h : Memory.wf s.mem = true) {slot off a : Nat} {bytes : List Byte}
    (h1 : 40 ≤ off) (h2 : off + bytes.length ≤ 64) (ha : ¬ cardByte slot a) :
    readCell (s.putSlot slot off bytes).mem a = readCell s.mem a := by
  rw [readCell_putSlot h, if_neg]
  simp only [cardByte, slotAddr] at *
  omega

theorem readCell_putHalf_result {s : State} (h : Memory.wf s.mem = true) {slot off n a : Nat}
    (h1 : 40 ≤ off) (h2 : off ≤ 62) (ha : ¬ cardByte slot a) :
    readCell (putHalf slot off n s).mem a = readCell s.mem a :=
  readCell_putSlot_result h h1 (by rw [leBytes_length]; omega) ha

/-- The result of a payout is written into the result body of its card alone. -/
theorem putPayoutResult_eq (p : Payout) (r : Nat) (card : AttachedCard) (s : State) :
    putPayoutResult p r card s = { s with mem := (putPayoutResult p r card s).mem } ∧
      (Memory.wf s.mem = true → Memory.wf (putPayoutResult p r card s).mem = true) ∧
      (Memory.wf s.mem = true → ∀ a, ¬ cardByte card.slot a →
        readCell (putPayoutResult p r card s).mem a = readCell s.mem a) := by
  unfold putPayoutResult
  split
  · refine ⟨rfl, fun h => putHalf_wf (putHalf_wf h _ _ _) _ _ _, fun h a ha => ?_⟩
    rw [readCell_putHalf_result (putHalf_wf h _ _ _) (by omega) (by omega) ha,
      readCell_putHalf_result h (by omega) (by omega) ha]
  · refine ⟨rfl, fun h => putSlot_wf (putHalf_wf (putHalf_wf h _ _ _) _ _ _) _ _ _, fun h a ha => ?_⟩
    rw [readCell_putSlot_result (putHalf_wf (putHalf_wf h _ _ _) _ _ _) (by omega) (by simp) ha,
      readCell_putHalf_result (putHalf_wf h _ _ _) (by omega) (by omega) ha,
      readCell_putHalf_result h (by omega) (by omega) ha]
  · refine ⟨rfl, fun h => putHalf_wf (putHalf_wf h _ _ _) _ _ _, fun h a ha => ?_⟩
    rw [readCell_putHalf_result (putHalf_wf h _ _ _) (by omega) (by omega) ha,
      readCell_putHalf_result h (by omega) (by omega) ha]
  · refine ⟨rfl, fun h => putSlot_wf (putHalf_wf h _ _ _) _ _ _, fun h a ha => ?_⟩
    rw [readCell_putSlot_result (putHalf_wf h _ _ _) (by omega) (by simp) ha,
      readCell_putHalf_result h (by omega) (by omega) ha]

/-- A completion of the card that the payout carried keeps to `Judged`. -/
theorem Judged.completion {s u : State} (h : Judged s u) {m : List Host.Cell} {slot : Nat} (o : CardOutcome)
    (hw : Memory.wf u.mem = true → Memory.wf m = true)
    (hb : Memory.wf u.mem = true → ∀ a, ¬ cardByte slot a → readCell m a = readCell u.mem a)
    (hs : ∀ a, cardByte slot a → payoutByte s a) : Judged s (complete slot o { u with mem := m }) where
  frame := by
    have : complete slot o { u with mem := m } =
        { u with mem := (complete slot o { u with mem := m }).mem,
                 noticePending := (complete slot o { u with mem := m }).noticePending } := by
      unfold complete raise
      dsimp only
      split <;> (try split) <;> rfl
    rw [this, h.frame]
  noDrive := by simpa using h.noDrive
  driveGrant := by rw [← h.driveGrant]; simp [State.hasGrant]
  wf := fun hm => complete_wf (hw (h.wf hm)) _ _
  notices := by
    rw [← or_complete slot o { u with mem := m }, ← BitVec.or_assoc]
    exact congrArg (· ||| _) h.notices
  live := by simpa using h.live
  tubes := by simpa using h.tubes
  payout := by simpa using h.payout
  bytes := fun hm a ha => by
    have hc : ¬ cardByte slot a := fun hc => ha (hs a hc)
    have hc' := hc
    simp only [cardByte, slotAddr] at hc'
    rw [readCell_complete (s := { u with mem := m }) (hw (h.wf hm)), if_neg (by simp only [slotAddr]; omega),
      if_neg (by simp only [slotAddr]; omega), if_neg (by simp only [slotAddr]; omega)]
    exact (hb (h.wf hm) a hc).trans (h.bytes hm a ha)

/-- The end of a payout, under a judgement that keeps to `Judged`. -/
theorem endPayoutWith_judged {judge : State → State}
    (hj : ∀ s, (∀ w ∈ s.waiting, w.claimant ≠ .drive) → Judged s (judge s)) (o : CardOutcome) {s : State}
    (h : ∀ w ∈ s.waiting, w.claimant ≠ .drive) : Judged s (endPayoutWith judge o s) := by
  unfold endPayoutWith
  split
  · exact .refl h
  · rename_i p hp
    have g0 : Judged s { s with waiting := s.waiting.filter (fun w => w.claimant != .payout),
                                grants := s.grants.filter (fun g => g.claimant != .payout) } := by
      refine .ofClaims s.comp s.runSecond s.defrost (fun w hw => h w (List.mem_of_mem_filter hw)) ?_
      simp only [State.hasGrant, List.any_filter]
      congr 1
      funext g
      cases g.claimant <;> rfl
    have g1 : Judged s (giveUp judge .payout s) := g0.trans (hj _ g0.noDrive)
    have g2 : ∀ u : State, (∀ w ∈ u.waiting, w.claimant ≠ .drive) → Judged u (setBusy false u) := fun u hu =>
      ⟨by simp [setBusy], hu, rfl, id, by simp, fun _ _ _ => rfl, fun k => by simp [setBusy], fun p hp => ⟨p, hp, rfl⟩,
        fun _ _ _ => rfl⟩
    have g3 : ∀ (u : State) (r : Nat), (∀ w ∈ u.waiting, w.claimant ≠ .drive) →
        Judged u (if p.entry.form = .creditReturn then count .retained r u else count .manualPayout p.paid u) := by
      intro u r hu
      split
      · exact ⟨rfl, hu, rfl, id, by simp, fun i h1 h2 => count_live_other (Counter.index_ne (.inl rfl) h1 h2) _ _,
          fun _ => rfl, fun p hp => ⟨p, hp, rfl⟩, fun _ _ _ => rfl⟩
      · exact ⟨rfl, hu, rfl, id, by simp, fun i h1 h2 => count_live_other (Counter.index_ne (.inr rfl) h1 h2) _ _,
          fun _ => rfl, fun p hp => ⟨p, hp, rfl⟩, fun _ _ _ => rfl⟩
    have g4 : ∀ u : State, (∀ w ∈ u.waiting, w.claimant ≠ .drive) → Judged u (raise .money { u with payout := none }) := by
      intro u hu
      refine ⟨?_, by simpa using hu, ?_, by simp, or_raise .money { u with payout := none }, by simp, by simp, by simp,
        fun _ _ _ => by simp⟩
      · unfold raise; split <;> rfl
      · simp [State.hasGrant]
    have e1 := g1.trans (g2 _ g1.noDrive)
    have e2 := e1.trans (g3 _ (retainedAmount p (setBusy false (giveUp judge .payout s))) e1.noDrive)
    have e3 := e2.trans (g4 _ e2.noDrive)
    dsimp only
    split
    · exact e3
    · rename_i card hcard
      obtain ⟨hm, hw, hb⟩ := putPayoutResult_eq p (retainedAmount p (setBusy false (giveUp judge .payout s))) card
        (raise .money { (if p.entry.form = .creditReturn then
            count .retained (retainedAmount p (setBusy false (giveUp judge .payout s))) (setBusy false (giveUp judge .payout s))
          else count .manualPayout p.paid (setBusy false (giveUp judge .payout s))) with payout := none })
      rw [hm]
      exact e3.completion _ hw hb fun a ha => ⟨p, hp, card, hcard, ha⟩

theorem endPayout_judged {judge : State → State}
    (hj : ∀ s, (∀ w ∈ s.waiting, w.claimant ≠ .drive) → Judged s (judge s)) {s : State}
    (h : ∀ w ∈ s.waiting, w.claimant ≠ .drive) : Judged s (endPayout judge s) := by
  unfold endPayout
  split
  · exact .refl h
  · exact endPayoutWith_judged hj _ h

theorem ejectNext_judged {judge : State → State}
    (hj : ∀ s, (∀ w ∈ s.waiting, w.claimant ≠ .drive) → Judged s (judge s)) {s : State}
    (h : ∀ w ∈ s.waiting, w.claimant ≠ .drive) : Judged s (ejectNext judge s) := by
  have pay : ∀ (p q : Payout) (e : Vector (Option Nat) 4), s.payout = some p → q.entry = p.entry →
      Judged s { s with payout := some q, ejectors := e } :=
    fun p q e hp hq => ⟨rfl, h, rfl, id, by simp, fun _ _ _ => rfl, fun _ => rfl, fun r hr =>
      ⟨p, hp, by cases hr; exact hq.symm⟩, fun _ _ _ => rfl⟩
  unfold ejectNext
  split
  · exact .refl h
  · rename_i p hp
    split
    · exact (pay p { p with left := _, air := none } s.ejectors hp rfl).trans (endPayout_judged hj h)
    · dsimp only
      split
      · exact pay p _ _ hp rfl
      · exact (pay p { p with left := _, air := none } s.ejectors hp rfl).trans (endPayout_judged hj h)

/-- A judgement while the spiral drive has no claim waiting: what it may change, once for all. -/
theorem judgeHead_judged : ∀ (n : Nat) (s : State), (∀ w ∈ s.waiting, w.claimant ≠ .drive) → Judged s (judgeHead n s)
  | 0, _, h => .refl h
  | n + 1, s, h => by
    unfold judgeHead
    split
    · exact .refl h
    · rename_i head rest hw
      split
      · have g : Judged s { s with waiting := rest, grants := s.grants ++ [head] } := by
          refine .ofClaims s.comp s.runSecond s.defrost
            (fun w hw' => h w (by rw [hw]; exact List.mem_cons_of_mem _ hw')) ?_
          have := h head (by rw [hw]; exact List.mem_cons_self)
          cases hc : head.claimant <;> simp_all [State.hasGrant]
        have a : Judged s (onGrant (judgeHead n) head.claimant { s with waiting := rest, grants := s.grants ++ [head] }) := by
          have := h head (by rw [hw]; exact List.mem_cons_self)
          refine g.trans ?_
          cases hc : head.claimant with
          | compressor => exact .ofClaims _ _ _ g.noDrive rfl
          | heater => exact .ofClaims _ _ _ g.noDrive rfl
          | drive => exact absurd hc this
          | payout => exact ejectNext_judged (judgeHead_judged n) g.noDrive
        exact a.trans (judgeHead_judged n _ a.noDrive)
      · exact .refl h

theorem judgeLoad_judged {s : State} (h : ∀ w ∈ s.waiting, w.claimant ≠ .drive) : Judged s (judgeLoad s) :=
  judgeHead_judged _ _ h

/-- The spiral drive gives up its load (R147): it has neither claim nor grant afterwards, and the judgement that follows keeps
to `Judged`. -/
theorem giveUp_drive (s : State) :
    ∃ u, u = { s with waiting := s.waiting.filter (fun w => w.claimant != .drive),
                      grants := s.grants.filter (fun g => g.claimant != .drive) } ∧
      Judged u (giveUp judgeLoad .drive s) ∧ (giveUp judgeLoad .drive s).hasGrant .drive = false := by
  have h : ∀ w ∈ s.waiting.filter (fun w => w.claimant != .drive), w.claimant ≠ .drive := by
    intro w hw
    simpa using (List.mem_filter.mp hw).2
  have j := judgeLoad_judged (s :=
    { s with waiting := s.waiting.filter (fun w => w.claimant != .drive),
             grants := s.grants.filter (fun g => g.claimant != .drive) }) h
  refine ⟨_, rfl, j, ?_⟩
  rw [giveUp, j.driveGrant]
  simp [State.hasGrant]

end Sys2Proof.Machine
end

