-- ==== Sys2Proof/Laws/Payout.lean ====
section
/-! SUPPORT. What the ends of vends and payouts, a judgement of the load and the expiry of a confirm window keep of the clock,
of the exit input and of the conditions under which a coin is recognised (R133, R134). -/

namespace Sys2Proof.Machine

/-- The clock, the last missed window, the spent inputs, and the states of the port and of the PFAIL line are the same. -/
def keepsMoment (s t : State) : Prop :=
  t.now = s.now ∧ t.missedAt = s.missedAt ∧ t.spent = s.spent ∧ t.ready = s.ready ∧ t.pfail = s.pfail

theorem keepsMoment.refl (s : State) : keepsMoment s s := ⟨rfl, rfl, rfl, rfl, rfl⟩

theorem keepsMoment.trans {s t u : State} (h : keepsMoment s t) (h' : keepsMoment t u) : keepsMoment s u := by
  unfold keepsMoment at *
  simp_all

@[simp] theorem missed_missedAt (s : State) : s.missed.missedAt = some s.now := rfl

@[simp] theorem missed_now (s : State) : s.missed.now = s.now := rfl

/-- A missed window leaves every other field as it was. -/
theorem missed_eq (s : State) (m : Option Nat) : { s.missed with missedAt := m } = { s with missedAt := m } := rfl

theorem setInFlight_moment (b : Bool) (l : List (Fin 80)) (s : State) : keepsMoment s (setInFlight b l s) := by
  obtain ⟨v, n, h⟩ := setInFlight_frame b l s
  rw [h]
  exact .refl s

theorem requestReturn_moment (origin : Origin) (card : Option AttachedCard) (s : State) :
    keepsMoment s (requestReturn origin card s) := by
  unfold requestReturn completeVendAtOnce
  repeat' split
  all_goals simp [keepsMoment]

theorem closeBasket_moment (s : State) : keepsMoment s (closeBasket s) := by
  unfold closeBasket
  repeat' split
  all_goals simp [keepsMoment]

theorem afterVerdict_moment (f : Flight) (o : CardOutcome) (s : State) : keepsMoment s (afterVerdict f o s) := by
  unfold afterVerdict endItem
  repeat' split
  · exact requestReturn_moment _ _ _
  · simp [keepsMoment]
  · exact .trans (by simp [keepsMoment]) (closeBasket_moment _)
  · exact .trans (by simp [keepsMoment]) (closeBasket_moment _)

theorem recordEnd_moment (i : Fin 80) (twin : Bool) (o : CardOutcome) (s : State) : keepsMoment s (recordEnd i twin o s) := by
  unfold recordEnd
  dsimp only
  split
  · exact .trans (by simp [keepsMoment]) (setInFlight_moment _ _ _)
  · simp [keepsMoment]

theorem settleMoney_moment (f : Flight) (o : CardOutcome) (s : State) : keepsMoment s (settleMoney f o s) := by
  unfold settleMoney
  repeat' split
  all_goals simp [keepsMoment]

theorem auditVerdict_moment (f : Flight) (o : CardOutcome) (s : State) : keepsMoment s (auditVerdict f o s) := by
  unfold auditVerdict
  repeat' split
  all_goals simp [keepsMoment]

variable {judge : State → State}

theorem giveUp_moment (hj : ∀ s, keepsMoment s (judge s)) (c : Claimant) (s : State) : keepsMoment s (giveUp judge c s) :=
  .trans (t := { s with waiting := s.waiting.filter fun w => w.claimant != c,
                        grants := s.grants.filter fun g => g.claimant != c }) (.refl s) (hj _)

theorem verdict_moment (hj : ∀ s, keepsMoment s (judge s)) (o : CardOutcome) (s : State) :
    keepsMoment s (verdict judge o s) := by
  unfold verdict
  split
  · exact .refl s
  · rename_i f _
    refine .trans ?_ (afterVerdict_moment _ _ _)
    refine .trans (t := auditVerdict f o (recordEnd f.spiral f.twin o (settleMoney f o
      (giveUp judge .drive { s with rev := none })))) ?_ (by simp [keepsMoment])
    exact (((giveUp_moment hj _ { s with rev := none }).trans (settleMoney_moment _ _ _)).trans
      (recordEnd_moment _ _ _ _)).trans (auditVerdict_moment _ _ _)

theorem endPayoutWith_moment (hj : ∀ s, keepsMoment s (judge s)) (o : CardOutcome) (s : State) :
    keepsMoment s (endPayoutWith judge o s) := by
  unfold endPayoutWith
  split
  · exact .refl s
  · refine .trans (giveUp_moment hj .payout s) ?_
    unfold putPayoutResult
    dsimp only
    repeat' split
    all_goals simp [keepsMoment]

theorem endPayout_moment (hj : ∀ s, keepsMoment s (judge s)) (s : State) : keepsMoment s (endPayout judge s) := by
  unfold endPayout
  split
  · exact .refl s
  · exact endPayoutWith_moment hj _ s

theorem ejectNext_moment (hj : ∀ s, keepsMoment s (judge s)) (s : State) : keepsMoment s (ejectNext judge s) := by
  unfold ejectNext
  split
  · exact .refl s
  · split
    · exact .trans (.refl s) (endPayout_moment hj _)
    · dsimp only
      split
      · exact .refl s
      · exact .trans (.refl s) (endPayout_moment hj _)

theorem onGrant_moment (hj : ∀ s, keepsMoment s (judge s)) (c : Claimant) (s : State) : keepsMoment s (onGrant judge c s) := by
  cases c
  · exact .refl s
  · exact .refl s
  · show keepsMoment s (motorStart judge s)
    unfold motorStart
    repeat' split
    · exact .refl s
    · exact verdict_moment hj _ s
    · exact .refl s
  · exact ejectNext_moment hj s

theorem judgeLoad_moment (s : State) : keepsMoment s (judgeLoad s) := by
  suffices h : ∀ n s, keepsMoment s (judgeHead n s) from h _ s
  intro n
  induction n with
  | zero => exact .refl
  | succ n ih =>
    intro s
    unfold judgeHead
    repeat' split
    · exact .refl s
    · rename_i head rest _ _
      exact (onGrant_moment ih head.claimant { s with waiting := rest, grants := s.grants ++ [head] }).trans (ih _)
    · exact .refl s

theorem tubeFoundEmpty_moment (t : Fin 4) (p : Payout) (s : State) : keepsMoment s (tubeFoundEmpty t p s) := by
  unfold tubeFoundEmpty
  dsimp only
  split <;> simp [keepsMoment]

/-- Whatever the expiry of a window begins, its moment stands for the coin that comes together with it (R133). -/
theorem missCoin_moment (a : AirCoin) (p : Payout) (s : State) : keepsMoment s (missCoin a p s) := by
  unfold missCoin
  repeat' split
  · exact (tubeFoundEmpty_moment _ _ _).trans (ejectNext_moment judgeLoad_moment _)
  · exact .refl s
  · exact endPayout_moment judgeLoad_moment s

/-- A coin seen at the moment of the last missed window is stray (R133, R139). -/
theorem exitCoin_stray {s : State} (h : s.payout.bind Payout.air = none ∨ s.missedAt = some s.now) :
    exitCoin s = count .strayCoins 1 s := by
  unfold exitCoin State.airCoin
  split
  · simp_all
  · rfl

end Sys2Proof.Machine
end

