-- ==== Sys2Proof/Laws/PerInstr.lean ====
section
/-! SUPPORT. One lemma per command about the command as syntax: whenever the bytes of a transaction spell it, its operands are
such as its row describes. -/

namespace Sys2Proof.Laws

/-- A decoded command is well-formed, if the slots said to have completed are slots (R21 to R24). -/
theorem wellFormed_of_decodeTransaction {completed : List Nat} {bytes : List Byte} {i : Instr}
    (hslots : ∀ slot ∈ completed, slot < 128) (h : decodeTransaction completed bytes = some i) : i.wellFormed = true := by
  unfold decodeTransaction at h
  split at h
  · cases h
  · split at h
    · unfold decodeRead at h; split at h <;> cases h <;> rfl
    · split at h
      · unfold decodeWrite at h
        split at h
        · cases h; simpa [Instr.wellFormed] using hslots
        · cases h
      · split at h
        · unfold decodeRegisterRead at h
          split at h
          · cases h; rfl
          · cases h
        · split at h
          · unfold decodeRegisterWrite at h
            split at h
            · split at h
              · cases h; assumption
              · cases h; simp_all [Instr.wellFormed, refusedOk]; omega
            · cases h
          · cases h; simp_all [Instr.wellFormed, unknownOk]

/-- Every transaction that spells the command spells it with operands such as its row describes. -/
def Spelled.Statement (i : Instr) : Prop :=
  ∀ (completed : List Nat) (bytes : List Byte), (∀ slot ∈ completed, slot < 128) →
    decodeTransaction completed bytes = some i → i.wellFormed = true

theorem Spelled.memoryRead (start : Option Half) (count : Nat) : Statement (.memoryRead start count) :=
  fun _ _ => wellFormed_of_decodeTransaction
theorem Spelled.memoryWrite (addr : Half) (data : List Byte) (completed : List Nat) : Statement (.memoryWrite addr data completed) :=
  fun _ _ => wellFormed_of_decodeTransaction
theorem Spelled.unknownCommand (command : Byte) : Statement (.unknownCommand command) :=
  fun _ _ => wellFormed_of_decodeTransaction
theorem Spelled.noticeRead (read : RegisterRead) : Statement (.noticeRead read) :=
  fun _ _ => wellFormed_of_decodeTransaction
theorem Spelled.noticeMaskWrite (data : List Byte) : Statement (.noticeMaskWrite data) :=
  fun _ _ => wellFormed_of_decodeTransaction
theorem Spelled.registerWriteRefused (register : Byte) (data : List Byte) : Statement (.registerWriteRefused register data) :=
  fun _ _ => wellFormed_of_decodeTransaction
theorem Spelled.portReset (released : Bool) : Statement (.portReset released) :=
  fun _ _ => wellFormed_of_decodeTransaction
theorem Spelled.keepalivePeriodEnd : Statement (.keepalivePeriodEnd) :=
  fun _ _ => wellFormed_of_decodeTransaction
theorem Spelled.silentReturnExpiry : Statement (.silentReturnExpiry) :=
  fun _ _ => wellFormed_of_decodeTransaction
theorem Spelled.badCard : Statement (.badCard) :=
  fun _ _ => wellFormed_of_decodeTransaction
theorem Spelled.vend : Statement (.vend) :=
  fun _ _ => wellFormed_of_decodeTransaction
theorem Spelled.cancel : Statement (.cancel) :=
  fun _ _ => wellFormed_of_decodeTransaction
theorem Spelled.returnCredit : Statement (.returnCredit) :=
  fun _ _ => wellFormed_of_decodeTransaction
theorem Spelled.payout : Statement (.payout) :=
  fun _ _ => wellFormed_of_decodeTransaction
theorem Spelled.tubeFill : Statement (.tubeFill) :=
  fun _ _ => wellFormed_of_decodeTransaction
theorem Spelled.setSpiral : Statement (.setSpiral) :=
  fun _ _ => wellFormed_of_decodeTransaction
theorem Spelled.setCoin : Statement (.setCoin) :=
  fun _ _ => wellFormed_of_decodeTransaction
theorem Spelled.setMoney : Statement (.setMoney) :=
  fun _ _ => wellFormed_of_decodeTransaction
theorem Spelled.setVend : Statement (.setVend) :=
  fun _ _ => wellFormed_of_decodeTransaction
theorem Spelled.setCooling : Statement (.setCooling) :=
  fun _ _ => wellFormed_of_decodeTransaction
theorem Spelled.setLoad : Statement (.setLoad) :=
  fun _ _ => wellFormed_of_decodeTransaction
theorem Spelled.setPort : Statement (.setPort) :=
  fun _ _ => wellFormed_of_decodeTransaction
theorem Spelled.defaults : Statement (.defaults) :=
  fun _ _ => wellFormed_of_decodeTransaction
theorem Spelled.releaseZone : Statement (.releaseZone) :=
  fun _ _ => wellFormed_of_decodeTransaction
theorem Spelled.defrostNow : Statement (.defrostNow) :=
  fun _ _ => wellFormed_of_decodeTransaction
theorem Spelled.testSpiral : Statement (.testSpiral) :=
  fun _ _ => wellFormed_of_decodeTransaction
theorem Spelled.resumeDrive : Statement (.resumeDrive) :=
  fun _ _ => wellFormed_of_decodeTransaction
theorem Spelled.snapshot : Statement (.snapshot) :=
  fun _ _ => wellFormed_of_decodeTransaction
theorem Spelled.store : Statement (.store) :=
  fun _ _ => wellFormed_of_decodeTransaction
theorem Spelled.vendCheckStage : Statement (.vendCheckStage) :=
  fun _ _ => wellFormed_of_decodeTransaction
theorem Spelled.testCheckStage : Statement (.testCheckStage) :=
  fun _ _ => wellFormed_of_decodeTransaction
theorem Spelled.loadWaitExpiry : Statement (.loadWaitExpiry) :=
  fun _ _ => wellFormed_of_decodeTransaction
theorem Spelled.camLineChange (after : Nat) (spiral : Fin 80) (level : CamLevel) : Statement (.camLineChange after spiral level) :=
  fun _ _ => wellFormed_of_decodeTransaction
theorem Spelled.camEdgeConsumed (column : Fin 10) : Statement (.camEdgeConsumed column) :=
  fun _ _ => wellFormed_of_decodeTransaction
theorem Spelled.camLeaveLimit : Statement (.camLeaveLimit) :=
  fun _ _ => wellFormed_of_decodeTransaction
theorem Spelled.revolutionLimit : Statement (.revolutionLimit) :=
  fun _ _ => wellFormed_of_decodeTransaction
theorem Spelled.motorCurrentChange (after : Nat) (current : Nat) : Statement (.motorCurrentChange after current) :=
  fun _ _ => wellFormed_of_decodeTransaction
theorem Spelled.jamTimerExpiry : Statement (.jamTimerExpiry) :=
  fun _ _ => wellFormed_of_decodeTransaction
theorem Spelled.motorShort (current : Nat) : Statement (.motorShort current) :=
  fun _ _ => wellFormed_of_decodeTransaction
theorem Spelled.offCurrentCheckPass (highest : Nat) : Statement (.offCurrentCheckPass highest) :=
  fun _ _ => wellFormed_of_decodeTransaction
theorem Spelled.offCurrentCheckFail (highest : Nat) : Statement (.offCurrentCheckFail highest) :=
  fun _ _ => wellFormed_of_decodeTransaction
theorem Spelled.beamChange (after : Nat) (blocked : Bool) : Statement (.beamChange after blocked) :=
  fun _ _ => wellFormed_of_decodeTransaction
theorem Spelled.dropRecognised : Statement (.dropRecognised) :=
  fun _ _ => wellFormed_of_decodeTransaction
theorem Spelled.dropSensorFault : Statement (.dropSensorFault) :=
  fun _ _ => wellFormed_of_decodeTransaction
theorem Spelled.dropSensorRecovery : Statement (.dropSensorRecovery) :=
  fun _ _ => wellFormed_of_decodeTransaction
theorem Spelled.dropWaitExpiry : Statement (.dropWaitExpiry) :=
  fun _ _ => wellFormed_of_decodeTransaction
theorem Spelled.doorStateChange (door : DoorState) : Statement (.doorStateChange door) :=
  fun _ _ => wellFormed_of_decodeTransaction
theorem Spelled.coinArrival (channel : Fin 6) (returned : Bool) : Statement (.coinArrival channel returned) :=
  fun _ _ => wellFormed_of_decodeTransaction
theorem Spelled.gateTimerExpiry (tube : Fin 4) : Statement (.gateTimerExpiry tube) :=
  fun _ _ => wellFormed_of_decodeTransaction
theorem Spelled.fullSensorChange (tube : Fin 4) (full : Bool) : Statement (.fullSensorChange tube full) :=
  fun _ _ => wellFormed_of_decodeTransaction
theorem Spelled.coinReturnLever : Statement (.coinReturnLever) :=
  fun _ _ => wellFormed_of_decodeTransaction
theorem Spelled.payoutStart : Statement (.payoutStart) :=
  fun _ _ => wellFormed_of_decodeTransaction
theorem Spelled.ejectorPulseEnd : Statement (.ejectorPulseEnd) :=
  fun _ _ => wellFormed_of_decodeTransaction
theorem Spelled.exitCoinSeen (returned : Bool) : Statement (.exitCoinSeen returned) :=
  fun _ _ => wellFormed_of_decodeTransaction
theorem Spelled.confirmWindowExpiry : Statement (.confirmWindowExpiry) :=
  fun _ _ => wellFormed_of_decodeTransaction
theorem Spelled.sample (cabA cabB evap : BitVec 12) : Statement (.sample cabA cabB evap) :=
  fun _ _ => wellFormed_of_decodeTransaction
theorem Spelled.minOffExpiry : Statement (.minOffExpiry) :=
  fun _ _ => wellFormed_of_decodeTransaction
theorem Spelled.minOnExpiry : Statement (.minOnExpiry) :=
  fun _ _ => wellFormed_of_decodeTransaction
theorem Spelled.startWindowExpiry : Statement (.startWindowExpiry) :=
  fun _ _ => wellFormed_of_decodeTransaction
theorem Spelled.fallbackPhaseExpiry : Statement (.fallbackPhaseExpiry) :=
  fun _ _ => wellFormed_of_decodeTransaction
theorem Spelled.defrostDue : Statement (.defrostDue) :=
  fun _ _ => wellFormed_of_decodeTransaction
theorem Spelled.defrostForcedStop : Statement (.defrostForcedStop) :=
  fun _ _ => wellFormed_of_decodeTransaction
theorem Spelled.defrostTimerExpiry : Statement (.defrostTimerExpiry) :=
  fun _ _ => wellFormed_of_decodeTransaction
theorem Spelled.drainingEnd : Statement (.drainingEnd) :=
  fun _ _ => wellFormed_of_decodeTransaction
theorem Spelled.recoveryGraceEnd : Statement (.recoveryGraceEnd) :=
  fun _ _ => wellFormed_of_decodeTransaction
theorem Spelled.saveComplete (pins : Pins) : Statement (.saveComplete pins) :=
  fun _ _ => wellFormed_of_decodeTransaction
theorem Spelled.pfailAssert : Statement (.pfailAssert) :=
  fun _ _ => wellFormed_of_decodeTransaction
theorem Spelled.pfailRelease (pins : Pins) : Statement (.pfailRelease pins) :=
  fun _ _ => wellFormed_of_decodeTransaction
theorem Spelled.resetAssert (pins : Pins) : Statement (.resetAssert pins) :=
  fun _ _ => wellFormed_of_decodeTransaction
theorem Spelled.powerOn (pins : Pins) : Statement (.powerOn pins) :=
  fun _ _ => wellFormed_of_decodeTransaction
theorem Spelled.restartSequenceEnd (active : PulseInputs) : Statement (.restartSequenceEnd active) :=
  fun _ _ => wellFormed_of_decodeTransaction
theorem Spelled.runTimeAccumulatorSecond : Statement (.runTimeAccumulatorSecond) :=
  fun _ _ => wellFormed_of_decodeTransaction

end Sys2Proof.Laws
end

