-- ==== Sys2Proof/Laws/Vend.lean ====
section
/-! SUPPORT. The ends of a vend and of a test: what a verdict does, once for all (R67 to R69, R79). -/

namespace Sys2Proof.Machine

theorem or_trans {a b c : BitVec 9} (h : a ||| b = b) (h' : b ||| c = c) : a ||| c = c := by
  rw [← h', ← BitVec.or_assoc, h]

theorem raise_eq (c : NoticeClass) (s : State) : raise c s = { s with noticePending := (raise c s).noticePending } := by
  unfold raise; split <;> rfl

theorem or_raise_of_eq (c : NoticeClass) {s x : State} (h : x.noticePending = s.noticePending) :
    s.noticePending ||| (raise c x).noticePending = (raise c x).noticePending := by
  rw [← h]; exact or_raise c x

theorem complete_shape (slot : Nat) (o : CardOutcome) (s : State) :
    complete slot o s =
      { s with mem := (complete slot o s).mem, noticePending := (complete slot o s).noticePending } := by
  unfold complete raise
  dsimp only
  split <;> (try split) <;> rfl

/-! ## The records -/

theorem putSpiral_eq (i : Fin 80) (r : Spiral) (s : State) :
    putSpiral i r s = { s with spirals := s.spirals.set i r, noticePending := (putSpiral i r s).noticePending } ∧
      s.noticePending ||| (putSpiral i r s).noticePending = (putSpiral i r s).noticePending := by
  unfold putSpiral
  dsimp only
  split
  · exact ⟨rfl, by simp⟩
  · exact ⟨raise_eq .spiral { s with spirals := s.spirals.set i r }, or_raise .spiral { s with spirals := s.spirals.set i r }⟩

theorem mirror_eq (i : Fin 80) (s : State) :
    mirror i s = { s with spirals := (mirror i s).spirals, noticePending := (mirror i s).noticePending } ∧
      s.noticePending ||| (mirror i s).noticePending = (mirror i s).noticePending := by
  obtain ⟨h, h'⟩ := putSpiral_eq (nextSpiral i) { s.spirals[nextSpiral i] with
    price := s.spirals[i].price, zone := s.spirals[i].zone, state := s.spirals[i].state, stock := s.spirals[i].stock } s
  refine ⟨?_, h'⟩
  unfold mirror
  dsimp only
  rw [h]

/-- The record that a verdict or the end of a test writes. -/
def Spiral.afterEnd (o : CardOutcome) (r : Spiral) : Spiral :=
  { Spiral.ended o r with inFlight := false, lastOutcome := o }

theorem recordEnd_eq (i : Fin 80) (twin : Bool) (o : CardOutcome) (s : State) :
    recordEnd i twin o s =
      { s with spirals := (recordEnd i twin o s).spirals, noticePending := (recordEnd i twin o s).noticePending } ∧
      s.noticePending ||| (recordEnd i twin o s).noticePending = (recordEnd i twin o s).noticePending := by
  unfold recordEnd
  dsimp only
  obtain ⟨a, a'⟩ := putSpiral_eq i { Spiral.ended o s.spirals[i] with inFlight := false, lastOutcome := o } s
  split
  · generalize putSpiral i { Spiral.ended o s.spirals[i] with inFlight := false, lastOutcome := o } s = x at *
    obtain ⟨b, b'⟩ := mirror_eq i x
    generalize mirror i x = y at *
    simp only [setInFlight]
    obtain ⟨c, c'⟩ := putSpiral_eq (nextSpiral i) { y.spirals[nextSpiral i] with inFlight := false } y
    refine ⟨?_, or_trans a' (or_trans b' c')⟩
    generalize putSpiral (nextSpiral i) { y.spirals[nextSpiral i] with inFlight := false } y = z at *
    rw [c, b, a]
  · exact ⟨by rw [a], a'⟩

theorem recordEnd_table (i : Fin 80) (twin : Bool) (o : CardOutcome) (s : State) :
    (recordEnd i twin o s).spirals[i] = s.spirals[i].afterEnd o ∧ tableEnded s (recordEnd i twin o s) i twin := by
  unfold recordEnd tableEnded
  dsimp only
  split
  · rename_i h
    simp only [setInFlight, mirror, putSpiral_spirals, Fin.getElem_fin, Spiral.afterEnd, mirrored]
    by_cases hn : nextSpiral i = i
    · refine ⟨?_, fun j h1 h2 => ?_, fun _ h' => absurd hn h'⟩
      · simp [hn]
      · simp [hn, Fin.val_ne_of_ne (Ne.symm h1)]
    · have hne : (nextSpiral i).val ≠ i.val := fun e => hn (Fin.ext e)
      refine ⟨?_, fun j h1 h2 => ?_, fun _ _ => ?_⟩
      · simp [Vector.getElem_set, hne]
      · simp [Vector.getElem_set, Fin.val_ne_of_ne (Ne.symm h1), Fin.val_ne_of_ne (Ne.symm (h2 h))]
      · simp [hne, hne.symm]
  · rename_i h
    refine ⟨by simp [putSpiral_spirals, Spiral.afterEnd], fun j h1 _ => ?_, fun h' => absurd h' h⟩
    simp [putSpiral_spirals, Fin.val_ne_of_ne (Ne.symm h1)]

/-- The state or the role of record `j` differs. -/
def recordChanged (s t : State) (j : Fin 80) : Bool :=
  t.spirals[j].state != s.spirals[j].state || t.spirals[j].role != s.spirals[j].role

theorem putSpiral_raised (i : Fin 80) (r : Spiral) {s : State} (hr : s.ready = true) :
    (putSpiral i r s).noticePending = s.noticePending |||
      if r.state != s.spirals[i].state || r.role != s.spirals[i].role then NoticeClass.spiral.bit else 0 := by
  unfold putSpiral
  dsimp only
  split
  · rename_i h
    rw [if_neg]
    · exact (BitVec.or_zero).symm
    · rw [h.1, h.2]; simp
  · rename_i h
    rw [if_pos, raise, if_pos hr]
    by_cases e : r.state = s.spirals[i].state
    · rw [e]
      have : r.role ≠ s.spirals[i].role := fun e' => h ⟨e.symm, e'.symm⟩
      simp only [Bool.or_eq_true, bne_iff_ne]
      exact .inr this
    · simp only [Bool.or_eq_true, bne_iff_ne]
      exact .inl e

/-- SPIRAL for two records, when no other record differs. -/
theorem spiralIf_two {s t : State} (i k : Fin 80) (h : ∀ j, j ≠ i → j ≠ k → t.spirals[j] = s.spirals[j]) :
    spiralIf s t = (if recordChanged s t i then NoticeClass.spiral.bit else 0) |||
      if recordChanged s t k then NoticeClass.spiral.bit else 0 := by
  have e : ((List.finRange 80).any fun j => t.spirals[j].state != s.spirals[j].state || t.spirals[j].role != s.spirals[j].role) =
      (recordChanged s t i || recordChanged s t k) := by
    rw [Bool.eq_iff_iff, List.any_eq_true, Bool.or_eq_true]
    constructor
    · rintro ⟨j, -, hj⟩
      by_cases h1 : j = i
      · subst h1; exact .inl hj
      · by_cases h2 : j = k
        · subst h2; exact .inr hj
        · simp [h j h1 h2] at hj
    · rintro (hj | hj)
      · exact ⟨i, List.mem_finRange i, hj⟩
      · exact ⟨k, List.mem_finRange k, hj⟩
  unfold spiralIf
  rw [e]
  cases recordChanged s t i <;> cases recordChanged s t k <;> rfl

/-- A record and then twice its partner are written: SPIRAL is raised exactly when one of them changes. -/
theorem spirals_written {s x y z : State} (i k : Fin 80) (r m q : Spiral)
    (v1 : x.spirals = s.spirals.set i r)
    (n1 : x.noticePending = s.noticePending |||
      if r.state != s.spirals[i].state || r.role != s.spirals[i].role then NoticeClass.spiral.bit else 0)
    (v2 : y.spirals = x.spirals.set k m)
    (n2 : y.noticePending = x.noticePending |||
      if m.state != x.spirals[k].state || m.role != x.spirals[k].role then NoticeClass.spiral.bit else 0)
    (v3 : z.spirals = y.spirals.set k q)
    (n3 : z.noticePending = y.noticePending |||
      if q.state != y.spirals[k].state || q.role != y.spirals[k].role then NoticeClass.spiral.bit else 0)
    (hm : m.state = r.state) (hm' : m.role = x.spirals[k].role) (hq : q.state = m.state) (hq' : q.role = m.role) :
    z.noticePending = s.noticePending ||| spiralIf s z := by
  have xi : x.spirals[i] = r := by rw [v1]; simp
  have yk : y.spirals[k] = m := by rw [v2]; simp
  have zk : z.spirals[k] = q := by rw [v3]; simp
  rw [if_neg (by rw [yk, hq, hq']; simp)] at n3
  rw [spiralIf_two i k]
  · rw [n3, n2, n1, show ∀ v : BitVec 9, v ||| 0 = v from fun _ => BitVec.or_zero, BitVec.or_assoc]
    congr 1
    unfold recordChanged
    by_cases e : k = i
    · subst e
      rw [zk, hq, hq', hm, hm', xi]
      cases (r.state != s.spirals[k].state || r.role != s.spirals[k].role) <;> simp
    · have e' : k.val ≠ i.val := fun h => e (Fin.ext h)
      have xk : x.spirals[k] = s.spirals[k] := by rw [v1]; exact Vector.getElem_set_ne _ _ (Ne.symm e')
      have zi : z.spirals[i] = r := by
        rw [← xi, v3, v2]
        exact (Vector.getElem_set_ne _ _ e').trans (Vector.getElem_set_ne _ _ e')
      rw [zi, zk, hq, hq', xk]
  · intro j h1 h2
    have h1' : i.val ≠ j.val := fun h => h1 (Fin.ext h.symm)
    have h2' : k.val ≠ j.val := fun h => h2 (Fin.ext h.symm)
    rw [v3, v2, v1]
    exact (Vector.getElem_set_ne _ _ h2').trans ((Vector.getElem_set_ne _ _ h2').trans (Vector.getElem_set_ne _ _ h1'))

theorem putSpiral_self (i : Fin 80) (r : Spiral) (s : State) : (putSpiral i r s).spirals[i] = r := by
  rw [putSpiral_spirals]; simp

theorem putSpiral_ready (i : Fin 80) (r : Spiral) {s : State} (hr : s.ready = true) : (putSpiral i r s).ready = true := by
  rw [(putSpiral_eq i r s).1]; exact hr

/-- A verdict or the end of a test raises SPIRAL exactly when the state of a record changes (R9). -/
theorem recordEnd_raised (i : Fin 80) (twin : Bool) (o : CardOutcome) {s : State} (hr : s.ready = true) :
    (recordEnd i twin o s).noticePending = s.noticePending ||| spiralIf s (recordEnd i twin o s) := by
  have r1 := putSpiral_ready i (s.spirals[i].afterEnd o) hr
  have xi := putSpiral_self i (s.spirals[i].afterEnd o) s
  cases twin
  · obtain ⟨t1, t2⟩ := recordEnd_table i false o s
    rw [spiralIf_two i i fun j h1 _ => t2.1 j h1 (by simp), BitVec.or_self]
    unfold recordChanged
    rw [t1]
    exact putSpiral_raised i _ hr
  · have key : ∀ x : State, (mirror i x).spirals[nextSpiral i].state = x.spirals[i].state ∧
        (mirror i x).spirals[nextSpiral i].role = x.spirals[nextSpiral i].role := fun x => by
      unfold mirror; dsimp only; rw [putSpiral_self]; exact ⟨rfl, rfl⟩
    refine spirals_written i (nextSpiral i) (s.spirals[i].afterEnd o) _ _ (putSpiral_spirals i _ s) (putSpiral_raised i _ hr)
      (putSpiral_spirals (nextSpiral i) _ _) (putSpiral_raised (nextSpiral i) _ r1)
      (putSpiral_spirals (nextSpiral i) _ _)
      (putSpiral_raised (nextSpiral i) _ (putSpiral_ready (nextSpiral i) _ r1)) ?_ rfl ?_ ?_
    · show (putSpiral i (s.spirals[i].afterEnd o) s).spirals[i].state = _
      rw [xi]
    · exact (key _).1
    · exact (key _).2

/-- The record after a vend, by the table of R67. -/
theorem recordEnded_afterEnd {o : CardOutcome} (h : o ≠ .homeOk) (h' : o ≠ .testJammed) (r : Spiral) :
    recordEnded o r (r.afterEnd o) := by
  unfold recordEnded Spiral.afterEnd
  cases o <;> simp_all [Spiral.ended, stockNotTracked] <;> split <;> simp_all

/-- The record after a test (R79). -/
theorem recordTested_afterEnd {o : CardOutcome} (h : o = .homeOk ∨ o = .testJammed ∨ o = .testAborted ∨ o = .loadTimeout)
    (r : Spiral) : recordTested o r (r.afterEnd o) := by
  unfold recordTested Spiral.afterEnd
  obtain rfl | rfl | rfl | rfl := h <;> simp only [Spiral.ended]
  · by_cases hj : r.state = .jammed
    · simp only [hj, if_true, Spiral.settled]
      split <;> simp_all
    · simp [hj]
  · split <;> simp_all
  · simp
  · simp

/-! ## Money and audit -/

/-- The basket as a verdict charges it (R67). -/
def chargedBasket (f : Flight) (o : CardOutcome) (b : Option Basket) : Option Basket :=
  if !f.coin && o.charges && f.basket.isSome then
    b.map fun b => { b with remaining := b.remaining - f.price, charged := b.charged + f.price }
  else b

/-- A vend settles with the customer's credit, and an item of a basket with its basket (R67). -/
theorem settleMoney_eq (f : Flight) (o : CardOutcome) (s : State) :
    settleMoney f o s =
        { s with credit := if f.coin = true ∧ o.charges = true then s.credit - f.price else s.credit,
                 held := if f.coin = true then s.held - f.price else s.held,
                 basket := chargedBasket f o s.basket, noticePending := (settleMoney f o s).noticePending } ∧
      s.noticePending ||| (settleMoney f o s).noticePending = (settleMoney f o s).noticePending ∧
      (s.ready = true → (settleMoney f o s).noticePending = s.noticePending ||| moneyIf f.coin) := by
  unfold settleMoney chargedBasket
  split
  · rename_i h
    simp only [h, true_and]
    unfold putCredit
    refine ⟨?_, or_raise_of_eq .money rfl, fun hr => ?_⟩
    · rw [raise_eq]; rfl
    · simp [raise, hr, moneyIf]
  · rename_i h
    simp only [Bool.not_eq_true] at h
    split <;> rename_i hc <;> simp [h, hc, moneyIf]

theorem auditVerdict_eq (f : Flight) (o : CardOutcome) (s : State) :
    auditVerdict f o s = { s with live := (auditVerdict f o s).live } ∧
      ∀ i : Fin 26, (auditVerdict f o s).live[i] = s.live[i] + auditAdds f o i := by
  unfold auditVerdict auditAdds
  split
  · refine ⟨rfl, fun i => ?_⟩
    simp only [count_live, Fin.getElem_fin, Vector.getElem_set]
    by_cases hc : f.coin = true
    · simp only [hc, if_true, Counter.index]
      obtain ⟨i, hi⟩ := i
      simp only [Fin.ext_iff]
      by_cases h0 : i = 0
      · subst h0; simp
      · by_cases h1 : i = 1
        · subst h1; simp
        · simp [h0, h1, Ne.symm h0, Ne.symm h1]
    · simp only [hc, Counter.index]
      obtain ⟨i, hi⟩ := i
      simp only [Fin.ext_iff]
      by_cases h0 : i = 0
      · subst h0; simp
      · by_cases h1 : i = 2
        · subst h1; simp
        · simp [h0, h1, Ne.symm h0, Ne.symm h1]
  · split
    · refine ⟨rfl, fun i => ?_⟩
      rename_i ho
      simp only [ho, true_and, count_live, Fin.getElem_fin, Vector.getElem_set, Counter.index]
      obtain ⟨i, hi⟩ := i
      simp only [Fin.ext_iff]
      by_cases h0 : i = 20
      · subst h0; simp
      · simp [h0, Ne.symm h0]
    · rename_i ho
      refine ⟨rfl, fun i => by simp [ho]⟩

/-! ## The result -/

theorem putVendResult_eq (slot charged revolutions : Nat) (drop : Option Nat) (s : State) :
    putVendResult slot charged revolutions drop s =
      { s with mem := (putVendResult slot charged revolutions drop s).mem } := rfl

theorem putVendResult_wf {s : State} (h : Memory.wf s.mem = true) (slot charged revolutions : Nat) (drop : Option Nat) :
    Memory.wf (putVendResult slot charged revolutions drop s).mem = true :=
  putSlot_wf (putHalf_wf h _ _ _) _ _ _

theorem field16_lt (n : Nat) : field16 n < 65536 := by
  unfold field16; split
  · assumption
  · exact (Config.wideField n).isLt

theorem dropTimeField_lt (d : Option Nat) : dropTimeField d < 65536 := by
  unfold dropTimeField
  split
  · decide
  · exact field16_lt _

/-- The bytes of a vend's result (R55). -/
theorem readCell_putVendResult {s : State} (h : Memory.wf s.mem = true) (slot charged revolutions : Nat)
    (drop : Option Nat) (a : Nat) :
    readCell (putVendResult slot charged revolutions drop s).mem a =
      if slotAddr slot 40 ≤ a ∧ a < slotAddr slot 46 then
        (leBytes (field16 charged) 2 ++ [BitVec.ofNat 8 revolutions, 0] ++ leBytes (dropTimeField drop) 2).getD
          (a - slotAddr slot 40) 0
      else readCell s.mem a := by
  unfold putVendResult
  have hl : (BitVec.ofNat 8 revolutions :: 0 :: leBytes (dropTimeField drop) 2).length = 4 := rfl
  rw [readCell_putSlot (putHalf_wf h _ _ _), putHalf, readCell_putSlot h, hl, leBytes_length]
  by_cases h1 : slotAddr slot 40 ≤ a ∧ a < slotAddr slot 46
  · rw [if_pos h1]
    obtain ⟨k, rfl⟩ : ∃ k, a = slotAddr slot 40 + k := ⟨a - slotAddr slot 40, by omega⟩
    have hk : k < 6 := by simp only [slotAddr] at h1; omega
    rw [Nat.add_sub_cancel_left]
    by_cases h2 : k < 2
    · rw [if_neg (by simp only [slotAddr]; omega), if_pos (by simp only [slotAddr]; omega)]
      obtain rfl | rfl : k = 0 ∨ k = 1 := by omega
      all_goals rfl
    · rw [if_pos (by simp only [slotAddr]; omega),
        show slotAddr slot 40 + k - slotAddr slot 42 = k - 2 by simp only [slotAddr]; omega]
      obtain rfl | rfl | rfl | rfl : k = 2 ∨ k = 3 ∨ k = 4 ∨ k = 5 := by omega
      all_goals rfl
  · rw [if_neg h1, if_neg (by simp only [slotAddr] at *; omega), if_neg (by simp only [slotAddr] at *; omega)]

/-! ## The course of the card -/

/-- A completed card stands DONE with its outcome. -/
theorem complete_done {s : State} (hm : Memory.wf s.mem = true) (slot : Nat) (o : CardOutcome) :
    (complete slot o s).holder slot = .done ∧ (complete slot o s).slotHalf slot 6 = o.code := by
  refine ⟨holder_of_byte ?_, slotHalf_of_bytes o.code_lt ?_ ?_⟩ <;> rw [readCell_complete hm]
  · rw [if_pos rfl]; rfl
  · rw [if_neg (by simp [slotAddr]), if_pos rfl]
  · rw [if_neg (by simp [slotAddr]), if_neg (by simp [slotAddr]), if_pos rfl]

/-- A completion writes the holder and the outcome alone. -/
theorem readCell_complete_of_ne {s : State} (hm : Memory.wf s.mem = true) {slot : Nat} (o : CardOutcome) {a : Nat}
    (h0 : a ≠ slotAddr slot 0) (h6 : a ≠ slotAddr slot 6) (h7 : a ≠ slotAddr slot 7) :
    readCell (complete slot o s).mem a = readCell s.mem a := by
  rw [readCell_complete hm, if_neg h0, if_neg h6, if_neg h7]

theorem cardsBit_congr {s t : State} {slot : Nat}
    (h : readCell t.mem (slotAddr slot 5) = readCell s.mem (slotAddr slot 5)) : t.cardsBit slot = s.cardsBit slot := by
  unfold State.cardsBit State.quiet State.slotByte
  rw [h]

theorem cardsBits_congr {s t : State} {slots : List Nat}
    (h : ∀ slot, readCell t.mem (slotAddr slot 5) = readCell s.mem (slotAddr slot 5)) : t.cardsBits slots = s.cardsBits slots := by
  unfold State.cardsBits
  simp only [cardsBit_congr (h _)]

theorem complete_raised {s : State} (hr : s.ready = true) (slot : Nat) (o : CardOutcome) :
    (complete slot o s).noticePending =
      s.noticePending ||| ((s.putSlot slot 6 (leBytes o.code 2)).setHolder slot .done).cardsBit slot := by
  unfold complete State.cardsBit
  dsimp only
  split
  · simp
  · simp [raise, hr]

/-- The cards listed have completed, one after the other, and beside them only the bytes in `p` were written. -/
structure Completed (s t : State) (cards : List (Nat × CardOutcome)) (p : Nat → Prop) : Prop where
  frame : t = { s with mem := t.mem, noticePending := t.noticePending }
  wf : Memory.wf t.mem = true
  ended : t.ended cards
  notices : s.noticePending ||| t.noticePending = t.noticePending
  raised : s.ready = true → t.noticePending = s.noticePending ||| s.cardsBits (cards.map Prod.fst)
  bytes : ∀ a, (∀ c ∈ cards, a ≠ slotAddr c.1 0 ∧ a ≠ slotAddr c.1 6 ∧ a ≠ slotAddr c.1 7) → ¬ p a →
    readCell t.mem a = readCell s.mem a

theorem Completed.none {s : State} (hm : Memory.wf s.mem = true) (p : Nat → Prop) : Completed s s [] p where
  frame := rfl
  wf := hm
  ended := fun _ h => nomatch h
  notices := BitVec.or_self
  raised := fun _ => (BitVec.or_zero).symm
  bytes := fun _ _ _ => rfl

theorem flags_kept {s : State} (hm : Memory.wf s.mem = true) (slot : Nat) (o : CardOutcome) (other : Nat) :
    readCell ((s.putSlot slot 6 (leBytes o.code 2)).setHolder slot .done).mem (slotAddr other 5) =
      readCell s.mem (slotAddr other 5) := by
  have h1 := putSlot_wf hm slot 6 (leBytes o.code 2)
  rw [show ((s.putSlot slot 6 (leBytes o.code 2)).setHolder slot .done).mem =
    ((s.putSlot slot 6 (leBytes o.code 2)).putSlot slot 0 [BitVec.ofNat 8 Holder.done.code]).mem from rfl]
  rw [readCell_putSlot h1, if_neg, readCell_putSlot hm, if_neg]
  · rw [leBytes_length]; simp only [slotAddr]; omega
  · simp only [slotAddr, List.length_singleton]; omega

/-- One card more completes. -/
theorem Completed.snoc {s t : State} {cards : List (Nat × CardOutcome)} {p : Nat → Prop} (h : Completed s t cards p)
    (hp : ∀ a, p a → a % 64 ≠ 0 ∧ a % 64 ≠ 5 ∧ a % 64 ≠ 6 ∧ a % 64 ≠ 7) (slot : Nat) (o : CardOutcome) :
    Completed s (complete slot o t) (cards ++ [(slot, o)]) p where
  frame := by rw [complete_shape, h.frame]
  wf := complete_wf h.wf slot o
  ended := by
    intro c hc
    have hd := complete_done h.wf slot o
    by_cases e : c.1 = slot
    · subst e
      refine ⟨hd.1, fun hu => ?_⟩
      have := hu (c.1, o) (by simp) rfl
      rw [hd.2, ← this]
    · have hc' : c ∈ cards := by
        rcases List.mem_append.mp hc with h1 | h1
        · exact h1
        · rw [List.mem_singleton] at h1; exact absurd (by rw [h1]) e
      have r : ∀ k < 64, readCell (complete slot o t).mem (slotAddr c.1 k) = readCell t.mem (slotAddr c.1 k) := by
        intro k hk
        refine readCell_complete_of_ne h.wf o ?_ ?_ ?_ <;> simp only [slotAddr] <;> omega
      refine ⟨?_, fun hu => ?_⟩
      · have := (h.ended c hc').1
        unfold State.holder State.slotByte at *
        rw [r 0 (by omega)]; exact this
      · have := (h.ended c hc').2 fun d hd' e' => hu d (List.mem_append_left _ hd') e'
        unfold State.slotHalf State.slotByte at *
        rw [r 6 (by omega), r 7 (by omega)]; exact this
  notices := or_trans h.notices (or_complete slot o t)
  raised := fun hr => by
    have tr : t.ready = true := by rw [h.frame]; exact hr
    rw [complete_raised tr, h.raised hr]
    have q : ((t.putSlot slot 6 (leBytes o.code 2)).setHolder slot .done).cardsBit slot = s.cardsBit slot := by
      refine cardsBit_congr ?_
      rw [flags_kept h.wf, h.bytes]
      · intro c _; simp only [slotAddr]; omega
      · intro hpa; have := hp _ hpa; simp only [slotAddr] at this; omega
    rw [q, BitVec.or_assoc]
    congr 1
    simp only [State.cardsBits, List.map_append, List.foldr_append, List.map_cons, List.map_nil, List.foldr_cons, List.foldr_nil]
    generalize cards.map Prod.fst = l
    induction l with
    | nil => simp
    | cons x l ih => simp only [List.foldr_cons, BitVec.or_assoc, ih]
  bytes := fun a ha hn => by
    have := ha (slot, o) (by simp)
    rw [readCell_complete_of_ne h.wf o this.1 this.2.1 this.2.2]
    exact h.bytes a (fun c hc => ha c (List.mem_append_left _ hc)) hn

/-- A completion raises CARDS unless the card is QUIET (R29). -/
theorem complete_cards {s : State} (hm : Memory.wf s.mem = true) (hr : s.ready = true) (slot : Nat) (o : CardOutcome) :
    (complete slot o s).noticePending = s.noticePending ||| s.cardsBit slot := by
  rw [complete_raised hr, cardsBit_congr (flags_kept hm slot o slot)]

/-- The course of the card of a vend that ends (R58, R68, R69): `d` is the state with the verdict's writes. -/
theorem afterVerdict_spec (f : Flight) (o : CardOutcome) {s d : State} (hm : Memory.wf d.mem = true) (hf : d.flight = none)
    (h1 : d.moneySet = s.moneySet) (h2 : d.payQueue = s.payQueue) (h3 : d.returnMark = s.returnMark)
    (h4 : d.vendQueue = s.vendQueue) (h5 : d.basket = chargedBasket f o s.basket) :
    let t := afterVerdict f o d
    let cards := cardsEnded s t f o
    t = { d with mem := t.mem, noticePending := t.noticePending, payQueue := t.payQueue, returnMark := t.returnMark,
                 basket := t.basket } ∧
    (t.payQueue, t.returnMark) = changeQueued s t f o ∧
    (t.basket = if asksChange s t f o then s.basket else if f.basket = none then s.basket
      else if (basketClosed s f o).isSome then none else basketCharged s f o) ∧
    (asksChange s t f o = false → ∀ b ∈ basketClosed s f o, t.slotHalf b.head 50 = field16 b.charged) ∧
    ∃ e, e.mem = d.mem ∧ e.noticePending = d.noticePending ∧ e.ready = d.ready ∧
      Completed e { e with mem := t.mem, noticePending := t.noticePending } cards
        (fun a => asksChange s t f o = false ∧ ∃ b ∈ basketClosed s f o, a = slotAddr b.head 50 ∨ a = slotAddr b.head 51) := by
  intro t cards
  by_cases hc : f.coin && o.charges && d.moneySet.changeMode == .immediate && decide (0 < d.available)
  · have ht : t = requestReturn .postVend (some ⟨f.slot, some o⟩) d := if_pos hc
    have hcoin : f.coin = true := by simp only [Bool.and_eq_true] at hc; exact hc.1.1.1
    have hb : d.basket = s.basket := by rw [h5, chargedBasket, hcoin]; rfl
    have asks : ∀ t' : State, t'.held = d.held → t'.credit = d.credit → asksChange s t' f o = true := by
      intro t' e1 e2
      unfold asksChange
      rw [← h1, e1, e2]
      simp only [Bool.and_eq_true, State.available] at hc ⊢
      have := of_decide_eq_true hc.2
      exact ⟨hc.1, decide_eq_true (by omega)⟩
    have key : ∀ m, t = complete f.slot o { d with returnMark := m } →
        t = { d with mem := t.mem, noticePending := t.noticePending, returnMark := m } ∧
        Completed d { d with mem := t.mem, noticePending := t.noticePending } [(f.slot, o)] (fun _ => False) := by
      intro m h
      have := (Completed.none (s := { d with returnMark := m }) hm (fun _ => False)).snoc (fun _ h => h.elim) f.slot o
      rw [← h] at this
      refine ⟨this.frame, ⟨rfl, this.wf, ?_, this.notices, this.raised, this.bytes⟩⟩
      exact this.ended
    unfold requestReturn at ht
    split at ht
    · rename_i e he
      rw [h2] at he
      split at ht
      · rename_i x y z; cases z
      · rename_i x hx _
        have ha := asks t (by rw [ht]) (by rw [ht])
        refine ⟨by rw [ht], ?_, ?_, ?_, d, rfl, rfl, rfl, ?_⟩
        · unfold changeQueued; rw [ha, he, ht]; simp [hx, h2, h3]
        · rw [ha, ht]; exact hb
        · intro h; rw [ha] at h; cases h
        · have : cards = [] := by
            show cardsEnded s t f o = []
            unfold cardsEnded; rw [ha, he]; simp [hx]
          rw [this, ht]; exact .none hm _
      · rename_i x y z w; cases w
      · rename_i x slot x' hx hx'
        obtain ⟨rfl, rfl⟩ : f.slot = slot ∧ o = x' := by simpa using hx'
        obtain ⟨k1, k2⟩ := key d.returnMark ht
        have ha := asks t (by rw [k1]) (by rw [k1])
        refine ⟨by rw [k1], ?_, ?_, ?_, d, rfl, rfl, rfl, ?_⟩
        · unfold changeQueued; rw [ha, he, k1]; simp [hx, h2, h3]
        · rw [ha, k1]; exact hb
        · intro h; rw [ha] at h; cases h
        · have : cards = [(f.slot, o)] := by
            show cardsEnded s t f o = _
            unfold cardsEnded; rw [ha, he]; simp [hx]
          rw [this]
          exact ⟨k2.frame, k2.wf, k2.ended, k2.notices, k2.raised, fun a h _ => k2.bytes a h id⟩
    · rename_i he
      rw [h2] at he
      split at ht
      · rename_i hl
        rw [h2] at hl
        have ha := asks t (by rw [ht]) (by rw [ht])
        refine ⟨by rw [ht], ?_, ?_, ?_, d, rfl, rfl, rfl, ?_⟩
        · unfold changeQueued; rw [ha, he, ht]; simp [hl, h2, h3, creditReturnEntry]
        · rw [ha, ht]; exact hb
        · intro h; rw [ha] at h; cases h
        · have : cards = [] := by
            show cardsEnded s t f o = []
            unfold cardsEnded; rw [ha, he]; simp [hl]
          rw [this, ht]; exact .none hm _
      · rename_i hl
        rw [h2] at hl
        obtain ⟨k1, k2⟩ := key (d.returnMark <|> some .postVend) (by rw [ht]; rfl)
        have ha := asks t (by rw [k1]) (by rw [k1])
        refine ⟨by rw [k1], ?_, ?_, ?_, d, rfl, rfl, rfl, ?_⟩
        · unfold changeQueued; rw [ha, he, k1]; simp [hl, h2, h3]
        · rw [ha, k1]; exact hb
        · intro h; rw [ha] at h; cases h
        · have : cards = [(f.slot, o)] := by
            show cardsEnded s t f o = _
            unfold cardsEnded; rw [ha, he]; simp [hl]
          rw [this]
          exact ⟨k2.frame, k2.wf, k2.ended, k2.notices, k2.raised, fun a h _ => k2.bytes a h id⟩
  · have ht : t = endItem f.slot f.basket o d := if_neg hc
    have asks : ∀ t' : State, t'.held = d.held → t'.credit = d.credit → asksChange s t' f o = false := by
      intro t' e1 e2
      unfold asksChange
      rw [← h1, e1, e2]
      rw [Bool.not_eq_true] at hc
      rw [← hc]
      congr 1
      exact decide_eq_decide.mpr (by unfold State.available; omega)
    cases hb : f.basket with
    | none =>
      have hd : d.basket = s.basket := by rw [h5, chargedBasket, hb]; simp
      have ht' : t = complete f.slot o d := by rw [ht, hb]; rfl
      have k := (Completed.none (s := d) hm (fun _ => False)).snoc (fun _ h => h.elim) f.slot o
      rw [← ht'] at k
      have ha := asks t (by rw [k.frame]) (by rw [k.frame])
      have hx : basketClosed s f o = none := by unfold basketClosed; rw [hb]; rfl
      refine ⟨by rw [k.frame], ?_, ?_, ?_, d, rfl, rfl, rfl, ?_⟩
      · unfold changeQueued; rw [ha, k.frame, ← h2, ← h3]; rfl
      · rw [ha, k.frame]; exact hd
      · intro _ b h; rw [hx] at h; cases h
      · have : cards = [(f.slot, o)] := by
          show cardsEnded s t f o = _
          unfold cardsEnded; rw [ha, hx, hb]; rfl
        rw [this, ← k.frame]
        exact ⟨k.frame, k.wf, k.ended, k.notices, k.raised, fun a h _ => k.bytes a h id⟩
    | some head =>
      -- the item's own card, then the basket
      obtain ⟨e, own, he, ho, ht'⟩ : ∃ (e : State) (own : List (Nat × CardOutcome)),
          e = { d with basket := basketCharged s f o, mem := e.mem, noticePending := e.noticePending } ∧
          (Completed { d with basket := basketCharged s f o } e own (fun _ => False) ∧
            own = if f.basket = some f.slot then [] else [(f.slot, o)]) ∧ t = closeBasket e := by
        by_cases hh : f.slot = head
        · refine ⟨{ d with basket := basketCharged s f o }, [], rfl, ⟨.none (s := { d with basket := basketCharged s f o }) hm _, by simp [hb, hh]⟩, ?_⟩
          rw [ht, hb, endItem, if_pos hh]
          congr 1
          simp only [h5, chargedBasket, hb, basketCharged, hh]
          cases s.basket with
          | none => simp
          | some b => cases (!f.coin && o.charges) <;> simp
        · have h6 : d.basket = basketCharged s f o := by
            simp only [h5, chargedBasket, hb, basketCharged]
            have : ¬ head = f.slot := fun e => hh e.symm
            cases s.basket with
            | none => simp
            | some b => cases (!f.coin && o.charges) <;> simp [this]
          have k := (Completed.none (s := d) hm (fun _ => False)).snoc (fun _ h => h.elim) f.slot o
          refine ⟨complete f.slot o d, [(f.slot, o)], ?_, ⟨?_, ?_⟩, ?_⟩
          · rw [← h6]; exact k.frame
          · rw [← h6]; exact k
          · rw [if_neg]; rw [hb]; intro e; exact hh (Option.some.inj e).symm
          · rw [ht, hb, endItem, if_neg hh]
      have ef : e.flight = none ∧ e.vendQueue = s.vendQueue ∧ e.basket = basketCharged s f o := by
        rw [he, ← h4]; exact ⟨hf, rfl, rfl⟩
      have hcl : basketClosed s f o = (basketCharged s f o).filter s.basketEnds := by
        unfold basketClosed; rw [hb]; simp
      -- the basket ends
      have close : (basketClosed s f o = none ∧ t = e) ∨ ∃ b own, basketClosed s f o = some b ∧ b.headOutcome = some own ∧
          t = complete b.head own (putHalf b.head 50 b.charged { e with basket := none }) := by
        rw [ht', closeBasket, ef.2.2, ef.2.1, ef.1, hcl]
        cases hb' : basketCharged s f o with
        | none => exact .inl ⟨rfl, rfl⟩
        | some b =>
          obtain ⟨bh, br, bc, bo⟩ := b
          cases bo with
          | none => exact .inl ⟨rfl, rfl⟩
          | some own =>
            cases hq : s.vendQueue.any (fun e => e.basket == some bh)
            · refine .inr ⟨⟨bh, br, bc, some own⟩, own, ?_, rfl, ?_⟩
              · simp only [Option.filter, State.basketEnds, hq]; rfl
              · show (if (s.vendQueue.any (fun e => e.basket == some bh) || _) then e else _) = _
                rw [hq]; rfl
            · refine .inl ⟨by simp only [Option.filter, State.basketEnds, hq]; rfl, ?_⟩
              show (if (s.vendQueue.any (fun e => e.basket == some bh) || _) then e else _) = _
              rw [hq]; rfl
      have dn : ({ d with basket := basketCharged s f o } : State).noticePending = d.noticePending := rfl
      rcases close with ⟨hx, hte⟩ | ⟨b, own', hx, hown, hte⟩
      · have ha := asks t (by rw [hte, he]) (by rw [hte, he])
        refine ⟨by rw [hte, he], ?_, ?_, ?_, { d with basket := basketCharged s f o }, rfl, rfl, rfl, ?_⟩
        · unfold changeQueued; rw [ha, hte, he, ← h2, ← h3]; rfl
        · rw [ha, hx, hte, ef.2.2]; simp
        · intro _ b h; rw [hx] at h; cases h
        · have : cards = own := by
            show cardsEnded s t f o = _
            unfold cardsEnded; rw [ha, hx, ho.2]; simp
          rw [this, hte, ← he]
          exact ⟨ho.1.frame, ho.1.wf, ho.1.ended, ho.1.notices, ho.1.raised, fun a h _ => ho.1.bytes a h id⟩
      · -- the head completes behind the total
        have g : Completed { d with basket := none } (putHalf b.head 50 b.charged { e with basket := none }) own
            (fun a => a = slotAddr b.head 50 ∨ a = slotAddr b.head 51) := by
          have w := ho.1
          have r : ∀ a, ¬ (a = slotAddr b.head 50 ∨ a = slotAddr b.head 51) →
              readCell (putHalf b.head 50 b.charged { e with basket := none }).mem a = readCell e.mem a := by
            intro a hn
            rw [putHalf, readCell_putSlot (show Memory.wf ({ e with basket := none } : State).mem = true from w.wf), if_neg]
            rw [leBytes_length]; simp only [slotAddr] at *; omega
          refine ⟨?_, putHalf_wf (show Memory.wf ({ e with basket := none } : State).mem = true from w.wf) _ _ _, ?_, ?_, ?_, ?_⟩
          · rw [show putHalf b.head 50 b.charged { e with basket := none } =
              { e with basket := none, mem := (putHalf b.head 50 b.charged { e with basket := none }).mem } from rfl, he]
          · intro c hc
            have := w.ended c hc
            unfold State.holder State.slotHalf State.slotByte at *
            rw [r _ (by simp only [slotAddr]; omega), r _ (by simp only [slotAddr]; omega), r _ (by simp only [slotAddr]; omega)]
            exact this
          · exact w.notices
          · exact w.raised
          · intro a h1 h2
            rw [r a h2]; exact w.bytes a h1 id
        have k := g.snoc (fun a h => by simp only [slotAddr] at h; omega) b.head own'
        rw [← hte] at k
        have ha := asks t (by rw [k.frame]) (by rw [k.frame])
        refine ⟨by rw [k.frame], ?_, ?_, ?_, { d with basket := none }, rfl, rfl, rfl, ?_⟩
        · unfold changeQueued; rw [ha, k.frame, ← h2, ← h3]; rfl
        · rw [ha, hx, k.frame]; simp
        · intro _ b' h
          rw [hx] at h
          obtain rfl : b = b' := by simpa using h
          have pw : Memory.wf ({ e with basket := none } : State).mem = true := ho.1.wf
          have rr : ∀ j < 2, readCell t.mem (slotAddr b.head (50 + j)) = (leBytes (field16 b.charged) 2).getD j 0 := by
            intro j hj
            rw [hte, readCell_complete_of_ne (putHalf_wf pw _ _ _) own' (by simp only [slotAddr]; omega)
              (by simp only [slotAddr]; omega) (by simp only [slotAddr]; omega), putHalf, readCell_putSlot pw, if_pos]
            · congr 1; simp only [slotAddr]; omega
            · rw [leBytes_length]; simp only [slotAddr]; omega
          exact slotHalf_of_bytes (field16_lt _) (rr 0 (by omega)) (rr 1 (by omega))
        · have : cards = own ++ [(b.head, own')] := by
            show cardsEnded s t f o = _
            unfold cardsEnded; rw [ha, hx, ho.2]; simp [hown]
          rw [this, show ({ ({ d with basket := none } : State) with mem := t.mem, noticePending := t.noticePending } : State) = t
            from k.frame.symm]
          exact ⟨k.frame, k.wf, k.ended, k.notices, k.raised, fun a h1 h2 => k.bytes a h1 fun h3 => h2 ⟨ha, b, hx, h3⟩⟩

/-! ## The ends -/

/-- The load is given up at the end of a vend or test (R147). -/
theorem giveUp_rev (s : State) :
    let g := giveUp judgeLoad .drive { s with rev := none }
    g = { s with rev := none, waiting := g.waiting, grants := g.grants, comp := g.comp, runSecond := g.runSecond,
                 defrost := g.defrost, payout := g.payout, ejectors := g.ejectors, live := g.live, tubes := g.tubes,
                 mem := g.mem, noticePending := g.noticePending } ∧
      (∀ w ∈ g.waiting, w.claimant ≠ .drive) ∧ g.hasGrant .drive = false ∧
      (Memory.wf s.mem = true → Memory.wf g.mem = true) ∧ s.noticePending ||| g.noticePending = g.noticePending ∧
      (∀ i : Fin 26, i ≠ 18 → i ≠ 19 → g.live[i] = s.live[i]) ∧
      (Memory.wf s.mem = true → keepsBytes s g (payoutByte s)) ∧
      ((s.without .drive).headStays → g = { s.without .drive with rev := none }) := by
  intro g
  obtain ⟨u, hu, j, hg⟩ := giveUp_drive { s with rev := none }
  subst hu
  exact ⟨j.frame, j.noDrive, hg, j.wf, j.notices, j.live, j.bytes, fun h => judgeLoad_of_full h⟩

theorem verdict_some {s : State} {f : Flight} (hf : s.flight = some f) (judge : State → State) (o : CardOutcome) :
    verdict judge o s = afterVerdict f o
      { putVendResult f.slot (if o.charges then f.price else 0) f.revolutions f.dropSeen
          (auditVerdict f o (recordEnd f.spiral f.twin o
            (settleMoney f o (giveUp judge .drive { s with rev := none })))) with flight := none } := by
  unfold verdict
  split
  · rename_i e; rw [hf] at e; cases e
  · rename_i f' e
    obtain rfl : f = f' := by rw [hf] at e; exact Option.some.inj e
    rfl

theorem testEnd_some {s : State} {f : Flight} (hf : s.flight = some f) (judge : State → State) (o : CardOutcome)
    (time : Nat) :
    testEnd judge o time s = complete f.slot o
      { (putHalf f.slot 40 time (recordEnd f.spiral f.twin o (giveUp judge .drive { s with rev := none }))).putSlot f.slot 42
          (leBytes (dropTimeField f.dropSeen) 2) with flight := none } := by
  unfold testEnd
  split
  · rename_i e; rw [hf] at e; cases e
  · rename_i f' e
    obtain rfl : f = f' := by rw [hf] at e; exact Option.some.inj e
    rfl

/-- A card that completes with a vend is its own card or the head of the basket that ends. -/
theorem cardsEnded_slot {s t : State} {f : Flight} {o : CardOutcome} {c : Nat × CardOutcome} (h : c ∈ cardsEnded s t f o) :
    c.1 = f.slot ∨ ∃ b ∈ basketClosed s f o, c.1 = b.head := by
  unfold cardsEnded at h
  split at h
  · split at h
    · split at h
      · cases h
      · exact .inl (by rw [List.mem_singleton.mp h])
    · split at h
      · cases h
      · exact .inl (by rw [List.mem_singleton.mp h])
  · rcases List.mem_append.mp h with h | h
    · split at h
      · cases h
      · exact .inl (by rw [List.mem_singleton.mp h])
    · rw [Option.mem_toList] at h
      obtain ⟨b, hb, hm⟩ := Option.bind_eq_some_iff.mp h
      obtain ⟨own, -, e⟩ := Option.map_eq_some_iff.mp hm
      exact .inr ⟨b, hb, by rw [← e]⟩

/-- R58, R67 to R69: a verdict ends the vend in flight, by its outcome. -/
theorem verdict_ended {s : State} {f : Flight} {o : CardOutcome} (hm : Memory.wf s.mem = true) (hf : s.flight = some f)
    (h : o ≠ .homeOk) (h' : o ≠ .testJammed) : vendEnded s (verdict judgeLoad o s) f o := by
  obtain ⟨g1, g2, g3, g4, g5, g6, g7, g8⟩ := giveUp_rev s
  rw [verdict_some hf]
  generalize giveUp judgeLoad .drive { s with rev := none } = g at *
  obtain ⟨a1, a2, a3⟩ := settleMoney_eq f o g
  generalize settleMoney f o g = a at *
  obtain ⟨b1, b2⟩ := recordEnd_eq f.spiral f.twin o a
  obtain ⟨b3, b4⟩ := recordEnd_table f.spiral f.twin o a
  have b5 := fun hr => @recordEnd_raised f.spiral f.twin o a hr
  generalize recordEnd f.spiral f.twin o a = b at *
  obtain ⟨c1, c2⟩ := auditVerdict_eq f o b
  generalize auditVerdict f o b = c at *
  have cm : c.mem = g.mem := by rw [c1, b1, a1]
  have cw : Memory.wf c.mem = true := by rw [cm]; exact g4 hm
  have d1 := putVendResult_eq f.slot (if o.charges then f.price else 0) f.revolutions f.dropSeen c
  have d2 := putVendResult_wf cw f.slot (if o.charges then f.price else 0) f.revolutions f.dropSeen
  have d3 := readCell_putVendResult cw f.slot (if o.charges then f.price else 0) f.revolutions f.dropSeen
  generalize putVendResult f.slot (if o.charges then f.price else 0) f.revolutions f.dropSeen c = d at *
  have gs : g.basket = s.basket ∧ g.vendQueue = s.vendQueue := by rw [g1]; exact ⟨rfl, rfl⟩
  have ds : d.moneySet = s.moneySet ∧ d.payQueue = s.payQueue ∧ d.returnMark = s.returnMark ∧
      d.vendQueue = s.vendQueue ∧ d.basket = chargedBasket f o g.basket := by
    rw [d1, c1, b1, a1, g1]; exact ⟨rfl, rfl, rfl, rfl, rfl⟩
  rw [gs.1] at ds
  obtain ⟨e1, e2, e3, e4, x, x1, x2, x3, e5⟩ := afterVerdict_spec f o (s := s) (d := { d with flight := none }) d2 rfl
    ds.1 ds.2.1 ds.2.2.1 ds.2.2.2.1 ds.2.2.2.2
  generalize afterVerdict f o { d with flight := none } = t at *
  have et : t =
      { s with flight := none, rev := none, credit := t.credit, held := t.held, spirals := t.spirals,
               live := t.live, mem := t.mem, payQueue := t.payQueue, returnMark := t.returnMark, basket := t.basket,
               noticePending := t.noticePending, waiting := t.waiting, grants := t.grants, comp := t.comp,
               runSecond := t.runSecond, defrost := t.defrost, payout := t.payout, ejectors := t.ejectors,
               tubes := t.tubes } := by
    rw [e1, d1, c1, b1, a1, g1]
  have tf : t.credit = a.credit ∧ t.held = a.held ∧ t.spirals = b.spirals ∧ t.live = c.live ∧ t.waiting = g.waiting ∧
      t.grants = g.grants := by
    rw [e1, d1, c1, b1, a1]; exact ⟨rfl, rfl, rfl, rfl, rfl, rfl⟩
  have ag : a.spirals = s.spirals ∧ g.credit = s.credit ∧ g.held = s.held := by
    rw [a1, g1]; exact ⟨rfl, rfl, rfl⟩
  have bl : b.live = g.live := by rw [b1, a1]
  have dm : ({ d with flight := none } : State).mem = d.mem := rfl
  have rd : ∀ y, y % 64 ≠ 0 → y % 64 ≠ 6 → y % 64 ≠ 7 → y % 64 ≠ 50 → y % 64 ≠ 51 → readCell t.mem y = readCell d.mem y := by
    intro y y0 y6 y7 y50 y51
    have := e5.bytes y
      (fun c _ => by simp only [slotAddr]; omega)
      (by rintro ⟨_, z, _, hz⟩; simp only [slotAddr] at hz; omega)
    rw [x1, dm] at this
    exact this
  have rf : ∀ k, 40 ≤ k → k < 46 → readCell t.mem (slotAddr f.slot k) =
      (leBytes (field16 (if o.charges then f.price else 0)) 2 ++ [BitVec.ofNat 8 f.revolutions, 0] ++
        leBytes (dropTimeField f.dropSeen) 2).getD (k - 40) 0 := by
    intro k h1 h2
    rw [rd _ (by simp only [slotAddr]; omega) (by simp only [slotAddr]; omega) (by simp only [slotAddr]; omega)
        (by simp only [slotAddr]; omega) (by simp only [slotAddr]; omega), d3, if_pos (by simp only [slotAddr]; omega),
      show slotAddr f.slot k - slotAddr f.slot 40 = k - 40 by simp only [slotAddr]; omega]
  have bs : ∀ y, ¬ cardByte f.slot y ∧ ¬ basketByte s f y → readCell t.mem y = readCell g.mem y := by
    intro y hy
    have hy1 := hy.1
    simp only [cardByte, slotAddr] at hy1
    have hcl : ∀ z ∈ basketClosed s f o, f.basket.isSome ∧ ∃ w ∈ s.basket, w.head = z.head := by
      intro z hz
      unfold basketClosed at hz
      split at hz
      · cases hz
      · rename_i hb
        refine ⟨Option.isSome_iff_ne_none.mpr hb, ?_⟩
        have hz' := (Option.mem_filter_iff.mp hz).1
        unfold basketCharged at hz'
        obtain ⟨w, hw, e⟩ := Option.map_eq_some_iff.mp hz'
        exact ⟨w, hw, by rw [← e]⟩
    have := e5.bytes y
      (fun c hc => by
        rcases cardsEnded_slot hc with e | ⟨z, hz, e⟩
        · rw [e]; simp only [slotAddr]; omega
        · obtain ⟨i1, w, hw, i2⟩ := hcl z hz
          have hn := hy.2
          have : ¬ cardByte w.head y := fun hc => hn ⟨i1, w, hw, hc⟩
          simp only [cardByte, slotAddr] at this
          rw [e, ← i2]
          simp only [slotAddr]; omega)
      (by
        rintro ⟨_, z, hz, hy'⟩
        obtain ⟨i1, w, hw, i2⟩ := hcl z hz
        refine hy.2 ⟨i1, w, hw, ?_⟩
        simp only [cardByte, slotAddr, i2] at *; omega)
    rw [x1, dm] at this
    refine this.trans ?_
    rw [d3, if_neg (by simp only [slotAddr]; omega), cm]
  exact {
    idle := by rw [et]; exact ⟨rfl, rfl⟩
    load := by
      refine ⟨by rw [State.hasGrant, tf.2.2.2.2.2]; exact g3, ?_⟩
      rw [State.waitingFor, tf.2.2.2.2.1]
      intro hw
      obtain ⟨w, hw, e⟩ := List.mem_map.mp hw
      exact g2 w hw e
    credit := by rw [tf.1, a1, ag.2.1]
    held := by rw [tf.2.1, a1, ag.2.2]
    record := by
      rw [tf.2.2.1, b3, ag.1]
      exact recordEnded_afterEnd h h' _
    table := by
      unfold tableEnded at *
      rw [tf.2.2.1]
      rw [ag.1] at b4
      exact b4
    audit := fun i h1 h2 => by rw [tf.2.2.2.1, c2, bl, g6 i h1 h2]
    charged := slotHalf_of_bytes (field16_lt _) (rf 40 (by omega) (by omega)) (rf 41 (by omega) (by omega))
    revolutions := by
      rw [State.slotByte, rf 42 (by omega) (by omega)]
      exact BitVec.toNat_ofNat _ _
    dropTime := slotHalf_of_bytes (dropTimeField_lt _) (rf 44 (by omega) (by omega)) (rf 45 (by omega) (by omega))
    queue := e2
    basket := e3
    total := e4
    cards := e5.ended
    waits := fun hn hp => by
      have hk : ∀ y, y = slotAddr f.slot 0 → readCell t.mem y = readCell s.mem y := by
        rintro y rfl
        have := e5.bytes (slotAddr f.slot 0)
          (fun c hc => by
            refine ⟨fun e => hn (List.mem_map.mpr ⟨c, hc, ?_⟩), ?_, ?_⟩ <;> simp only [slotAddr] at * <;> omega)
          (by rintro ⟨_, z, _, hz⟩; simp only [slotAddr] at hz; omega)
        rw [x1, dm] at this
        refine this.trans ?_
        rw [d3, if_neg (by simp only [slotAddr]; omega), cm]
        exact g7 hm _ hp
      unfold State.holder State.slotByte
      rw [hk _ rfl]
    notices := by
      refine or_trans g5 (or_trans a2 (or_trans b2 ?_))
      have : b.noticePending = x.noticePending := by rw [x2, show ({ d with flight := none } : State).noticePending =
        d.noticePending from rfl, d1, c1]
      rw [this]; exact e5.notices
    raised := fun hr hs => by
      have hg := g8 hs
      have gr : g.ready = true := by rw [hg]; exact hr
      have ar : a.ready = true := by rw [a1]; exact gr
      have xr : x.ready = true := by
        rw [x3, show ({ d with flight := none } : State).ready = d.ready from rfl, d1, c1, b1]; exact ar
      have xn : x.noticePending = s.noticePending ||| moneyIf f.coin ||| spiralIf a b := by
        rw [x2, show ({ d with flight := none } : State).noticePending = d.noticePending from rfl, d1, c1,
          show ({ b with live := c.live } : State).noticePending = b.noticePending from rfl, b5 ar, a3 gr, hg]
        rfl
      have q : x.cardsBits ((cardsEnded s t f o).map Prod.fst) = s.cardsBits ((cardsEnded s t f o).map Prod.fst) := by
        refine cardsBits_congr fun slot => ?_
        rw [x1, dm, d3, if_neg (by simp only [slotAddr]; omega), cm, hg]
        rfl
      have sp : spiralIf a b = spiralIf s t := by
        unfold spiralIf
        rw [tf.2.2.1, ag.1]
      have := e5.raised xr
      rw [show t.noticePending = _ from this, xn, q, sp]
      congr 1
      rw [BitVec.or_assoc, BitVec.or_assoc, BitVec.or_comm (moneyIf f.coin)]
    frame := et
    bytes := fun y hy => by
      simp only [not_or] at hy
      exact (bs y ⟨hy.1, hy.2.2⟩).trans (g7 hm y hy.2.1)
    alone := fun hs => by
      have hg := g8 hs
      refine ⟨by rw [e1, d1, c1, b1, a1, hg], fun i => by rw [tf.2.2.2.1, c2, bl, hg]; rfl, fun y hy => ?_⟩
      simp only [not_or] at hy
      rw [bs y hy, hg]
      rfl }

/-- R79: the end of a test. -/
theorem testEnd_ended {s : State} {f : Flight} {o : CardOutcome} (hm : Memory.wf s.mem = true) (hf : s.flight = some f)
    (h : o = .homeOk ∨ o = .testJammed ∨ o = .testAborted ∨ o = .loadTimeout) (time : Nat) :
    testEnded s (testEnd judgeLoad o time s) f o time := by
  obtain ⟨g1, g2, g3, g4, g5, g6, g7, g8⟩ := giveUp_rev s
  rw [testEnd_some hf]
  generalize giveUp judgeLoad .drive { s with rev := none } = g at *
  obtain ⟨b1, b2⟩ := recordEnd_eq f.spiral f.twin o g
  obtain ⟨b3, b4⟩ := recordEnd_table f.spiral f.twin o g
  have b5 := fun hr => @recordEnd_raised f.spiral f.twin o g hr
  generalize recordEnd f.spiral f.twin o g = b at *
  have bm : b.mem = g.mem := by rw [b1]
  have bw : Memory.wf b.mem = true := by rw [bm]; exact g4 hm
  have cw : Memory.wf (putHalf f.slot 40 time b).mem = true := putHalf_wf bw _ _ _
  have dw : Memory.wf ((putHalf f.slot 40 time b).putSlot f.slot 42 (leBytes (dropTimeField f.dropSeen) 2)).mem = true :=
    putSlot_wf cw _ _ _
  have d1 : (putHalf f.slot 40 time b).putSlot f.slot 42 (leBytes (dropTimeField f.dropSeen) 2) =
      { b with mem := ((putHalf f.slot 40 time b).putSlot f.slot 42 (leBytes (dropTimeField f.dropSeen) 2)).mem } := rfl
  have d3 : ∀ a, readCell ((putHalf f.slot 40 time b).putSlot f.slot 42 (leBytes (dropTimeField f.dropSeen) 2)).mem a =
      if slotAddr f.slot 40 ≤ a ∧ a < slotAddr f.slot 44 then
        (leBytes (field16 time) 2 ++ leBytes (dropTimeField f.dropSeen) 2).getD (a - slotAddr f.slot 40) 0
      else readCell b.mem a := by
    intro a
    rw [readCell_putSlot cw, putHalf, readCell_putSlot bw, leBytes_length, leBytes_length]
    by_cases h1 : slotAddr f.slot 40 ≤ a ∧ a < slotAddr f.slot 44
    · rw [if_pos h1]
      obtain ⟨k, rfl⟩ : ∃ k, a = slotAddr f.slot 40 + k := ⟨a - slotAddr f.slot 40, by omega⟩
      have hk : k < 4 := by simp only [slotAddr] at h1; omega
      rw [Nat.add_sub_cancel_left]
      by_cases h2 : k < 2
      · rw [if_neg (by simp only [slotAddr]; omega), if_pos (by simp only [slotAddr]; omega)]
        obtain rfl | rfl : k = 0 ∨ k = 1 := by omega
        all_goals rfl
      · rw [if_pos (by simp only [slotAddr]; omega),
          show slotAddr f.slot 40 + k - slotAddr f.slot 42 = k - 2 by simp only [slotAddr]; omega]
        obtain rfl | rfl : k = 2 ∨ k = 3 := by omega
        all_goals rfl
    · rw [if_neg h1, if_neg (by simp only [slotAddr] at *; omega), if_neg (by simp only [slotAddr] at *; omega)]
  generalize (putHalf f.slot 40 time b).putSlot f.slot 42 (leBytes (dropTimeField f.dropSeen) 2) = d at *
  have ew : Memory.wf ({ d with flight := none } : State).mem = true := dw
  have e1 := complete_shape f.slot o { d with flight := none }
  have e2 := or_complete f.slot o { d with flight := none }
  have e3 := complete_done ew f.slot o
  have e4 := fun a => @readCell_complete_of_ne { d with flight := none } ew f.slot o a
  have e5 := fun hr => complete_cards (s := { d with flight := none }) ew hr f.slot o
  generalize complete f.slot o { d with flight := none } = t at *
  have et : t =
      { s with flight := none, rev := none, spirals := t.spirals, live := t.live, mem := t.mem,
               noticePending := t.noticePending, waiting := t.waiting, grants := t.grants, comp := t.comp,
               runSecond := t.runSecond, defrost := t.defrost, payout := t.payout, ejectors := t.ejectors,
               tubes := t.tubes } := by
    rw [e1, d1, b1, g1]
  have tf : t.spirals = b.spirals ∧ t.waiting = g.waiting ∧ t.grants = g.grants := by
    rw [e1, d1, b1]; exact ⟨rfl, rfl, rfl⟩
  have gs : g.spirals = s.spirals := by rw [g1]
  have rf : ∀ k, 40 ≤ k → k < 44 → readCell t.mem (slotAddr f.slot k) =
      (leBytes (field16 time) 2 ++ leBytes (dropTimeField f.dropSeen) 2).getD (k - 40) 0 := by
    intro k h1 h2
    rw [e4 _ (by simp only [slotAddr]; omega) (by simp only [slotAddr]; omega) (by simp only [slotAddr]; omega),
      show ({ d with flight := none } : State).mem = d.mem from rfl, d3, if_pos (by simp only [slotAddr]; omega),
      show slotAddr f.slot k - slotAddr f.slot 40 = k - 40 by simp only [slotAddr]; omega]
  have bs : ∀ x, ¬ cardByte f.slot x → readCell t.mem x = readCell g.mem x := by
    intro x hx
    simp only [cardByte, slotAddr] at hx
    rw [e4 x (by simp only [slotAddr]; omega) (by simp only [slotAddr]; omega) (by simp only [slotAddr]; omega),
      show ({ d with flight := none } : State).mem = d.mem from rfl, d3, if_neg (by simp only [slotAddr]; omega), bm]
  exact {
    idle := by rw [et]; exact ⟨rfl, rfl⟩
    load := by
      refine ⟨by rw [State.hasGrant, tf.2.2]; exact g3, ?_⟩
      rw [State.waitingFor, tf.2.1]
      intro hw
      obtain ⟨w, hw, e⟩ := List.mem_map.mp hw
      exact g2 w hw e
    record := by
      rw [tf.1, b3, gs]
      exact recordTested_afterEnd h _
    table := by
      unfold tableEnded at *
      rw [tf.1]
      rw [gs] at b4
      exact b4
    result := ⟨slotHalf_of_bytes (field16_lt _) (rf 40 (by omega) (by omega)) (rf 41 (by omega) (by omega)),
      slotHalf_of_bytes (dropTimeField_lt _) (rf 42 (by omega) (by omega)) (rf 43 (by omega) (by omega))⟩
    card := e3
    notices := by
      refine or_trans g5 (or_trans b2 ?_)
      have : b.noticePending = d.noticePending := by rw [d1]
      rw [this]; exact e2
    raised := fun hr hs => by
      have hg := g8 hs
      have dr : d.ready = true := by rw [d1, b1, g1]; exact hr
      have dn : d.noticePending = g.noticePending ||| spiralIf g b := by
        rw [← b5 (by rw [g1]; exact hr), d1]
      have gn : g.noticePending = s.noticePending := by rw [hg]; rfl
      have q : ({ d with flight := none } : State).cardsBit f.slot = s.cardsBit f.slot := by
        refine cardsBit_congr ?_
        rw [show ({ d with flight := none } : State).mem = d.mem from rfl, d3, if_neg (by simp only [slotAddr]; omega), bm, hg]
        rfl
      rw [e5 dr, show ({ d with flight := none } : State).noticePending = d.noticePending from rfl, q, dn, gn]
      congr 2
      unfold spiralIf
      rw [tf.1, gs]
    frame := et
    bytes := fun x hx => by
      simp only [not_or] at hx
      exact (bs x hx.1).trans (g7 hm x hx.2)
    alone := fun hs => by
      have hg := g8 hs
      refine ⟨by rw [e1, d1, b1, hg], fun x hx => ?_⟩
      rw [bs x hx, hg]
      rfl }

/-- The end of the vend or test in flight. -/
theorem endFlight_ended {s : State} {f : Flight} {o testO : CardOutcome} (hm : Memory.wf s.mem = true)
    (hf : s.flight = some f) (h : o ≠ .homeOk) (h' : o ≠ .testJammed)
    (ht : testO = .homeOk ∨ testO = .testJammed ∨ testO = .testAborted ∨ testO = .loadTimeout) :
    flightEnded s (endFlight judgeLoad o testO s) f o testO := by
  unfold endFlight
  rw [hf]
  dsimp only
  refine ⟨fun e => ?_, fun e => ?_⟩
  · rw [e]; exact verdict_ended hm hf h h'
  · rw [e]; exact testEnd_ended hm hf ht 0

/-! ## Reports of the drive matrix -/

/-- The end is told from a state that differs in what the end overwrites. -/
theorem vendEnded_of {x s t : State} {f : Flight} {o : CardOutcome} (h : vendEnded x t f o)
    {r : Option Revolution} {fl : Option Flight} (hx : x = { s with rev := r, flight := fl }) : vendEnded s t f o := by
  subst hx
  exact { h with }

theorem testEnded_of {x s t : State} {f : Flight} {o : CardOutcome} {time : Nat} (h : testEnded x t f o time)
    {r : Option Revolution} {fl : Option Flight} (hx : x = { s with rev := r, flight := fl }) : testEnded s t f o time := by
  subst hx
  exact { h with }

theorem flightEnded_of {x s t : State} {f : Flight} {o testO : CardOutcome} (h : flightEnded x t f o testO)
    {r : Option Revolution} {fl : Option Flight} (hx : x = { s with rev := r, flight := fl }) :
    flightEnded s t f o testO :=
  ⟨fun e => vendEnded_of (h.1 e) hx, fun e => testEnded_of (h.2 e) hx⟩

theorem flightEnded_notices {x t : State} {f : Flight} {o testO : CardOutcome} (h : flightEnded x t f o testO) :
    x.noticePending ||| t.noticePending = t.noticePending := by
  cases hf : f.isTest
  · exact (h.1 hf).notices
  · exact (h.2 hf).notices

theorem working_ready {s : State} (h : s.working = true) : s.ready = true := by
  simp only [State.working, Bool.and_eq_true] at h; exact h.1

theorem working_pfail {s : State} (h : s.working = true) : s.pfail = .clear := by
  simp only [State.working, Bool.and_eq_true, beq_iff_eq] at h; exact h.2

/-- A class that is pending stays pending while flags are only added. -/
theorem pending_of_or {c : NoticeClass} {n m : BitVec 9} (h : n ||| m = m) (hn : n &&& c.bit ≠ 0) : m &&& c.bit ≠ 0 := by
  intro e
  apply hn
  have : n &&& m = n := by
    rw [← h]
    ext i hi
    simp only [BitVec.getElem_and, BitVec.getElem_or]
    cases n[i] <;> simp
  rw [← this, BitVec.and_assoc, e]
  exact BitVec.and_zero

theorem raised (c : NoticeClass) (n : BitVec 9) : (n ||| c.bit) &&& c.bit ≠ 0 := by
  have h : (n ||| c.bit) &&& c.bit = c.bit := by
    ext i hi
    simp only [BitVec.getElem_and, BitVec.getElem_or]
    cases c.bit[i] <;> simp
  rw [h]
  cases c <;> decide

/-- A jam raises DRIVE and ends the vend or test in flight (R71, R79, R90). -/
theorem jamReport_ended {s : State} {f : Flight} (hm : Memory.wf s.mem = true) (hr : s.ready = true)
    (hf : s.flight = some f) :
    flightEnded { s with noticePending := s.noticePending ||| NoticeClass.drive.bit } (jamReport judgeLoad s) f .jammed
      .testJammed := by
  have hx : raise .drive { s with rev := none } =
      { s with rev := none, noticePending := s.noticePending ||| NoticeClass.drive.bit } := by
    simp [raise, hr]
  have h := endFlight_ended (s := raise .drive { s with rev := none }) (f := f) (o := .jammed) (testO := .testJammed)
    (by rw [hx]; exact hm) (by rw [hx]; exact hf) (by decide) (by decide) (by decide)
  exact flightEnded_of (fl := s.flight) h hx

end Sys2Proof.Machine
end

