-- ==== Sys2Proof/Tests/Slice0.lean ====
section
/-! SUPPORT. Tests on small states. The expected values come from the manual: its tables and its worked sequences, named at
each test. Then, for each statement with hypotheses, a state and operands that meet them, at the ends of their ranges. -/

namespace Sys2Proof.Tests

open Sys2Proof Sys2Proof.Machine

-- One theorem at a time: the evaluations of many at once would each hold a thread that waits for the kernel.
set_option Elab.async false

/-! ## Well-formedness: an ill-formed operand of each check is refused -/

theorem test_slot_128_refused : (Instr.memoryWrite 0 [] [128]).wellFormed = false := by decide
theorem test_command_byte_is_known : (Instr.unknownCommand 0x61).wellFormed = false := by decide
theorem test_mask_write_needs_two_bytes : (Instr.noticeMaskWrite [1]).wellFormed = false := by decide
theorem test_mask_write_is_not_refused : (Instr.registerWriteRefused 2 [1, 2]).wellFormed = false := by decide
theorem test_short_is_above_limit : (Instr.motorShort 300).wellFormed = false := by decide
theorem test_current_is_within_limit : (Instr.motorCurrentChange 0 301).wellFormed = false := by decide
theorem test_pass_is_below_limit : (Instr.offCurrentCheckPass 5).wellFormed = false := by decide
theorem test_fail_reaches_limit : (Instr.offCurrentCheckFail 4).wellFormed = false := by decide

/-! ## Small states -/

/-- The next state of a command; no command of the part stops. -/
def run (i : Instr) (s : State) : State :=
  match exec i s with
  | .next t => t
  | .fault _ => s
  | .refused _ => s

/-- A card written into a slot; `body` stands from offset 8 on. -/
def card (slot : Nat) (holder kind link : Byte) (body : List Byte) (s : State) : State :=
  s.putSlot slot 0 ([holder, kind, 0, 0, link, 0, 0, 0] ++ body)

/-- A posted card at the tail of the intake list. -/
def posted (slot : Nat) (kind : Byte) (body : List Byte) (s : State) : State :=
  { card slot 1 kind 255 body s with intake := s.intake ++ [slot] }

/-- A tube of a value, with a count and a reserve. -/
def tube (value count reserve : Nat) : Tube := { Tube.factory with value := value, count := count, reserve := reserve }

/-- The four tubes of 7.6: 5 c, 10 c, 20 c and 50 c. -/
def coinTubes (a b c d : Nat) : Vector Tube 4 := #v[tube 1 a 0, tube 2 b 0, tube 4 c 0, tube 10 d 0]

/-- Spiral 1 is READY at a price of 10 with a stock of 5, the drive is OK, and 20 are credited. -/
def selling : State :=
  { State.reset with spirals := State.reset.spirals.set 0 { Spiral.factory with state := .ready, price := 10, stock := 5 },
                     driveFaulted := false, credit := 20 }

/-- A coin vend of spiral 1 in CLAIMING. -/
def claimingVend : Flight :=
  { slot := 5, basket := none, isTest := false, spiral := 0, twin := false, chilled := false, price := 10, coin := true,
    loadWait := 20, revolutionLimit := 60, extraTurns := 1, assurance := .preferred, stage := .claiming, revolutions := 0,
    firstStart := none, dropSeen := none, loadTimer := some 20000, dropTimer := none }

/-- The same vend as its motor turns. -/
def turningVend : Flight := { claimingVend with stage := .turning, firstStart := some 0, loadTimer := none }

/-- A cam record of spiral 1. -/
def cam (level : CamLevel) (edge : Option Nat) (phase : CamPhase) : Cam :=
  { spiral := 0, level := level, edge := edge, phase := phase, openTime := none, closeTime := none, limitWaits := false }

/-- A revolution of jam class 2 that began at 0. -/
def revolution (cams : List Cam) : Revolution :=
  { started := 0, classLimit := 90, current := 0, jamSince := none, cams := cams }

/-- A flight in progress, its motors as given, the held amount its price. -/
def flying (f : Flight) (r : Option Revolution) : State :=
  { selling with flight := some f, rev := r, held := 10, grants := [⟨.drive, 2⟩] }

/-- A credit return of 17 in flight from the tubes of 8.7; `pulse` is the tube whose pulse it waits for. -/
def paying (left : CoinsLeft) (air : Option AirCoin) (pulse : Option (Fin 4)) : Payout :=
  { entry := ⟨.postVend, .creditReturn, none, 0, Vector.replicate 4 0⟩, due := 17, paid := 0, left := left,
    coinsPaid := Vector.replicate 4 0, emptyEvents := 0, air := air, pulse := pulse }

/-! ## The worked cases and sequences of the manual -/

/-- 7.6.1: three 20 c coins, the 50 c coin left. -/
theorem test_plan_skips_largest :
    planFor (coinTubes 0 0 3 1) 12 = ⟨[(10, 0), (4, 3), (2, 0), (1, 0)], 12, false⟩ := by decide +kernel

/-- 7.6.2: pass 1 fails, pass 2 finds 50 + 10 + 10 + 5. -/
theorem test_plan_uses_reserve :
    planFor #v[tube 1 6 4, tube 2 3 2, tube 4 0 0, tube 10 2 0] 15 =
      ⟨[(10, 1), (4, 0), (2, 2), (1, 1)], 15, true⟩ := by decide +kernel

/-- 7.6.3: the best-under of 15 is 12. -/
theorem test_plan_best_under :
    planFor (coinTubes 0 0 3 0) 15 = ⟨[(10, 0), (4, 3), (2, 0), (1, 0)], 12, false⟩ := by decide +kernel

/-- 7.6.4: the starting state, and after one 5 c coin has left. -/
theorem test_exact_change_follows_reserve :
    exactChangeFlag #v[tube 1 3 2, tube 2 8 0, tube 4 10 0, tube 10 20 0] 100 = false ∧
    guaranteedAmount #v[tube 1 3 2, tube 2 8 0, tube 4 10 0, tube 10 20 0] 100 = 100 ∧
    exactChangeFlag #v[tube 1 2 2, tube 2 8 0, tube 4 10 0, tube 10 20 0] 100 = true ∧
    guaranteedAmount #v[tube 1 2 2, tube 2 8 0, tube 4 10 0, tube 10 20 0] 100 = 0 := by decide +kernel

/-- 7.6.5: the run breaks at 8. -/
theorem test_guarantee_breaks :
    guaranteedAmount #v[tube 0 0 0, tube 2 3 0, tube 0 0 0, tube 10 5 0] 100 = 6 := by decide +kernel

/-- 8.7, 970 ms: 20 c is found empty; 7 is planned anew as two 10 c and one 5 c, and a 10 c coin is ejected. -/
theorem test_empty_tube_is_planned_anew :
    ((run .confirmWindowExpiry
        { State.reset with
          tubes := coinTubes 1 2 3 0, credit := 7,
          payout := some { paying (.byValue [(10, 0), (4, 1), (2, 1), (1, 1)]) (some ⟨2, 4, true, 970⟩) none with
                           paid := 10 } }).payout.map
      fun p => (p.left, p.air.map AirCoin.tube)) =
      some (.byValue [(10, 0), (4, 0), (2, 2), (1, 1)], some 1) := by decide +kernel

/-- 6.10: the 50 c coin at C = 390 enters tube 4. -/
theorem test_coin_enters_tube :
    let t := run (.coinArrival 3)
      { State.reset with credit := 390, channels := Vector.replicate 6 ⟨10, some 3, true⟩,
                         tubes := State.reset.tubes.set 3 { tube 10 59 2 with capacity := 60 } }
    t.credit = 400 ∧ t.tubes[3].count = 60 ∧ t.tubes[3].gate = some 400 ∧ t.globalInhibit = true := by decide +kernel

/-- 9.6, 2.0 s: the shrink to 3 lets the twin and the payout in. -/
theorem test_shrink_admits_both :
    let t := run .startWindowExpiry
      { State.reset with
        now := 2000, comp := ⟨.starting, none, some 60000, some 2000⟩, grants := [⟨.compressor, 10⟩],
        waiting := [⟨.drive, 4⟩, ⟨.payout, 1⟩], flight := some claimingVend,
        payout := some (paying (.byValue []) none none) }
    t.waiting = [] ∧ t.grants.map Claim.size = [3, 4] ∧ t.comp.state = .running := by decide +kernel

/-- 5.8: the bounce at 268 ms drops the pending edge; the one at 275 ms stands. -/
theorem test_bounce_drops_edge :
    let s := { flying turningVend (some (revolution [cam .closed (some 260) .awaitOpen])) with now := 260 }
    let t := run (.camLineChange 8 0 .closed) s
    let u := run (.camLineChange 7 0 .opened) t
    (t.rev.map fun r => r.cams.map Cam.edge) = some [none] ∧ (u.rev.map fun r => r.cams.map Cam.edge) = some [some 275] := by
  decide +kernel

/-- 5.9: the short at 3.40 A. -/
theorem test_short_faults_drive :
    let t := run (.motorShort 340) (flying turningVend (some (revolution [cam .opened none .turningOpen])))
    t.driveFaulted = true ∧ t.spirals[0].state = .jammed ∧ t.spirals[0].stock = 5 ∧ t.credit = 20 ∧ t.held = 0 ∧
      t.store.state = .saving := by decide +kernel

/-- 5.9: the current of 0.08 A fails the check. -/
theorem test_off_current_is_shown :
    let t := run (.offCurrentCheckFail 8) { card 9 2 16 255 [] State.reset with offCheck := some ⟨9, some 100⟩ }
    t.slotHalf 9 6 = 0x000C ∧ t.slotHalf 9 40 = 8 ∧ t.driveFaulted = true := by decide +kernel

/-- 10.2.1: k = 2; the codes 1202 and 1147 convert to 40 and 20. -/
theorem test_filter_case :
    let cold := { CoolingSettings.factory with filterK := 2 }
    let s := { State.reset with coolSet := cold, cabA := ⟨.valid, 480, 0, 0⟩ }
    let t := run (.sample 1202 0 0) (run (.sample 1202 0 0) s)
    let u := run (.sample 1147 0 0) t
    t.cabA.filter = 550 ∧ u.cabA.filter = 492 ∧ (run (.sample 0 0 0) u).cabA = ⟨.valid, 492, 1, 0⟩ := by decide +kernel

/-- R22, R23, R19: bytes written to the scratch area are read back; the identity block begins 0x7B, 0x0C (2.7.7). -/
theorem test_memory_write_read :
    (run (.memoryRead (some 0x0048) 2) (run (.memoryWrite 0x0048 [0xAB, 0xCD] []) State.reset)).dataOut =
      [0, 0, 0, 0, 0xAB, 0xCD] ∧
    (run (.memoryRead (some 0x0000) 2) State.reset).dataOut = [0, 0, 0, 0, 0x7B, 0x0C] := by decide +kernel

/-- R22: the second byte of C is sent as the first captured it, though a coin has come between them; entered at its second
byte the field is not captured. -/
theorem test_read_captures_field :
    let coin := run (.coinArrival 0)
    let s := { State.reset with credit := 255, channels := Vector.replicate 6 ⟨1, none, true⟩ }
    (run (.memoryRead none 1) (coin (run (.memoryRead (some 0x0058) 1) s))).dataOut = [0] ∧
    (run (.memoryRead none 1) (coin (run (.memoryRead (some 0x0057) 1) s))).dataOut = [0] ∧
    (run (.memoryRead none 2) (coin (run (.memoryRead (some 0x0059) 0) s))).dataOut = [1, 0] := by decide +kernel

/-- R41, R42: DRIVE stands above CARDS. -/
theorem test_notice_priority :
    let t := run (.noticeRead ⟨1, 1⟩) { State.reset with noticePending := 0x022 }
    t.dataOut = [0, 0, 0, 2] ∧ t.noticePending = 0x020 := by decide +kernel

/-- R46: PORT_STATUS right after reset is ready with the store LOST; a byte after its two reads 0x00. -/
theorem test_port_status :
    (run (.noticeRead ⟨3, 3⟩) { State.reset with refused := 7 }).dataOut = [0, 0, 0, 5, 7, 0] := by decide +kernel

/-- R47: the bytes after a port reset in its assertion are 0x00, and the assertion takes no second one. -/
theorem test_port_reset_once :
    let t := run .portReset (run (.memoryRead (some 0x0000) 1) State.reset)
    let u := { t with noticePending := 0 }
    (run (.memoryRead none 2) t).dataOut = [0, 0] ∧ t.noticePending = 0x101 ∧
    (run (.portReset false) u).noticePending = 0 ∧ (run .portReset u).noticePending = 0x100 := by decide +kernel

/-- A part whose restart sequence has just finished with every coin input and the exit input active. -/
def heldInputs : State := run (.restartSequenceEnd ⟨Vector.replicate 6 true, true⟩) { State.reset with ready := false }

/-- R99, R139: an activation in progress at the end of the restart sequence gives no coin until its input has been inactive,
and then one. -/
theorem test_activation_over_a_restart :
    run (.coinArrival 5 false) heldInputs = heldInputs ∧ run (.exitCoinSeen false) heldInputs = heldInputs ∧
    (run (.coinArrival 5) heldInputs).live[(8 : Fin 26)] = 1 ∧ (run .exitCoinSeen heldInputs).live[(22 : Fin 26)] = 1 ∧
    run (.exitCoinSeen false) (run .exitCoinSeen heldInputs) = run .exitCoinSeen heldInputs := by decide +kernel

/-- R21: a transaction brings its command to the next step; one that is cut short brings none. -/
theorem test_receive :
    (State.reset.receive [] [0x61, 0x01, 0x00, 0x00]).pending = [.noticeRead ⟨1, 1⟩] ∧
    (State.reset.receive [] [0x52, 0x00]).pending = [] := by decide +kernel

/-- R178: the parameters of the CRC-16, on the check string 1 to 9, whose value 0x29B1 is PRESUMED from outside the manual
(notes/assumptions/28.md). -/
theorem test_crc16_check : crc16 [0x31, 0x32, 0x33, 0x34, 0x35, 0x36, 0x37, 0x38, 0x39] = 0x29B1 := by decide +kernel

/-- R132: a coin seen within the pulse ends the payout, and the ejector stays on for its 100 ms. -/
theorem test_pulse_outlasts_payout :
    let t := run .exitCoinSeen
      { State.reset with
        tubes := coinTubes 0 0 1 0, credit := 4, ejectors := State.reset.ejectors.set 2 (some 100),
        payout := some { paying (.byValue [(4, 1)]) (some ⟨2, 4, false, 400⟩) (some 2) with due := 4 } }
    t.payout = none ∧ t.ejectorOn 2 = true ∧ (run .ejectorPulseEnd t).ejectorOn 2 = false := by decide +kernel

/-- R21, R24, R43: the transactions spelled byte by byte. -/
theorem test_transactions :
    decodeTransaction [] [0x51, 0x34, 0x12, 0x00, 0x00] = some (.memoryRead (some 0x1234) 1) ∧
    decodeTransaction [] [0x52, 0x00, 0x04, 0x01] = some (.memoryWrite 0x0400 [1] []) ∧
    decodeTransaction [] [0x61, 0x01, 0x00, 0x00] = some (.noticeRead ⟨1, 1⟩) ∧
    decodeTransaction [] [0x62, 0x02, 0xFF, 0x01] = some (.noticeMaskWrite [0xFF, 0x01]) ∧
    decodeTransaction [] [0x62, 0x01, 0xFF, 0x01] = some (.registerWriteRefused 1 [0xFF, 0x01]) ∧
    decodeTransaction [] [0x99] = some (.unknownCommand 0x99) := by decide

/-- R21: the same transactions as words, the first byte lowest, and the first of them taken from the front of the queue. -/
theorem test_words :
    decodeTableWord 40 0x0000123451 = some (.memoryRead (some 0x1234) 1) ∧
    decodeTableWord 32 0x01040052 = some (.memoryWrite 0x0400 [1] []) ∧
    decodeTableWord 32 0x00000161 = some (.noticeRead ⟨1, 1⟩) ∧
    decodeTableWord 32 0x01FF0262 = some (.noticeMaskWrite [0xFF, 0x01]) ∧
    decodeTableWord 8 0x99 = some (.unknownCommand 0x99) ∧ decodeTableWord 0 0 = none ∧
    decodeTableWord 8 0x62 = none ∧ decodeTableWord 16 0x3452 = none ∧
    (State.reset.withFetchWord 40 0x0000123451).pending = [.memoryRead (some 0x1234) 1] := by decide

/-- A vend at 1,000 ms of its revolution, its cam in AWAIT_OPEN with an open edge of 990 ms, and its revolution limit in tenths. -/
def leaving (limit : Nat) : State :=
  { flying { turningVend with stage := .leavingHome, revolutionLimit := limit }
      (some (revolution [cam .closed (some 990) .awaitOpen])) with now := 1000 }

/-- R87: with a revolution limit of 1.0 s a record in AWAIT_OPEN that waits for its open edge at the cam-leave limit takes the
revolution limit in that millisecond. -/
theorem test_both_cam_limits_at_once :
    dueCommand (leaving 10) = some .camLeaveLimit ∧
    dueCommand (run .camLeaveLimit (leaving 10)) = some .revolutionLimit ∧
    (run .revolutionLimit (run .camLeaveLimit (leaving 10))).flight = none := by decide +kernel

/-- R87: with a revolution limit of 1.1 s it waits for its edge. -/
theorem test_leave_limit_waits_for_its_edge :
    dueCommand (run .camLeaveLimit (leaving 11)) = none ∧
    dueCommand ((run .camLeaveLimit (leaving 11)).wait 10) = some (.camEdgeConsumed 0) := by decide +kernel

/-- A compressor that has run 60 s as its minimum on timer ends at SP, 59 of them counted, on top of `before` seconds. -/
def ranAMinute (before : Nat) : State :=
  { State.reset with
    now := 60000, runTime := before + 59, runSecond := some 60000, cabA := ⟨.valid, 480, 0, 0⟩,
    comp := ⟨.running, none, some 60000, none⟩, grants := [⟨.compressor, 3⟩] }

/-- R161: a run of exactly 60 s counts 60, whichever of the second and the cut-out is taken first; one that ends at PFAIL does
too; and a last second that reaches the 6 hours starts the defrost at the cut-out. -/
theorem test_last_second_of_a_run :
    (run .minOnExpiry (ranAMinute 0)).runTime = 60 ∧
    (run .minOnExpiry (run .runTimeAccumulatorSecond (ranAMinute 0))).runTime = 60 ∧
    (run .minOnExpiry (ranAMinute 0)).comp.state = .offResting ∧
    ((run .pfailAssert (ranAMinute 0)).store.capture.map Image.runTime) = some 60 ∧
    (run .minOnExpiry (ranAMinute 21539)).defrost.state = .notDue ∧
    (run .minOnExpiry (ranAMinute 21540)).defrost.state = .heating := by decide +kernel

/-- R133, R134: a coin in the step of its window's expiry. Taken first it is confirmed; after the expiry it is stray, and the
window of the retry stays open; a millisecond later it is confirmed by that window. -/
theorem test_coin_and_expiry_together :
    let s := { State.reset with
      now := 400, tubes := coinTubes 0 0 2 0, credit := 8,
      payout := some { paying (.byValue [(4, 2)]) (some ⟨2, 4, false, 400⟩) none with due := 8 } }
    let missed := run .confirmWindowExpiry s
    let stray := run .exitCoinSeen missed
    (run .exitCoinSeen s).credit = 4 ∧ stray.credit = 8 ∧ stray.live[(22 : Fin 26)] = 1 ∧
    stray.airCoin = some ⟨2, 4, true, 800⟩ ∧ (run .exitCoinSeen (missed.wait 1)).credit = 4 := by decide +kernel

/-! ## Witnesses: the machine and the port -/

/-- The hypotheses that a card of kind `k` stands valid at the head, as one computation. -/
def validAt (k : CardKind) (slot : Nat) (s : State) : Bool :=
  Memory.wf s.mem && s.working && s.intake.head? == some slot && s.cardKind slot == some k && s.failing slot == none

theorem validHead_of {k : CardKind} {slot : Nat} {s : State} (h : validAt k slot s = true) : s.validHead k slot := by
  simp only [validAt, Bool.and_eq_true, beq_iff_eq] at h
  obtain ⟨⟨⟨⟨h1, h2⟩, h3⟩, h4⟩, h5⟩ := h
  exact ⟨⟨h1, h2, h3, h4⟩, h5⟩

theorem memoryOk_of {s : State} (h : Memory.wf s.mem = true) : s.memoryOk := h

theorem headStays_of {s : State} (h : s.waiting = []) : s.headStays := by simp [State.headStays, h]

/-- The port not ready. -/
def notReady : State := { State.reset with ready := false }

theorem witness_AStepRunsTheFrontCommandOrIdles :
    (State.reset.pending = [] ∧ nextCommand State.reset = none) ∧
    ({ State.reset with now := 180000 } : State).pending = [] ∧
    nextCommand { State.reset with now := 180000 } = some .minOffExpiry := by decide +kernel

theorem witness_ResetIsAFinishedRestartAndSafe :
    State.reset.store.stored = ⟨.factory, 0, true⟩ ∧ State.reset.reading = none ∧ State.reset.pending = [] ∧ State.reset.now = 0 ∧
    State.reset.camLevel = Vector.replicate 80 .closed := by decide +kernel

/-- A read that stands in a captured field of 4 bytes, one that enters a field at its first byte, and one that stands at a
byte alone. -/
theorem witness_MemoryReadSendsTheBytes :
    let s (next : Half) (captured : List Byte) := { State.reset with reading := some (.bytes next captured) }
    ((s 0x0091 [0, 0, 0]).ready = true ∧ (s 0x0091 [0, 0, 0]).reading = some (.bytes 0x0091 [0, 0, 0])) ∧
    ((s 0x0090 []).reading = some (.bytes 0x0090 []) ∧ (s 0x0090 []).widthAt 0x0090 = 4) ∧
    ((s 0xFFFF []).reading = some (.bytes 0xFFFF []) ∧ (s 0xFFFF []).widthAt 0xFFFF = 1) ∧
    (∃ t, exec (.memoryRead (some 0xFFFF) 2) State.reset = .next t ∧ t.reading.isSome = true ∧
      ∃ u, exec (.memoryRead none 1) t = .next u) ∧ State.reset.reading = none ∧
    (run .portReset State.reset).reading = some .discarded := by
  refine ⟨by decide +kernel, by decide +kernel, by decide +kernel, ⟨_, rfl, by decide +kernel, _, rfl⟩, rfl,
    by decide +kernel⟩

/-- The last address of the bus and the first, a byte stored and one discarded. -/
theorem witness_MemoryWriteStoresTheBytes :
    State.reset.memoryOk ∧ State.reset.ready = true ∧ isHolderAddr 0xFFFF = false ∧ isHolderAddr 0x0040 = false ∧
    isHolderAddr 0x0401 = false ∧ stores [] 0xFFFF State.reset = false ∧ stores [] 0x0040 State.reset = true ∧
    stores [] 0x23FF State.reset = true ∧ (0xFFFF + 1) % 65536 ≠ 0xFFFF :=
  ⟨memoryOk_of (by decide), by decide +kernel⟩

/-- The last slot, FREE, and slot 127 POSTED. -/
theorem witness_AHolderByteMovesTheHolder :
    127 < 128 ∧ State.reset.memoryOk ∧ State.reset.ready = true ∧ State.reset.holder 127 = .free ∧
    (posted 127 3 [] State.reset).holder 127 = .posted ∧ (posted 127 3 [] State.reset).memoryOk :=
  ⟨by decide, memoryOk_of (by decide), by decide +kernel, by decide +kernel, by decide +kernel, memoryOk_of (by decide +kernel)⟩

/-- One byte before the host words and the first of them; a holder byte that is refused and one that is not; an unknown
command; a mask write that is too short. -/
theorem witness_ARefusalIsCountedOnce :
    Memory.wf State.reset.mem = true ∧ State.reset.ready = true ∧ holderRefused (State.reset.holder 127) 0 = false ∧
    holderRefused (State.reset.holder 127) 2 = true ∧ (0x0400 + 64 * 127) % 65536 = slotAddr 127 0 ∧ isHolderAddr 0x003F = false ∧ stores [] 0x003F State.reset = false ∧
    isHolderAddr 0x0040 = false ∧ stores [] 0x0040 State.reset = true ∧
    unknownOk 0x50 = true ∧ unknownOk 0x63 = true ∧ refusedOk 2 [1] = true ∧ refusedOk 1 [1, 2] = true := by decide +kernel

/-- One byte of the word written while SILENT; a period that ends with the word unchanged. -/
theorem witness_SupervisionFollowsTheKeepaliveWord :
    (State.reset.ready = true ∧ (0x0041 + 0) % 65536 = 0x0041 ∧ State.reset.sup.alive = false ∧
      (run (.memoryWrite 0x0041 [1] []) State.reset).keepaliveWord ≠ State.reset.sup.reference) ∧
    State.reset.sup.period = none ∧
    (let s := { State.reset with sup := ⟨true, 0, some 10000, none⟩ }
     s.ready = true ∧ s.sup.alive = true ∧ s.sup.period = some 10000 ∧ s.portSet.keepalivePeriod ≠ 0 ∧
       s.keepaliveWord = s.sup.reference) := by decide +kernel

/-- With a read open, and with none. -/
theorem witness_APortThatIsNotReadyDoesNothing :
    notReady.ready = false ∧ notReady.reading = none ∧
    (let s := { notReady with reading := some (.bytes 0xFFFF [1]) }
     s.ready = false ∧ s.reading = some (.bytes 0xFFFF [1])) := by decide

/-- Class 1 pending; class 9 alone pending; none pending; a register that is not NOTICE; a port reset in a transaction that is
open and in one that is discarded. -/
theorem witness_TheRegistersAreReadAndWritten :
    State.reset.ready = true ∧ (State.reset.noticePending &&& State.reset.noticeMask).getLsbD 0 = true ∧
    (let s := { State.reset with noticePending := 0x100 }
     (s.noticePending &&& s.noticeMask).getLsbD 8 = true ∧
       ∀ j < 8, (s.noticePending &&& s.noticeMask).getLsbD j = false) ∧
    (let s := { State.reset with noticePending := 0 }
     s.noticePending &&& s.noticeMask = 0) ∧ (∀ register ∈ [0, 2, 3, 255], register ≠ (1 : Byte)) ∧
    State.reset.reading ≠ some .discarded ∧
    (let s := { State.reset with reading := some .discarded }
     s.ready = true ∧ s.reading = some .discarded) := by decide +kernel

theorem witness_PortCommandsRoundTrip :
    decodeTransaction [] [0x61, 0x03, 0x00] = some (.noticeRead ⟨3, 0⟩) ∧
    (Instr.memoryWrite 0xFFFF [1] [127]).wellFormed = true ∧
    encodeTransaction (.memoryWrite 0xFFFF [1] [127]) = some [0x52, 0xFF, 0xFF, 1] ∧
    (Instr.registerWriteRefused 2 [1]).wellFormed = true ∧
    encodeTransaction (.registerWriteRefused 2 [1]) = some [0x62, 2, 1] ∧ State.reset.pending = [] := by decide

/-! ## Witnesses: cards -/

/-- Slot 0 with an unknown kind; slot 127 with a TUBE_FILL of 251 coins. -/
theorem witness_ABadCardShowsTheFailingOffset :
    (let s := posted 0 20 [] State.reset
     s.memoryOk ∧ s.working = true ∧ s.intake.head? = some 0 ∧ s.failing 0 = some 1) ∧
    (let s := posted 127 5 [1, 251] State.reset
     s.memoryOk ∧ s.working = true ∧ s.intake.head? = some 127 ∧ s.failing 127 = some 9) := by
  refine ⟨⟨memoryOk_of (by decide +kernel), by decide +kernel⟩, ⟨memoryOk_of (by decide +kernel), by decide +kernel⟩⟩

/-- The cooling card with setpoint `low`, the CAB_B enable `cabB` and the defrost interval `hours`. -/
def coolingCard (low cabB hours : Byte) (s : State) : State :=
  posted 0 10 [low, 0, 20, 180, 0, 60, 0, 2, 0, cabB, 0, 0, 0, 0, 0, 0, 3, 80, hours, 0, 80, 0, 30, 2, 20, 70, 0, 8, 7] s

/-- A card of each group that ends OK; the jam class and the route at the ends of their ranges. -/
theorem witness_RequestBodiesAreReadAtTheirOffsets :
    (∀ x ∈ [(CardKind.setMoney, Instr.setMoney, posted 0 8 [5, 0, 255, 255, 1, 1, 0, 0] State.reset),
        (.setVend, .setVend, posted 0 9 [5, 150, 2, 2, 10, 0, 34, 1, 10, 0, 34, 1] State.reset),
        (.setLoad, .setLoad, posted 0 11 [12, 10, 3, 6, 2, 1] State.reset),
        (.setPort, .setPort, posted 0 12 [0, 88, 2, 255, 1] State.reset),
        (.setCooling, .setCooling, coolingCard 31 0 6 State.reset)],
      x.2.2.validHead x.1 0 ∧ (run x.2.1 x.2.2).slotHalf 0 6 = CardOutcome.ok.code) ∧
    (posted 0 6 [1, 0x3F, 0, 0, 0, 3, 0, 0, 4] State.reset).slotByte 0 16 = (3 : Fin 4).val + 1 ∧
    (posted 0 7 [0, 6, 3, 0, 9, 0, 4] State.reset).slotByte 0 14 = (3 : Fin 4).val + 1 := by
  refine ⟨?_, by decide +kernel, by decide +kernel⟩
  simp only [List.forall_mem_cons]
  refine ⟨⟨validHead_of ?_, ?_⟩, ⟨validHead_of ?_, ?_⟩, ⟨validHead_of ?_, ?_⟩, ⟨validHead_of ?_, ?_⟩,
    ⟨validHead_of ?_, ?_⟩, by simp⟩ <;> decide +kernel

/-- The vend queue with `n` entries. -/
def queued (n : Nat) (s : State) : State := { s with vendQueue := List.replicate n ⟨9, none⟩ }

/-- A VEND and a TEST_SPIRAL, with one free entry and with none. -/
theorem witness_VendAndTestCardsJoinTheVendQueue :
    (queued 15 (posted 0 1 [1] State.reset)).validHead .vend 0 ∧
    (queued 15 (posted 0 1 [1] State.reset)).slotByte 0 4 = 255 ∧
    (queued 15 (posted 0 1 [1] State.reset)).vendQueue.length < 16 ∧
    (queued 16 (posted 127 15 [80] State.reset)).validHead .testSpiral 127 ∧
    16 ≤ (queued 16 (posted 127 15 [80] State.reset)).vendQueue.length :=
  ⟨validHead_of (by decide +kernel), by decide +kernel, by decide +kernel, validHead_of (by decide +kernel),
    by decide +kernel⟩

/-- A head in slot 0 with the link `link` and the payment `pay`. -/
def head (link pay : Byte) (s : State) : State := { card 0 1 1 link [1, pay, 10] s with intake := [0] }

/-- A head in slot 0 and `n` valid LINKED VENDs in the slots after it, the last with the link `last`. -/
def chained (n : Nat) (last : Byte) (s : State) : State :=
  (List.range n).foldl (fun s k => card (k + 1) 4 1 (if k + 1 = n then last else BitVec.ofNat 8 (k + 2)) [2, 1] s)
    (head 1 1 s)

/-- A chain of two into the last two free entries and into one; a chain of eight cards. -/
theorem witness_AGoodChainIsPlacedWholeOrNotAtAll :
    (∀ n ∈ [14, 15], let s := queued n (chained 1 255 State.reset)
      s.validHead .vend 0 ∧ s.slotByte 0 4 ≠ 255 ∧ s.slotByte 0 9 ≠ 0 ∧ s.linkedVends (s.slotByte 0 4) [1] 255 ∧
        [1].length + 1 + s.vendQueue.length = n + 2) ∧
    let s := chained 7 255 State.reset
    s.validHead .vend 0 ∧ s.slotByte 0 4 ≠ 255 ∧ s.slotByte 0 9 ≠ 0 ∧
      s.linkedVends (s.slotByte 0 4) [1, 2, 3, 4, 5, 6, 7] 255 := by
  refine ⟨?_, validHead_of ?_, ?_, ?_, ?_⟩
  · simp only [List.forall_mem_cons]
    refine ⟨⟨validHead_of ?_, ?_, ?_, ?_, ?_⟩, ⟨validHead_of ?_, ?_, ?_, ?_, ?_⟩, by simp⟩ <;>
      (try simp only [State.linkedVends]) <;> decide +kernel
  all_goals (try simp only [State.linkedVends])
  all_goals decide +kernel

/-- A head paid by COIN_CREDIT; a link to the head, at once and after a follower; a link to a FREE slot; a ninth card; and a
follower that is no VEND. -/
theorem witness_ABadChainAbortsWhatItVisited :
    ((head 1 0 State.reset).validHead .vend 0 ∧ (head 1 0 State.reset).slotByte 0 4 ≠ 255 ∧
      (head 1 0 State.reset).slotByte 0 9 = 0) ∧
    (let s := head 0 1 State.reset
     s.validHead .vend 0 ∧ s.slotByte 0 9 ≠ 0 ∧ s.linkedVends (s.slotByte 0 4) [] 0) ∧
    (let s := chained 1 0 State.reset
     s.validHead .vend 0 ∧ s.linkedVends (s.slotByte 0 4) [1] 0) ∧
    (let s := head 127 1 State.reset
     s.validHead .vend 0 ∧ s.linkedVends (s.slotByte 0 4) [] 127 ∧ s.holder 127 ≠ .linked) ∧
    (let s := chained 8 255 State.reset
     s.validHead .vend 0 ∧ s.linkedVends (s.slotByte 0 4) [1, 2, 3, 4, 5, 6, 7] 8) ∧
    (let s := head 127 1 (card 127 4 2 255 [1] State.reset)
     s.validHead .vend 0 ∧ s.linkedVends (s.slotByte 0 4) [] 127 ∧ s.holder 127 = .linked ∧ s.cardKind 127 ≠ some .vend) := by
  refine ⟨⟨validHead_of ?_, ?_⟩, ⟨validHead_of ?_, ?_, ?_⟩, ⟨validHead_of ?_, ?_⟩, ⟨validHead_of ?_, ?_, ?_⟩,
    ⟨validHead_of ?_, ?_⟩, validHead_of ?_, ?_, ?_⟩ <;> (try simp only [State.linkedVends]) <;> decide +kernel

/-- A CANCEL in slot 0 of the VEND in slot 127, and that VEND taken. -/
def cancelling (s : State) : State := posted 0 2 [127] (card 127 2 1 255 [1] s)

/-- The target is the CANCEL itself, free, queued, the last item of the basket in flight, or neither queued nor in CLAIMING. -/
theorem witness_ACancelIsJudgedByItsTarget :
    (let s := posted 0 2 [0] State.reset
     s.validHead .cancel 0 ∧ s.slotByte 0 8 = 0) ∧
    (let s := posted 0 2 [127] State.reset
     s.validHead .cancel 0 ∧ s.slotByte 0 8 = 127 ∧ s.holder 127 ≠ .taken) ∧
    (let s := { cancelling State.reset with vendQueue := [⟨127, none⟩] }
     s.validHead .cancel 0 ∧ s.slotByte 0 8 = 127 ∧ s.holder 127 = .taken ∧ s.cardKind 127 = some .vend ∧
       s.vendQueue.find? (fun e => e.slot == 127) = some ⟨127, none⟩ ∧ s.cancelItems ⟨127, none⟩ = [127] ∧
       s.basket = none ∧ s.takenIn 127) ∧
    (let s := { cancelling (card 126 2 1 127 [1, 1] State.reset) with
       vendQueue := [⟨126, some 126⟩, ⟨127, some 126⟩], basket := some ⟨120, 9, 5, some .vended⟩ }
     s.validHead .cancel 0 ∧ s.vendQueue.find? (fun e => e.slot == 127) = some ⟨127, some 126⟩ ∧
       s.cancelItems ⟨126, some 126⟩ = [126, 127] ∧ s.cancelItems ⟨127, some 126⟩ = [127] ∧ s.takenIn 127 ∧ s.takenIn 126 ∧
       (s.overBasket.map Basket.head) = some 120) ∧
    (let s := { cancelling State.reset with flight := some { turningVend with slot := 127 } }
     s.validHead .cancel 0 ∧ s.holder 127 = .taken ∧ s.cardKind 127 = some .vend ∧
       s.vendQueue.find? (fun e => e.slot == 127) = none ∧ ∀ f ∈ s.flight, f.slot = 127 → f.stage ≠ .claiming) := by
  refine ⟨⟨validHead_of ?_, ?_⟩, ⟨validHead_of ?_, ?_⟩, ⟨validHead_of ?_, ?_, ?_, ?_, ?_, ?_, ?_, ?_⟩,
    ⟨validHead_of ?_, ?_, ?_, ?_, ?_, ?_, ?_⟩, validHead_of ?_, ?_⟩ <;> (try unfold State.takenIn) <;> decide +kernel

/-- A standalone vend in CLAIMING; the head of a basket in CLAIMING with an item behind it. -/
theorem witness_ACancelInClaimingEndsTheVend :
    let alone := { claimingVend with slot := 127 }
    let s := { cancelling selling with flight := some alone, held := 10, waiting := [⟨.drive, 2⟩] }
    let first := { claimingVend with slot := 127, basket := some 127, coin := false }
    let b := { cancelling (card 126 2 1 255 [1, 1] selling) with
      flight := some first, waiting := [⟨.drive, 2⟩], vendQueue := [⟨126, some 127⟩], basket := some ⟨127, 20, 0, none⟩ }
    (s.validHead .cancel 0 ∧ s.slotByte 0 8 = alone.slot ∧ alone.slot ≠ 0 ∧ s.holder alone.slot = .taken ∧
      s.cardKind alone.slot = some .vend ∧ s.vendQueue.find? (fun e => e.slot == alone.slot) = none ∧
      s.flight = some alone ∧ alone.stage = .claiming ∧ s.payout = none ∧ s.basket = none) ∧
    b.validHead .cancel 0 ∧ b.slotByte 0 8 = first.slot ∧ b.holder first.slot = .taken ∧
      b.cardKind first.slot = some .vend ∧ b.vendQueue.find? (fun e => e.slot == first.slot) = none ∧
      b.flight = some first ∧ first.stage = .claiming ∧ b.takenIn 126 ∧ b.payout = none ∧
      ∀ k ∈ b.basket, k.head ≠ 126 ∧ k.head ≠ 0 := by
  refine ⟨⟨validHead_of ?_, ?_⟩, validHead_of ?_, ?_, ?_, ?_, ?_, ?_, ?_, ?_, ?_, ?_⟩ <;>
    (try unfold State.takenIn) <;> decide +kernel

/-- The payout queue with three entries and with four. -/
def paysQueued (n : Nat) (s : State) : State :=
  { s with payQueue := List.replicate n ⟨.service, .amount, none, 1, Vector.replicate 4 0⟩ }

theorem witness_PayoutCardsJoinThePayoutQueue :
    (∀ n ≤ 4, (paysQueued n (posted 0 3 [] State.reset)).validHead .returnCredit 0) ∧
    (let s := { posted 0 3 [] State.reset with payQueue := [⟨.lever, .creditReturn, none, 0, Vector.replicate 4 0⟩] }
     s.validHead .returnCredit 0 ∧ (s.payQueue.find? (fun e => e.form == .creditReturn)).isSome = true) ∧
    (paysQueued 3 (posted 127 4 [2, 0, 255, 255] State.reset)).validHead .payout 127 ∧
    (paysQueued 4 (posted 127 4 [3, 0, 0, 0, 250, 250, 250, 250] State.reset)).validHead .payout 127 := by
  refine ⟨fun n h => validHead_of ?_, ⟨validHead_of (by decide +kernel), by decide +kernel⟩,
    validHead_of (by decide +kernel), validHead_of (by decide +kernel)⟩
  revert n; decide +kernel

/-- A SET_SPIRAL of spiral `number` that asks for a twin. -/
def pairing' (number : Byte) (s : State) : State := posted 0 6 [number, 0x10, 0, 0, 0, 0, 0, 1] s

/-- Two neighbouring records of the table changed. -/
def withSpirals (i j : Fin 80) (a b : Spiral) (s : State) : State := { s with spirals := (s.spirals.set i a).set j b }

/-- Spiral 79 forms a pair, spiral 80 writes its price; each refusal stands. -/
theorem witness_ASetSpiralWritesItsRecordsOrNone :
    let busy := { Spiral.factory with inFlight := true }
    let follower := { Spiral.factory with role := .follower }
    let lead := { Spiral.factory with role := .lead }
    let state (number : Byte) (i j : Fin 80) (a b : Spiral) := pairing' number (withSpirals i j a b State.reset)
    ((pairing' 79 State.reset).validHead .setSpiral 0 ∧ (pairing' 79 State.reset).slotByte 0 8 = (78 : Fin 80).val + 1 ∧
      (pairing' 79 State.reset).spirals[78].inFlight = false ∧ hasNext 78 = true ∧
      (pairing' 79 State.reset).spirals[nextSpiral 78].role = .single ∧
      (pairing' 79 State.reset).spirals[nextSpiral 78].inFlight = false) ∧
    ((posted 0 6 [80, 0x01, 255, 255] State.reset).validHead .setSpiral 0 ∧
      ((posted 0 6 [80, 0x01, 255, 255] State.reset).spiralRequest 0).twin = none) ∧
    ((state 1 0 1 busy .factory).validHead .setSpiral 0 ∧ (state 1 0 1 busy .factory).spirals[0].inFlight = true) ∧
    ((state 2 0 1 lead follower).validHead .setSpiral 0 ∧ (state 2 0 1 lead follower).spirals[1].role = .follower) ∧
    ((state 10 8 9 .factory .factory).validHead .setSpiral 0 ∧ (9 : Fin 80).val % 10 = 9 ∧
      ((state 10 8 9 .factory .factory).spiralRequest 0).twin = some true) ∧
    ((state 1 0 1 .factory busy).validHead .setSpiral 0 ∧ (state 1 0 1 .factory busy).spirals[nextSpiral 0].inFlight = true) ∧
    (state 1 0 1 .factory lead).validHead .setSpiral 0 ∧ (state 1 0 1 .factory lead).spirals[nextSpiral 0].role ≠ .single := by
  refine ⟨⟨validHead_of ?_, ?_⟩, ⟨validHead_of ?_, ?_⟩, ⟨validHead_of ?_, ?_⟩, ⟨validHead_of ?_, ?_⟩,
    ⟨validHead_of ?_, ?_⟩, ⟨validHead_of ?_, ?_⟩, validHead_of ?_, ?_⟩ <;> decide +kernel

/-- A TUBE_FILL of tube 4 with a value and of tube 1 without one; channel 6 with a route that agrees and one that does not;
tube 4 free, busy, and with a count above its capacity. -/
theorem witness_TubeFillAndSetCoinWriteTheRecords :
    let fill := posted 0 5 [4, 250] { State.reset with tubes := coinTubes 0 0 0 1 }
    let blank := posted 0 5 [1, 0] State.reset
    let channel := posted 0 7 [0, 6, 3, 0, 10, 0, 4] { State.reset with tubes := coinTubes 0 0 0 1 }
    let wrong := posted 0 7 [0, 6, 3, 0, 9, 0, 4] { State.reset with tubes := coinTubes 0 0 0 1 }
    let tubeCard := posted 0 7 [1, 4, 0x38, 0, 10, 0, 0, 0, 250, 250] State.reset
    let above := posted 0 7 [1, 4, 0x30, 0, 0, 0, 0, 0, 250, 249] State.reset
    (fill.validHead .tubeFill 0 ∧ fill.slotByte 0 8 = (3 : Fin 4).val + 1 ∧ fill.tubes[3].value ≠ 0) ∧
    (blank.validHead .tubeFill 0 ∧ blank.slotByte 0 8 = (0 : Fin 4).val + 1 ∧ blank.tubes[0].value = 0) ∧
    (channel.validHead .setCoin 0 ∧ channel.slotByte 0 8 = 0 ∧ channel.slotByte 0 9 = (5 : Fin 6).val + 1 ∧
      (channel.channelRequest 0).value = some 10 ∧ (channel.channelRequest 0).route = some (some 3)) ∧
    (wrong.validHead .setCoin 0 ∧ (wrong.channelRequest 0).value = some 9 ∧ wrong.tubes[3].value = 10) ∧
    (tubeCard.validHead .setCoin 0 ∧ tubeCard.slotByte 0 8 = 1 ∧ tubeCard.slotByte 0 9 = (3 : Fin 4).val + 1 ∧
      tubeCard.tubes[3].busy = false ∧ (tubeCard.tubeRequest 0).count = some 250 ∧
      (tubeCard.tubeRequest 0).capacity = some 250 ∧ (tubeCard.tubeRequest 0).reserve = none ∧
      ∀ c : Fin 6, tubeCard.channels[c].route ≠ some 3) ∧
    ((setBusy true tubeCard).validHead .setCoin 0 ∧ (setBusy true tubeCard).tubes[3].busy = true) ∧
    above.validHead .setCoin 0 ∧ (above.tubeRequest 0).count = some 250 ∧ (above.tubeRequest 0).capacity = some 249 := by
  refine ⟨⟨validHead_of ?_, ?_⟩, ⟨validHead_of ?_, ?_⟩, ⟨validHead_of ?_, ?_⟩, ⟨validHead_of ?_, ?_⟩, ⟨validHead_of ?_, ?_⟩,
    ⟨validHead_of ?_, ?_⟩, validHead_of ?_, ?_⟩ <;> decide +kernel

/-- A SET_PORT that changes the period; a SET_MONEY that keeps the base unit and one that changes it with credit; a LOAD group
whose relations hold at their edge, its head still not fitting; one whose run size exceeds its start size. -/
theorem witness_TheSettingsCardsApplyTheirGroups :
    let busy := posted 0 8 [1, 0, 255, 255, 0, 0, 0, 0] { State.reset with credit := 1 }
    let edge := posted 0 11 [4, 4, 4, 4, 2, 4] { State.reset with waiting := [⟨.payout, 1⟩], grants := [⟨.drive, 2⟩] }
    let l := edge.loadRequest 0
    let above := posted 0 11 [12, 3, 4, 6, 2, 1] State.reset
    (posted 0 9 [5, 150, 2, 2, 10, 0, 34, 1, 10, 0, 34, 1] State.reset).validHead .setVend 0 ∧
    (posted 0 12 [0, 88, 2, 255, 1] { State.reset with sup := ⟨true, 0, some 10000, none⟩ }).validHead .setPort 0 ∧
    (posted 0 8 [5, 0, 255, 255, 1, 1, 0, 0] State.reset).validHead .setMoney 0 ∧
    (busy.validHead .setMoney 0 ∧ (busy.moneyRequest 0).baseUnit ≠ busy.moneySet.baseUnit ∧ busy.credit ≠ 0) ∧
    (edge.validHead .setLoad 0 ∧ l.startSize ≤ l.budget ∧ l.runSize ≤ l.startSize ∧ l.heaterSize ≤ l.budget ∧
      2 * l.singleSize ≤ l.budget ∧ l.payoutSize ≤ l.budget ∧ l.budget < edge.granted + l.payoutSize) ∧
    above.validHead .setLoad 0 ∧ ¬ (above.loadRequest 0).runSize ≤ (above.loadRequest 0).startSize := by
  refine ⟨validHead_of ?_, validHead_of ?_, validHead_of ?_, ⟨validHead_of ?_, ?_⟩, ⟨validHead_of ?_, ?_⟩, validHead_of ?_,
    ?_⟩ <;> decide +kernel

/-- CAB_B enabled; CAB_B and the interval as they are; an interval that the accumulator has just reached. -/
theorem witness_ASetCoolingAppliesItsGroup :
    let enabled := coolingCard 120 1 6 State.reset
    let same := coolingCard 31 0 6 State.reset
    let reached := coolingCard 31 0 5 { State.reset with runTime := 18000 }
    (enabled.validHead .setCooling 0 ∧ (enabled.coolingRequest 0).cabBEnable ≠ enabled.coolSet.cabBEnable ∧
      (enabled.without .compressor).headStays) ∧
    (same.validHead .setCooling 0 ∧ (same.coolingRequest 0).cabBEnable = same.coolSet.cabBEnable ∧
      (same.coolingRequest 0).defrostInterval = same.coolSet.defrostInterval) ∧
    reached.validHead .setCooling 0 ∧ (reached.coolingRequest 0).defrostInterval ≠ reached.coolSet.defrostInterval ∧
      3600 * (reached.coolingRequest 0).defrostInterval ≤ reached.runTime ∧ (reached.without .compressor).headStays := by
  refine ⟨⟨validHead_of ?_, ?_, headStays_of ?_⟩, ⟨validHead_of ?_, ?_⟩, validHead_of ?_, ?_, ?_, headStays_of ?_⟩ <;>
    decide +kernel

/-- Each group; a refused MONEY, SPIRALS and CHANNELS_AND_TUBES; a COOLING whose interval the accumulator has reached. -/
theorem witness_DefaultsRestoreTheirGroup :
    (∀ g : Fin 7, (posted 0 19 [BitVec.ofNat 8 (g.val + 1)] State.reset).validHead .defaults 0) ∧
    (let s := posted 0 19 [1] { State.reset with moneySet := { MoneySettings.factory with baseUnit := 1 }, held := 1 }
     s.validHead .defaults 0 ∧ MoneySettings.factory.baseUnit ≠ s.moneySet.baseUnit ∧ s.held ≠ 0) ∧
    (let s := posted 0 19 [6] (withSpirals 78 79 .factory { Spiral.factory with inFlight := true } State.reset)
     s.validHead .defaults 0 ∧ s.spirals[79].inFlight = true) ∧
    (let s := posted 0 19 [7] { State.reset with payout := some (paying (.byValue []) none none) }
     s.validHead .defaults 0 ∧ s.payout.isSome = true) ∧
    (let s := posted 0 19 [5]
       { State.reset with coolSet := { CoolingSettings.factory with defrostInterval := 0 }, runTime := 21600 }
     s.validHead .defaults 0 ∧ s.defrost.state = .notDue ∧
       3600 * CoolingSettings.factory.defrostInterval ≤ s.runTime) := by
  refine ⟨fun g => validHead_of ?_, ⟨validHead_of ?_, ?_⟩, ⟨validHead_of ?_, ?_⟩, ⟨validHead_of ?_, ?_⟩, validHead_of ?_, ?_⟩
  · revert g; decide +kernel
  all_goals decide +kernel

/-- LOCKED with no reading; LOCKED at the safe limit itself; not LOCKED. -/
theorem witness_AReleaseZoneUnlocksAColdZone :
    let cold := posted 0 13 [] { State.reset with cabA := ⟨.valid, 1120, 0, 0⟩, exposure := 65535 }
    ((posted 0 13 [] State.reset).validHead .releaseZone 0 ∧ State.reset.zone = .locked ∧ State.reset.safetyTemp = none) ∧
    (cold.validHead .releaseZone 0 ∧ cold.exposure ≤ 65535 ∧ cold.zone = .locked ∧
      cold.safetyTemp = some cold.coolSet.safeLimit) ∧
    (posted 0 13 [] { State.reset with zone := .unverified }).validHead .releaseZone 0 := by
  refine ⟨⟨validHead_of ?_, ?_⟩, ⟨validHead_of ?_, ?_⟩, validHead_of ?_⟩ <;> decide +kernel

/-- FAULTED, OK, and a check in progress; currents of 0.04 A and 0.05 A. -/
theorem witness_AResumeDriveRunsTheOffCurrentCheck :
    let s := posted 0 16 [] State.reset
    let held := { card 127 2 16 255 [] State.reset with offCheck := some ⟨127, some 100⟩ }
    (s.validHead .resumeDrive 0 ∧ s.offCheck = none ∧ s.driveFaulted = true) ∧
    (posted 0 16 [] selling).validHead .resumeDrive 0 ∧ (posted 0 16 [] selling).driveFaulted = false ∧
    (posted 0 16 [] { State.reset with offCheck := some ⟨127, some 100⟩ }).validHead .resumeDrive 0 ∧
    held.memoryOk ∧ held.working = true ∧ held.takenIn 127 ∧ 4 < 5 ∧ 5 ≤ 5 := by
  refine ⟨⟨validHead_of ?_, ?_⟩, validHead_of ?_, ?_, validHead_of ?_, memoryOk_of ?_, ?_, ?_, ?_⟩
  case refine_8 => unfold State.takenIn; decide +kernel
  all_goals decide +kernel

/-- Cards that are held and cards that find one held; a save that completes in each state of PFAIL. -/
theorem witness_SavesAreRequestedAndComplete :
    let busy (s : State) := { s with store := { s.store with heldStore := some ⟨9, true⟩, heldSnapshot := some ⟨8, false⟩ } }
    let saving := beginSave (busy State.reset)
    ((posted 0 18 [] State.reset).validHead .store 0 ∧ (posted 0 17 [] State.reset).validHead .snapshot 0) ∧
    ((posted 0 18 [] (busy State.reset)).validHead .store 0 ∧ (busy State.reset).store.heldStore ≠ none) ∧
    ((posted 0 17 [] (busy State.reset)).validHead .snapshot 0 ∧ (busy State.reset).store.heldSnapshot ≠ none) ∧
    saving.memoryOk ∧ saving.store.capture = some (busy State.reset).image ∧ saving.pfail = .clear ∧
    ({ saving with pfail := .asserted } : State).memoryOk ∧ (∀ c ∈ saving.store.heldStore, c.covered = true) := by
  refine ⟨⟨validHead_of ?_, validHead_of ?_⟩, ⟨validHead_of ?_, ?_⟩, ⟨validHead_of ?_, ?_⟩, memoryOk_of ?_, ?_, ?_,
    memoryOk_of ?_, ?_⟩
  case refine_8 => rfl
  all_goals decide +kernel

/-! ## Witnesses: the vend sequencer and the drive -/

/-- A card of kind `kind` with body `body` taken into slot 5 and queued alone. -/
def queuedCard (kind : Byte) (body : List Byte) (s : State) : State :=
  { card 5 2 kind 255 body s with vendQueue := [⟨5, none⟩] }

/-- The price met exactly; one unit short; HOST_FUNDS of 9; the head of a basket; its last item, one unit short. -/
theorem witness_TheCheckStageDecidesAVend :
    let s := queuedCard 1 [1, 0] { selling with credit := 10 }
    let short := queuedCard 1 [1, 0] { selling with credit := 9 }
    let host := queuedCard 1 [1, 1, 9, 0] selling
    (s.memoryOk ∧ s.working = true ∧ s.flight = none ∧ s.vendQueue = ⟨5, none⟩ :: [] ∧ s.cardKind 5 = some .vend ∧
      checkTable s (s.slotByte 5 8) true (s.credit - s.held) = none) ∧
    (short.memoryOk ∧ short.takenIn 5 ∧
      checkTable short (short.slotByte 5 8) true (short.credit - short.held) = some .insufficientCredit) ∧
    (host.takenIn 5 ∧ checkTable host (host.slotByte 5 8) false (host.slotHalf 5 10) = some .insufficientFunds) ∧
    (let first := { host with vendQueue := [⟨5, some 5⟩, ⟨6, some 5⟩] }
     first.memoryOk ∧ first.basket = none ∧ first.takenIn 5) ∧
    let item := { host with vendQueue := [⟨5, some 9⟩], basket := some ⟨9, 9, 1, some .vended⟩ }
    item.memoryOk ∧ item.takenIn 5 ∧ (∀ b ∈ item.basket, b.head ≠ 5) ∧
      checkTable item (item.slotByte 5 8) false 9 = some .insufficientFunds := by
  refine ⟨⟨memoryOk_of ?_, ?_⟩, ⟨memoryOk_of ?_, ?_, ?_⟩, ⟨?_, ?_⟩, ⟨memoryOk_of ?_, ?_, ?_⟩, memoryOk_of ?_, ?_, ?_, ?_⟩ <;>
    (try unfold State.takenIn) <;> decide +kernel

/-- The door closed; FAULTED; a FOLLOWER; a test that passes on spiral 80. -/
theorem witness_TheCheckStageDecidesATest :
    let service (s : State) := { s with door := .opened }
    let s := queuedCard 15 [80] (service selling)
    let faulted := queuedCard 15 [80] (service State.reset)
    let follower := queuedCard 15 [2] (service (withSpirals 0 1 .factory { Spiral.factory with role := .follower } selling))
    (s.memoryOk ∧ s.working = true ∧ s.flight = none ∧ s.cardKind 5 = some .testSpiral ∧ s.door = .opened ∧
      s.driveFaulted = false ∧ s.slotByte 5 8 = (79 : Fin 80).val + 1 ∧ s.spirals[79].role ≠ .follower) ∧
    ((queuedCard 15 [80] selling).takenIn 5 ∧ (queuedCard 15 [80] selling).door = .closed) ∧
    (faulted.takenIn 5 ∧ faulted.driveFaulted = true) ∧
    follower.takenIn 5 ∧ follower.slotByte 5 8 = 2 ∧ follower.spirals[1].role = .follower := by
  refine ⟨⟨memoryOk_of ?_, ?_⟩, ⟨?_, ?_⟩, ⟨?_, ?_⟩, ?_, ?_⟩ <;> (try unfold State.takenIn) <;> decide +kernel

/-- The claim of 2 units into the last 2 of the budget; a CHILLED selection while the zone is LOCKED. -/
theorem witness_AGrantStartsTheMotors :
    let s := { selling with flight := some claimingVend, waiting := [⟨.drive, 2⟩], grants := [⟨.compressor, 10⟩] }
    let chilled := { claimingVend with chilled := true }
    (s.memoryOk ∧ s.pfail = .clear ∧ s.granted + 2 ≤ s.loadSet.budget ∧ startAllowed s claimingVend) ∧
    ¬ startAllowed { s with flight := some chilled } chilled := by
  refine ⟨⟨memoryOk_of ?_, ?_, ?_, ?_⟩, ?_⟩ <;> (try unfold startAllowed) <;> decide +kernel

/-- A vend in CLAIMING; one whose jam timer runs; a current of 3.01 A; a cam that has not left home; one that has not come
home; and one whose edge came within the limit. -/
theorem witness_TimersLimitsAndShortsEndTheFlight :
    let s := { selling with flight := some claimingVend, waiting := [⟨.drive, 2⟩], held := 10 }
    let jammed := { revolution [cam .opened none .turningOpen] with jamSince := some 500 }
    let late (c : Cam) := flying turningVend (some (revolution [c]))
    (s.memoryOk ∧ s.working = true ∧ claimingVend.stage = .claiming ∧ claimingVend.loadTimer = some 20000) ∧
    (flying turningVend (some jammed)).memoryOk ∧ (flying turningVend (some jammed)).working = true ∧ 300 < 301 ∧
    (late (cam .closed none .awaitOpen)).memoryOk ∧
    (∃ c ∈ (revolution [cam .closed none .awaitOpen]).cams, c.phase = .awaitOpen ∧ c.edge = none) ∧
    (∃ c ∈ (revolution [cam .opened (some 6001) .turningOpen]).cams, c.phase ≠ .home ∧ ∃ e, c.edge = some e ∧ 100 * 60 < e) ∧
    ∀ c ∈ (revolution [cam .closed (some 1000) .awaitOpen]).cams,
      c.phase = .awaitOpen ∧ c.level = .closed ∧ c.edge = some 1000 := by
  refine ⟨⟨memoryOk_of ?_, ?_⟩, memoryOk_of ?_, ?_, ?_, memoryOk_of ?_, ⟨_, .head _, ?_⟩, ⟨_, .head _, ?_, 6001, ?_⟩, ?_⟩ <;>
    decide +kernel

/-- No revolution; a line that opens; a bounce at 19 ms under a waiting limit; currents of 3.00 A and 3.01 A. -/
theorem witness_SenseLinesAndCurrentsAreFollowed :
    let waits := { cam .closed (some 990) .awaitOpen with limitWaits := true }
    State.reset.rev = none ∧ (flying turningVend (some (revolution [waits]))).working = true ∧
    (flying turningVend (some (revolution [waits]))).memoryOk ∧
    (∃ c ∈ (revolution [waits]).cams, c.spiral = 0 ∧ c.phase ≠ .home ∧ c.limitWaits = true ∧
      c.edge.isSome = true ∧ (camFollowed (1009 - 0) .closed c).edge = none) ∧
    300 ≤ 300 ∧ 300 < 301 := by
  refine ⟨?_, ?_, memoryOk_of ?_, ⟨_, .head _, ?_⟩, ?_⟩ <;> decide +kernel

/-- Cam 1 opens while cam 2 of the twin has not moved. -/
theorem witness_AConsumedEdgeMovesItsCam :
    let c := cam .closed (some 210) .awaitOpen
    let other : Cam := { cam .closed none .awaitOpen with spiral := 1 }
    let s := flying { turningVend with twin := true, stage := .leavingHome } (some (revolution [c, other]))
    s.working = true ∧ (revolution [c, other]).cams = [] ++ c :: [other] ∧
    (∀ x ∈ ([] ++ [other] : List Cam), columnOf x.spiral ≠ 0) ∧ columnOf c.spiral = 0 ∧ c.phase ≠ .home ∧
    c.edge = some 210 ∧ ∃ x ∈ ([] ++ camConsumed 210 c :: [other] : List Cam), x.phase ≠ .home := by decide +kernel

/-- Every combination of vend or test, drop assurance, drop seen and drop sensor state. -/
theorem witness_ACompletedRevolutionDecidesTheVend :
    ∀ (isTest seen fault : Bool) (assurance : DropAssurance),
      let c := cam .opened (some 3310) .turningOpen
      let f := { turningVend with isTest := isTest, assurance := assurance, dropSeen := if seen then some 9 else none }
      let s := { flying f (some (revolution [c])) with drop := ⟨false, fault, false, 0⟩ }
      s.memoryOk ∧ s.working = true ∧ s.flight = some f ∧ s.rev = some (revolution [c]) ∧
      (revolution [c]).cams = [] ++ c :: [] ∧ (∀ x ∈ ([] ++ [] : List Cam), x.phase = .home) ∧ c.phase = .turningOpen ∧
      c.level = .opened ∧ c.edge = some 3310 :=
  fun _ _ _ _ => ⟨rfl, rfl, rfl, rfl, rfl, by simp, rfl, rfl, rfl⟩

/-- A vend in DROP_WAIT after so many revolutions. -/
def waitingVend (revolutions : Nat) : Flight :=
  { turningVend with stage := .dropWait, revolutions := revolutions, dropTimer := some 5000 }

/-- The last extra turn left; none left; the last one on a CHILLED selection in a LOCKED zone. -/
theorem witness_ADropWaitEndsInATurnOrNoDrop :
    (flying (waitingVend 1) none).memoryOk ∧ (flying (waitingVend 1) none).working = true ∧
    (waitingVend 1).stage = .dropWait ∧ (waitingVend 1).dropTimer = some 5000 ∧
    (waitingVend 1).revolutions ≤ (waitingVend 1).extraTurns ∧ startAllowed (flying (waitingVend 1) none) (waitingVend 1) ∧
    ¬ startAllowed (flying (waitingVend 1) none) { waitingVend 1 with chilled := true } ∧
    (waitingVend 1).extraTurns < (waitingVend 2).revolutions := by
  refine ⟨memoryOk_of ?_, ?_, ?_, ?_, ?_, ?_, ?_, ?_⟩ <;> (try unfold startAllowed) <;> decide +kernel

/-- A break for a vend that turns, one for a vend in DROP_WAIT and one for none; a FAULT that clears; a sensor that fails
after PFAIL. -/
theorem witness_TheDropSensorIsFollowedAndJudged :
    let broken (s : State) := { s with drop := ⟨true, false, false, 100⟩ }
    ((broken (flying turningVend none)).working = true ∧ (broken (flying turningVend none)).drop.blocked = true ∧
      (broken (flying turningVend none)).drop.latch = false ∧ turningVend.firstStart = some 0 ∧
      turningVend.dropSeen = none ∧ turningVend.stage ≠ .dropWait) ∧
    ((broken (flying (waitingVend 1) none)).memoryOk ∧ (waitingVend 1).dropSeen = none ∧ (waitingVend 1).stage = .dropWait) ∧
    ((broken selling).flight = none ∧ claimingVend.firstStart = none) ∧
    ({ selling with drop := ⟨false, true, false, 100⟩ } : State).drop.fault = true ∧
    (let s := { broken selling with pfail := .asserted }
     s.ready = true ∧ s.working = false ∧ s.drop.blocked = true ∧ s.drop.fault = false) := by
  refine ⟨?_, ⟨memoryOk_of ?_, ?_⟩, ?_⟩ <;> decide +kernel

/-- The door that stays, the door without a flight, and the door with a vend and with a test. -/
theorem witness_TheDoorEndsAVendOrATest :
    let test := { turningVend with isTest := true }
    State.reset.door = .closed ∧ State.reset.flight = none ∧
    ((flying turningVend none).memoryOk ∧ (flying turningVend none).working = true ∧
      turningVend.isTest = (DoorState.opened == DoorState.closed)) ∧
    ({ flying test none with door := .opened } : State).memoryOk ∧
    test.isTest = (DoorState.closed == DoorState.closed) := by
  refine ⟨?_, ?_, ⟨memoryOk_of ?_, ?_⟩, memoryOk_of ?_, ?_⟩ <;> decide +kernel

/-- An item of a basket in DROP_WAIT: its head still without an outcome; its head done and no item left. -/
theorem witness_ABasketItemIsChargedToTheBasket :
    let f := { waitingVend 1 with basket := some 9, coin := false }
    let s (o : Option CardOutcome) := { flying f none with
      held := 0, basket := some ⟨9, 20, 5, o⟩, drop := ⟨true, false, false, 0⟩ }
    (∀ o ∈ [none, some CardOutcome.vended], (s o).working = true ∧ (s o).breakPending = true ∧ (s o).flight = some f ∧
      (s o).waiting = [] ∧ (s o).vendQueue = [] ∧ Memory.wf (s o).mem = true) ∧
    f.basket = some 9 ∧ f.slot ≠ 9 ∧ f.stage = .dropWait ∧ f.firstStart = some 0 ∧ f.dropSeen = none := by decide +kernel

/-! ## Witnesses: coins and payouts -/

/-- A coin that enters tube 4 and one that finds it at its capacity; an open gate; a running grace; an armed silent return. -/
theorem witness_CoinsTubesAndReturnRequests :
    let s (count : Nat) : State := { State.reset with
      channels := Vector.replicate 6 ⟨10, some 3, true⟩, tubes := State.reset.tubes.set 3 (tube 10 count 0) }
    ((s 99).working = true ∧ (s 99).channels[5].route = some 3 ∧ (s 99).channels[5].value ≠ 0 ∧
      (s 99).tubes[3].count < (s 99).tubes[3].capacity ∧ (s 99).tubes[3].full = false) ∧
    ¬ (s 100).tubes[3].count < (s 100).tubes[3].capacity ∧ (s 100).spent.coin[5] = false ∧
    ({ s 100 with spent := ⟨Vector.replicate 6 true, false⟩ } : State).spent.coin[5] = true ∧
    ({ State.reset with tubes := State.reset.tubes.set 3 { tube 10 1 0 with gate := some 400 } } : State).tubes[3].gate =
      some 400 ∧
    ({ State.reset with defrost := { State.reset.defrost with grace := some 7 } } : State).defrost.grace = some 7 ∧
    ({ State.reset with sup := ⟨false, 0, none, some 60000⟩ } : State).sup.silentReturn = some 60000 := by decide +kernel

/-- An entry of a form at the head of the payout queue. -/
def due (form : PayForm) (amount : Nat) (coins : Vector Nat 4) (s : State) : State :=
  { s with payQueue := [⟨.service, form, none, amount, coins⟩] }

/-- A TUBE_LIST behind a closed door; nothing asked; coins only from an empty tube; a coin to eject. -/
theorem witness_APayoutStartsOrEndsAtOnce :
    let opened := { State.reset with door := .opened, tubes := coinTubes 0 0 0 1 }
    ((due .tubeList 0 #v[0, 0, 0, 1] State.reset).memoryOk ∧ (due .tubeList 0 #v[0, 0, 0, 1] State.reset).working = true ∧
      (due .tubeList 0 #v[0, 0, 0, 1] State.reset).payout = none ∧
      (due .tubeList 0 #v[0, 0, 0, 1] State.reset).door = .closed) ∧
    ((due .amount 0 #v[0, 0, 0, 0] State.reset).without .payout).headStays ∧
    (opened.door = .opened ∧ opened.tubes[2].count = 0 ∧ opened.tubes[3].count ≠ 0 ∧
      (∃ c ∈ (planFor (opened.tubes.map fun x => { x with busy := true }) 10).coins, c.2 ≠ 0) ∧
      ∀ c ∈ (planFor (opened.tubes.map fun x => { x with busy := true }) 9).coins, c.2 = 0) := by
  refine ⟨⟨memoryOk_of ?_, ?_⟩, headStays_of ?_, ?_⟩ <;> decide +kernel

/-- An activation that is not new; no window; the last coin confirmed; more coins with the pulse running and with the pulse
over. -/
theorem witness_ACoinSeenIsConfirmedOrStray :
    let a : AirCoin := ⟨2, 4, false, 400⟩
    let s (left : CoinsLeft) (pulse : Option (Fin 4)) :=
      { State.reset with tubes := coinTubes 1 2 3 1, credit := 17, payout := some (paying left (some a) pulse) }
    (State.reset.working = true ∧ State.reset.payout.bind Payout.air = none) ∧
    State.reset.spent.exit = false ∧ ({ State.reset with spent := ⟨Vector.replicate 6 false, true⟩ } : State).spent.exit = true ∧
    State.reset.missedAt ≠ some State.reset.now ∧
    ({ State.reset with missedAt := some 0 } : State).missedAt = some State.reset.now ∧
    (s (.byValue [(4, 1)]) none).memoryOk ∧ ((s (.byValue [(4, 1)]) none).without .payout).headStays ∧
    (s (.byValue [(4, 2)]) (some 2)).memoryOk ∧ (s (.byTube #v[0, 0, 2, 0]) none).memoryOk := by
  refine ⟨?_, ?_, ?_, ?_, ?_, memoryOk_of ?_, headStays_of ?_, memoryOk_of ?_, memoryOk_of ?_⟩ <;> decide +kernel

/-- A pulse with its coin in the air, one without, and one that outlasts its payout; a first miss within the credit and
beyond it; a second miss. -/
theorem witness_APulseAndAWindowEnd :
    let p (retried : Bool) (air : Bool) := paying (.byValue [(4, 1)])
      (if air then some ⟨2, 4, retried, 400⟩ else none) (some 2)
    let s (retried air : Bool) (credit : Nat) :=
      { State.reset with tubes := coinTubes 1 2 3 1, credit := credit, payout := some (p retried air),
                         ejectors := State.reset.ejectors.set 2 (some 100) }
    (∀ retried air, (s retried air 4).working = true ∧ (s retried air 4).payout = some (p retried air) ∧
      (p retried air).pulse = some 2 ∧ (s retried air 4).ejectors[(2 : Fin 4)] = some 100 ∧
      Memory.wf (s retried air 4).mem = true) ∧
    ({ s true true 4 with payout := none } : State).ejectors[(2 : Fin 4)] = some 100 ∧
    (∀ (k : Fin 4) (n : Nat), (s true true 4).ejectors[k] = some n → 100 < n ∨ (100 = n ∧ (2 : Fin 4) ≤ k)) ∧
    mayEject (s false true 4) (p false true) 4 ∧ ¬ mayEject (s false true 3) (p false true) 4 ∧
    ((s false true 3).without .payout).headStays ∧ drawn (coinTubes 1 2 3 1) (.byValue [(4, 1)]) (.byValue [(4, 1)]) 2 := by
  refine ⟨?_, ?_, fun k n h => ?_, ?_, ?_, headStays_of ?_, ⟨rfl, 4, ?_⟩⟩
  case refine_3 => fin_cases k <;> simp_all [State.reset]
  all_goals ((try unfold mayEject); decide +kernel)

/-! ## Witnesses: the load, cooling and the zone -/

/-- A head of each claimant that fits exactly, one that does not, and PFAIL; a CREDIT_RETURN whose coin the credit covers and
one whose it does not. -/
theorem witness_AJudgementGrantsFromTheHead :
    let s (c : Claimant) := { selling with
      waiting := [⟨c, 2⟩], grants := [⟨.compressor, 10⟩], flight := some claimingVend, tubes := coinTubes 1 2 3 1,
      payout := some (paying (.byValue [(4, 1)]) none none) }
    let p := paying (.byValue [(4, 1)]) none none
    (∀ c ∈ [Claimant.compressor, .heater, .drive, .payout], (s c).pfail = .clear ∧ (s c).waiting = ⟨c, 2⟩ :: [] ∧
      (s c).granted + 2 ≤ (s c).loadSet.budget) ∧
    startAllowed (s .drive) claimingVend ∧ (s .payout).memoryOk ∧
    drawn (s .payout).tubes p.left (.byValue [(4, 1)]) 2 ∧ mayEject (s .payout) p 4 ∧
    ¬ mayEject { s .payout with credit := 3 } p 4 ∧
    (∀ k : Fin 4, ¬ mayEject { s .payout with credit := 0 } p (s .payout).tubes[k].value) ∧
    ({ s .payout with waiting := [⟨.drive, 3⟩] } : State).headStays ∧
    ({ s .payout with pfail := .asserted } : State).pfail ≠ .clear := by
  refine ⟨?_, ?_, memoryOk_of ?_, ⟨rfl, 4, ?_⟩, ?_, ?_, ?_, ?_, ?_⟩
  all_goals (try unfold State.headStays)
  all_goals (try unfold startAllowed)
  all_goals (try unfold mayEject)
  all_goals decide +kernel

theorem witness_ASampleJudgesChannelsAndZone : State.reset.working = true ∧ State.reset.nextSample = some 1000 := by
  decide +kernel

/-- Both cabinet channels VALID with a spread at the limit and above it; one of them alone; both in FAULT, so that fallback
is called; and CAB_A UNSEEDED. -/
theorem witness_ASampleJudgesAirflowAndFallback :
    let s (a b : TempChannel) := { State.reset with
      cabA := a, cabB := b, coolSet := { CoolingSettings.factory with cabBEnable := true } }
    let after (a b : TempChannel) := run (.sample 0 0 0) (s a b)
    let valid (filter : Int) : TempChannel := ⟨.valid, filter, 0, 0⟩
    let failed : TempChannel := ⟨.fault, 0, 0, 0⟩
    (∀ x ∈ [valid 0, failed], (s x x).working = true ∧ (s x x).nextSample = some 1000) ∧
    ((after (valid 1280) (valid 0)).cabA.reading = some 80 ∧ (after (valid 1280) (valid 0)).cabB.reading = some 0 ∧
      CoolingSettings.factory.spreadLimit = 80 ∧ (after (valid 1296) (valid 0)).cabA.reading = some 81) ∧
    (after (valid 0) failed).cabB.state ≠ .valid ∧
    ((after failed failed).cabA.state = .fault ∧ (after failed failed).cabB.state = .fault) ∧
    (after State.reset.cabA failed).cabA.state = .unseeded ∧ (s failed failed).defrost.endable = false := by decide +kernel

/-- The compressor in each state, a channel whose filter stays at SP + D or at SP through a sample; a DUE defrost. -/
theorem witness_TheThermostatJudgesASample :
    ∀ state : CompressorState,
      let s (filter : Int) := { State.reset with
        comp := ⟨state, none, none, none⟩, cabA := ⟨.valid, filter, 0, 0⟩,
        waiting := if state = .claiming then [⟨.compressor, 10⟩] else [] }
      (s 800).working = true ∧ (s 800).nextSample = some 1000 ∧ (s 800).fallback = none ∧
      (s 800).waiting = (if (s 800).comp.state = .claiming then [⟨.compressor, 10⟩] else []) ∧
      (s 800).defrost.state = .notDue ∧ (run (.sample 0 0 0) (s 800)).controlTemp = some 50 ∧
      (run (.sample 0 0 0) (s 799)).controlTemp = some 50 ∧ (run (.sample 0 0 0) (s 791)).controlTemp = some 49 ∧
      (run (.sample 0 0 0) (s 480)).controlTemp = some 30 ∧
      ({ s 480 with defrost := { (s 480).defrost with state := .due } } : State).defrost.state = .due := by
  intro state; cases state <;> decide +kernel

/-- Each timer running, with the control temperature at SP + D and at SP. -/
theorem witness_TheCompressorTimersEnd :
    let s (filter : Int) (c : Compressor) : State := { State.reset with comp := c, cabA := ⟨.valid, filter, 0, 0⟩ }
    ((s 800 ⟨.offResting, some 5, none, none⟩).working = true ∧ (s 800 ⟨.offResting, some 5, none, none⟩).comp.minOff = some 5 ∧
      (s 800 ⟨.offResting, some 5, none, none⟩).coldNeeded) ∧
    (s 0 ⟨.starting, none, some 9, some 5⟩).comp.window = some 5 ∧
    ((s 480 ⟨.running, none, some 9, none⟩).comp.minOn = some 9 ∧ (s 480 ⟨.running, none, some 9, none⟩).defrost.state ≠ .due ∧
      (s 480 ⟨.running, none, some 9, none⟩).coldReached) ∧
    (let d := { s 480 ⟨.running, none, some 9, none⟩ with defrost := { State.reset.defrost with state := .due, forced := true } }
     d.comp.minOn = some 9 ∧ d.defrost.state = .due ∧ d.defrost.forced = true ∧ (d.without .compressor).headStays) ∧
    ({ State.reset with fallback := some ⟨true, 900000⟩ } : State).fallback = some ⟨true, 900000⟩ ∧
    ({ State.reset with runSecond := some 1000, runTime := 21599 } : State).runSecond = some 1000 ∧
    (runCounted (ranAMinute 21539)).defrost.state ≠ .due ∧ (runCounted (ranAMinute 21540)).defrost.state = .due ∧
    ((ranAMinute 21540).without .compressor).headStays := by
  refine ⟨⟨?_, ?_, ⟨50, ?_⟩⟩, ?_, ⟨?_, ?_, ⟨30, ?_⟩⟩, ⟨?_, ?_, ?_, headStays_of ?_⟩, ?_, ?_, ?_, ?_, headStays_of ?_⟩ <;> decide +kernel

/-- Due at 6 hours with the compressor at rest and running; DUE with the compressor at rest; the forced stop with and without the minimum on time; a
DEFROST_NOW in NOT_DUE and during a defrost. -/
theorem witness_ADefrostFallsDueAndStarts :
    let s (c : Compressor) (d : Defrost) : State := { State.reset with comp := c, defrost := d, runTime := 21600 }
    let waits : Defrost := { State.reset.defrost with state := .due, forcedAt := some 3600000 }
    let heats : Defrost := { State.reset.defrost with state := .heating }
    ((s ⟨.offIdle, none, none, none⟩ State.reset.defrost).working = true ∧
      3600 * State.reset.coolSet.defrostInterval ≤ (s ⟨.offIdle, none, none, none⟩ State.reset.defrost).runTime) ∧
    ((s ⟨.offIdle, none, none, none⟩ waits).defrost.state = .due ∧
      (s ⟨.offIdle, none, none, none⟩ waits).comp.state ≠ .running ∧
      ((s ⟨.offIdle, none, none, none⟩ waits).without .compressor).headStays) ∧
    (waits.forcedAt = some 3600000 ∧ ((s ⟨.running, none, none, none⟩ waits).without .compressor).headStays) ∧
    ((s ⟨.running, none, some 5, none⟩ { waits with forced := true, forcedAt := none }).comp.minOn = some 5 ∧
      ((s ⟨.running, none, some 5, none⟩ { waits with forced := true, forcedAt := none }).without .compressor).headStays) ∧
    (posted 0 14 [] State.reset).validHead .defrostNow 0 ∧
    (posted 0 14 [] (s ⟨.offResting, none, none, none⟩ heats)).validHead .defrostNow 0 ∧ heats.inProgress = true := by
  refine ⟨?_, ⟨?_, ?_, headStays_of ?_⟩, ⟨?_, headStays_of ?_⟩, ⟨?_, headStays_of ?_⟩, validHead_of ?_, validHead_of ?_,
    ?_⟩ <;> decide +kernel

/-- A heater defrost whose timer runs, and at a sample with the evaporator at the termination temperature and below it; a
defrost that drains, with and without a DEFROST_NOW. -/
theorem witness_ADefrostEndsAndDrains :
    let heats := { State.reset with
      defrost := { State.reset.defrost with state := .heating, timer := some 1800000 }, grants := [⟨.heater, 6⟩] }
    let drains (slot : Option Nat) := { State.reset with
      defrost := { State.reset.defrost with
        state := .draining, drip := some 120000, card := slot, result := some ⟨.timedOut, 1800, none⟩ } }
    (heats.memoryOk ∧ heats.working = true ∧ heats.defrost.timer = some 1800000 ∧ heats.defrost.endable = true ∧
      (heats.without .heater).headStays) ∧
    (heats.nextSample = some 1000 ∧ heats.comp.state = .offResting ∧ heats.coolSet.termination = 80 ∧
      (∀ x ∈ [(1280, 80), (1279, 80), (1264, 79)],
        (run (.sample 0 0 0) { heats with evap := ⟨.valid, x.1, 0, 0⟩ }).evap.reading = some x.2)) ∧
    ∀ slot ∈ [none, some 127], Memory.wf (drains slot).mem = true ∧ (drains slot).working = true ∧
      (drains slot).defrost.drip = some 120000 ∧ (drains slot).defrost.state = .draining := by
  refine ⟨⟨memoryOk_of ?_, ?_, ?_, ?_, headStays_of ?_⟩, ?_⟩ <;> decide +kernel

/-! ## Witnesses: the persistent store, the solver, and what every step keeps -/

theorem witness_PfailStopsTheOutputsAndSaves :
    State.reset.pfail = .clear ∧ ({ State.reset with pfail := .released } : State).pfail = .released ∧
    (run .pfailAssert State.reset).pfail = .asserted ∧ (run .pfailAssert State.reset).store.state = .saving := by
  decide +kernel

theorem witness_EveryRestartRestoresTheImageAndEnds :
    let done := run (.saveComplete ⟨.closed, Vector.replicate 4 false, false⟩) (run .pfailAssert State.reset)
    let released := { run .pfailAssert State.reset with pfail := .released }
    (done.pfail = .asserted ∧ done.store.state ≠ .saving) ∧
    (released.pfail = .released ∧ released.store.capture = some State.reset.image) ∧ notReady.ready = false := by
  decide +kernel

/-- The availabilities of 7.6.1. -/
theorem witness_TheExactSolutionIsTheGreatest : ∀ d ∈ [(10, 1), (4, 3), (2, 0), (1, 0)], 0 < d.1 := by decide

/-- The denominations of 7.6.1; an amount that pass 1 solves, and one that it does not. -/
theorem witness_APlanPaysTheMostThatTheTubesAllow :
    isDenominations (coinTubes 0 0 3 1) [10, 4, 2, 1] ∧ (exactSolution (pass1 (coinTubes 0 0 3 1)) 12).isSome = true ∧
    (exactSolution (pass1 (coinTubes 0 0 3 1)) 15).isSome = false := by
  refine ⟨⟨by decide, fun v => ?_⟩, by decide +kernel, by decide +kernel⟩
  have tubes : ∀ k : Fin 4, (coinTubes 0 0 3 1)[k].value = [1, 2, 4, 10][k] := by decide
  simp only [tubes, Fin.exists_fin_succ]
  simp
  omega

/-- No denomination, and the one of 7.6.3. -/
theorem witness_TheExactChangeStatusFollowsItsRules :
    isDenominations (Vector.replicate 4 Tube.factory) [] ∧
    isDenominations #v[tube 0 0 0, tube 0 0 0, tube 4 3 0, tube 0 0 0] [4] ∧ [4].getLast? = some 4 := by
  refine ⟨⟨by decide, fun v => ?_⟩, ⟨by decide, fun v => ?_⟩, rfl⟩
  · simp [Tube.factory]; omega
  · have tubes : ∀ k : Fin 4, (#v[tube 0 0 0, tube 0 0 0, tube 4 3 0, tube 0 0 0] : Vector Tube 4)[k].value =
      [0, 0, 4, 0][k] := by decide
    simp only [tubes, Fin.exists_fin_succ]
    simp
    omega

theorem witness_TheTablesShowTheRecords : State.reset.ready = true := rfl

theorem witness_ThePagesShowTheState : State.reset.ready = true ∧ State.reset.waiting.length ≤ 4 := by decide

/-- A step of the state after reset; one that posts a card meets the invariant of the memory. -/
theorem witness_EveryStepKeepsTheMemory :
    State.reset.memoryOk ∧ State.reset.holdersOk ∧ (∃ t, step State.reset = .next t) ∧
    (posted 0 17 [] State.reset).memoryOk ∧ (posted 0 17 [] State.reset).holdersOk := by
  refine ⟨memoryOk_of ?_, ?_, ⟨_, rfl⟩, memoryOk_of ?_, ?_⟩ <;> (try unfold State.holdersOk) <;> decide +kernel

theorem witness_EveryStepKeepsTheRecords :
    (selling.moneyOk ∧ selling.coinsOk) ∧ (selling.spiralsOk ∧ selling.exposureOk) ∧ ∃ t, step selling = .next t := by
  refine ⟨⟨?_, ?_⟩, ⟨?_, ?_⟩, ⟨_, rfl⟩⟩ <;>
    simp only [State.moneyOk, State.coinsOk, tubeOk, routesOk, State.spiralsOk, State.exposureOk, stocksOk, zoneOk] <;>
    decide +kernel

/-- A compressor that runs while the payout's claim waits; a vend whose motor turns under the grant. -/
theorem witness_EveryStepKeepsTheRelaysAndTheMotors :
    (let s := { State.reset with
       comp := ⟨.running, none, none, none⟩, waiting := [⟨.payout, 1⟩], payout := some (paying (.byValue []) none none) }
     s.coolingOk ∧ ∃ t, step s = .next t) ∧
    let s := flying turningVend (some (revolution [cam .opened none .turningOpen]))
    s.driveOk ∧ ∃ t, step s = .next t := by
  refine ⟨⟨?_, ⟨_, rfl⟩⟩, ?_, ⟨_, rfl⟩⟩ <;> simp only [State.coolingOk, State.claimsOk, State.waitingFor, State.driveOk] <;>
    decide +kernel

end Sys2Proof.Tests
end

/-! The areas of the exchange memory that the part keeps, read byte by byte: which record covers an address, and what a
layout of 2.7 shows at each address of its range (R1, R19, 2.7.4, 2.7.5, 2.7.7). -/

namespace Sys2Proof.Machine

/-! ## Layouts -/

/-- A field as the statements write it: address, width, value. -/
def Field.entry (f : Field) : Nat × Nat × Nat := (f.at_, f.size, f.value)

/-- The number of bytes that a layout takes. -/
def layoutSize (l : List (Nat × Nat)) : Nat := (l.map Prod.fst).sum

theorem layoutSize_cons (f : Nat × Nat) (l : List (Nat × Nat)) : layoutSize (f :: l) = f.1 + layoutSize l := by
  simp [layoutSize]

/-- Every field of a layout lies between its first address and its end. -/
theorem layOut_bounds : ∀ {l : List (Nat × Nat)} {base : Nat} {f : Field}, f ∈ layOut base l →
    base ≤ f.at_ ∧ f.at_ + f.size ≤ base + layoutSize l
  | [], _, _, h => by cases h
  | (size, value) :: rest, base, f, h => by
    rw [layoutSize_cons]
    obtain rfl | h := List.mem_cons.mp h
    · exact ⟨Nat.le_refl _, by dsimp only; omega⟩
    · obtain ⟨hlow, hhigh⟩ := layOut_bounds h
      exact ⟨by omega, by dsimp only; omega⟩

/-- The fields of a layout do not overlap: each address of a field shows a byte of that field. -/
theorem fieldByte_layOut : ∀ {l : List (Nat × Nat)} {base : Nat} {f : Field}, f ∈ layOut base l → ∀ k < f.size,
    fieldByte (layOut base l) (f.at_ + k) = byteAt f.value k
  | [], _, _, h, _, _ => by cases h
  | (size, value) :: rest, base, f, h, k, hk => by
    rw [layOut, fieldByte]
    obtain rfl | h := List.mem_cons.mp h
    · dsimp only at hk ⊢
      rw [if_pos (by omega), Nat.add_sub_cancel_left]
    · have hlow := (layOut_bounds h).1
      rw [if_neg (by dsimp only; omega)]
      exact fieldByte_layOut h k hk

/-- Where no field stands, 0x00 is shown. -/
theorem fieldByte_uncovered : ∀ {fields : List Field} {a : Nat},
    (∀ f ∈ fields, ¬ (f.at_ ≤ a ∧ a < f.at_ + f.size)) →
    fieldByte fields a = 0
  | [], _, _ => rfl
  | f :: rest, a, h => by
    rw [fieldByte, if_neg (h f List.mem_cons_self)]
    exact fieldByte_uncovered fun g hg => h g (List.mem_cons_of_mem f hg)

/-- A range in which the host reads a layout shows the layout's fields, and 0x00 elsewhere. -/
theorem shows_layOut {s : State} {base hi : Nat} {l : List (Nat × Nat)} (hfit : base + layoutSize l ≤ hi)
    (hread : ∀ a, base ≤ a → a < hi → s.readByte a = fieldByte (layOut base l) a) :
    s.shows ((layOut base l).map Field.entry) ∧ s.blankBut base hi ((layOut base l).map Field.entry) := by
  constructor
  · rintro e he k hk
    obtain ⟨f, hf, rfl⟩ := List.mem_map.mp he
    obtain ⟨hlow, hhigh⟩ := layOut_bounds hf
    simp only [Field.entry] at hk ⊢
    rw [hread _ (by omega) (by omega), fieldByte_layOut hf k hk, byteAt]
  · intro a hlow hhigh hout
    rw [hread a hlow hhigh]
    exact fieldByte_uncovered fun f hf => hout f.entry (List.mem_map_of_mem hf)

/-- A layout of fields of one width: field `i` stands `i` widths above the base. -/
theorem layOut_uniform (width : Nat) : ∀ (values : List Nat) (base : Nat),
    layOut base (values.map fun v => (width, v)) =
      (List.finRange values.length).map fun i => ⟨base + width * i.val, width, values[i]⟩
  | [], _ => rfl
  | v :: rest, base => by
    have hstep : ∀ k, base + width + width * k = base + width * (k + 1) := fun k => by rw [Nat.mul_succ]; omega
    simp [layOut, layOut_uniform width rest, List.finRange_succ, hstep, Function.comp_def]

theorem flag_eq_toNat (b : Bool) : flag b = b.toNat := by cases b <;> rfl

theorem routeField_eq (route : Option (Fin 4)) :
    routeField route = match route with
      | none => 0
      | some t => t.val + 1 := by cases route <;> rfl

theorem State.shows.append {s : State} {xs ys : List (Nat × Nat × Nat)} (hx : s.shows xs) (hy : s.shows ys) :
    s.shows (xs ++ ys) := fun f hf => (List.mem_append.mp hf).elim (hx f) (hy f)

/-- Two adjoining ranges, each blank but for its own fields. -/
theorem State.blankBut.append {s : State} {lo mid hi : Nat} {xs ys : List (Nat × Nat × Nat)} (hx : s.blankBut lo mid xs)
    (hy : s.blankBut mid hi ys) : s.blankBut lo hi (xs ++ ys) := by
  intro a hlow hhigh hout
  by_cases ha : a < mid
  · exact hx a hlow ha fun f hf => hout f (List.mem_append_left ys hf)
  · exact hy a (Nat.le_of_not_lt ha) hhigh fun f hf => hout f (List.mem_append_right xs hf)

/-! ## The record that covers an address -/

theorem spiralOf_succ (i : Fin 80) : spiralOf (i.val + 1) = some i := by
  simp [spiralOf, i.isLt]

section
variable {s : State} (hready : s.ready = true)
include hready

theorem readByte_spiralTable {a : Nat} (hlow : 0x2400 ≤ a) (hhigh : a < 0x2E00) :
    s.readByte a = fieldByte (spiralTableFields s a) a := by
  have harea : areaOf a = .spiralTable := by simp (disch := omega) only [areaOf, if_neg, if_pos]
  simp [State.readByte, hready, harea]

/-- The 32 bytes from the base of a spiral's record (R1). -/
theorem readByte_spiral (i : Fin 80) {a : Nat} (hlow : 0x2400 + 32 * i.val ≤ a) (hhigh : a < 0x2400 + 32 * i.val + 32) :
    s.readByte a = fieldByte (spiralFields (0x2400 + 32 * i.val) i s.spirals[i]) a := by
  have hplace : (a - 0x2400) / 32 = i.val := by omega
  rw [readByte_spiralTable hready (by omega) (by omega), spiralTableFields, hplace, spiralOf_succ]

theorem readByte_moneyTable {a : Nat} (hlow : 0x2E00 ≤ a) (hhigh : a < 0x2F00) :
    s.readByte a = fieldByte (moneyTableFields s a) a := by
  have harea : areaOf a = .moneyTable := by simp (disch := omega) only [areaOf, if_neg, if_pos]
  simp [State.readByte, hready, harea]

/-- The 16 bytes from the base of a coin channel's record (R97). -/
theorem readByte_channel (c : Fin 6) {a : Nat} (hlow : 0x2E00 + 16 * c.val ≤ a) (hhigh : a < 0x2E00 + 16 * c.val + 16) :
    s.readByte a = fieldByte (channelFields (0x2E00 + 16 * c.val) c s) a := by
  have hnumber : channelOf ((a - 0x2E00) / 16 + 1) = some c := by
    have hplace : (a - 0x2E00) / 16 = c.val := by omega
    simp [channelOf, hplace]
  rw [readByte_moneyTable hready (by omega) (by omega), moneyTableFields, hnumber]

/-- The 16 bytes from the base of a tube's record (R98). -/
theorem readByte_tube (t : Fin 4) {a : Nat} (hlow : 0x2E60 + 16 * t.val ≤ a) (hhigh : a < 0x2E60 + 16 * t.val + 16) :
    s.readByte a = fieldByte (tubeFields (0x2E60 + 16 * t.val) t s) a := by
  have hplace : (a - 0x2E00) / 16 = 6 + t.val := by omega
  have hchannel : channelOf ((a - 0x2E00) / 16 + 1) = none := by simp [channelOf, hplace]
  have hnumber : tubeOf ((a - 0x2E00) / 16 - 5) = some t := by
    have hone : 6 + t.val - 5 = t.val + 1 := by omega
    simp [tubeOf, hplace, hone]
  rw [readByte_moneyTable hready (by omega) (by omega), moneyTableFields, hchannel, hnumber]

/-- The money table has no record behind the four tubes (2.7.5). -/
theorem readByte_behind_tubes {a : Nat} (hlow : 0x2EA0 ≤ a) (hhigh : a < 0x2F00) : s.readByte a = 0 := by
  have hchannel : channelOf ((a - 0x2E00) / 16 + 1) = none := by rw [channelOf, dif_neg (by omega)]
  have htube : tubeOf ((a - 0x2E00) / 16 - 5) = none := by rw [tubeOf, dif_neg (by omega)]
  rw [readByte_moneyTable hready (by omega) hhigh, moneyTableFields, hchannel, htube]
  rfl

theorem readByte_auditBlock {a : Nat} (hlow : 0x2F00 ≤ a) (hhigh : a < 0x3000) :
    s.readByte a = fieldByte (auditFields s a) a := by
  have harea : areaOf a = .auditBlock := by simp (disch := omega) only [areaOf, if_neg, if_pos]
  simp [State.readByte, hready, harea]

/-- The lower half of the audit block shows the live counters (2.7.7). -/
theorem readByte_live {a : Nat} (hlow : 0x2F00 ≤ a) (hhigh : a < 0x2F80) :
    s.readByte a = fieldByte (counterFields 0x2F00 s.live) a := by
  rw [readByte_auditBlock hready hlow (by omega), auditFields, if_pos hhigh]

/-- The upper half of the audit block shows the snapshot (2.7.7). -/
theorem readByte_snap {a : Nat} (hlow : 0x2F80 ≤ a) (hhigh : a < 0x3000) :
    s.readByte a = fieldByte (counterFields 0x2F80 s.snap) a := by
  rw [readByte_auditBlock hready (by omega) hhigh, auditFields, if_neg (by omega)]

/-- Beyond the areas of R19 the host reads 0x00. -/
theorem readByte_beyond {a : Nat} (hlow : 0x3000 ≤ a) : s.readByte a = 0 := by
  have harea : areaOf a = .beyond := by simp (disch := omega) only [areaOf, if_neg]
  simp [State.readByte, hready, harea]

end

/-! ## The tables -/

/-- The counters of one half of the audit block, as the statements list them (R182). -/
theorem counterFields_entries (base : Nat) (n : Counters) :
    (counterFields base n).map Field.entry = (List.finRange 26).map fun i => (base + 4 * i.val, 4, n[i].toNat) := by
  have hlength : (n.toList.map BitVec.toNat).length = 26 := by simp
  have hlayout := layOut_uniform 4 (n.toList.map BitVec.toNat) base
  rw [List.map_map] at hlayout
  refine (congrArg (List.map Field.entry) hlayout).trans (List.ext_getElem (by simp) fun i h1 h2 => ?_)
  simp [Field.entry]

theorem layoutSize_counters (n : Counters) : layoutSize (n.toList.map fun x => (4, x.toNat)) = 104 := by
  simp [layoutSize, Function.comp_def]

section
variable {s : State} (hready : s.ready = true)
include hready

theorem shows_spiral (i : Fin 80) :
    let base := 0x2400 + 32 * i.val
    let fields := (spiralFields base i s.spirals[i]).map Field.entry
    s.shows fields ∧ s.blankBut base (base + 32) fields :=
  shows_layOut (Nat.add_le_add_left (by simp [layoutSize]) _) fun _ => readByte_spiral hready i

theorem shows_channel (c : Fin 6) :
    let base := 0x2E00 + 16 * c.val
    let fields := (channelFields base c s).map Field.entry
    s.shows fields ∧ s.blankBut base (base + 16) fields :=
  shows_layOut (Nat.add_le_add_left (by simp [layoutSize]) _) fun _ => readByte_channel hready c

theorem shows_tube (t : Fin 4) :
    let base := 0x2E60 + 16 * t.val
    let fields := (tubeFields base t s).map Field.entry
    s.shows fields ∧ s.blankBut base (base + 16) fields :=
  shows_layOut (Nat.add_le_add_left (by simp [layoutSize]) _) fun _ => readByte_tube hready t

theorem shows_auditBlock :
    let fields := (counterFields 0x2F00 s.live).map Field.entry ++ (counterFields 0x2F80 s.snap).map Field.entry
    s.shows fields ∧ s.blankBut 0x2F00 0x3000 fields := by
  obtain ⟨hlive, hliveBlank⟩ := shows_layOut (hi := 0x2F80) (by rw [layoutSize_counters]; decide)
    fun _ => readByte_live hready
  obtain ⟨hsnap, hsnapBlank⟩ := shows_layOut (hi := 0x3000) (by rw [layoutSize_counters]; decide)
    fun _ => readByte_snap hready
  exact ⟨hlive.append hsnap, hliveBlank.append hsnapBlank⟩

end

/-- Settles O55: the host reads each record, and each half of the audit block, as one layout over its whole range. -/
theorem theTablesShowTheRecords : Obligations.TheTablesShowTheRecords := by
  intro s hready
  refine ⟨fun i => ?_, fun c => ?_, fun t => ?_, ?_, ?_, ?_⟩
  · have hspiral := shows_spiral hready i
    simp only [spiralFields, flag_eq_toNat] at hspiral
    exact hspiral
  · have hchannel := shows_channel hready c
    simp only [channelFields, flag_eq_toNat, routeField_eq] at hchannel
    exact hchannel
  · have htube := shows_tube hready t
    simp only [tubeFields, flag_eq_toNat] at htube
    exact htube
  · have haudit := shows_auditBlock hready
    rwa [counterFields_entries, counterFields_entries] at haudit
  · exact fun a hlow hhigh _ => readByte_behind_tubes hready hlow hhigh
  · exact fun a hlow _ _ => readByte_beyond hready hlow

end Sys2Proof.Machine

/-! A card from its take to its answer, and the SET_SPIRAL: the two records that it writes, and the SPIRAL that it raises
(R7 to R9, R12, R15 to R17, R33, R35). -/

namespace Sys2Proof.Machine

/-! ## Stored bytes -/

theorem writeCells_append : ∀ (xs ys : List Byte) (m : List Host.Cell) (addr : Nat),
    writeCells m addr (xs ++ ys) = writeCells (writeCells m addr xs) (addr + xs.length) ys
  | [], _, _, _ => rfl
  | x :: xs, ys, m, addr => by
    rw [List.cons_append, writeCells, writeCells, writeCells_append xs ys, List.length_cons]
    congr 1
    omega

/-- A 0x00 that is written where 0x00 stands changes nothing. -/
theorem writeCell_zero : ∀ {m : List Host.Cell} {low addr : Nat}, wfFrom low m = true → readCell m addr = 0 →
    writeCell m addr 0 = m
  | [], _, _, _, _ => rfl
  | (a, b) :: rest, low, addr, hwf, hzero => by
    simp only [wfFrom, Bool.and_eq_true, decide_eq_true_eq, bne_iff_ne] at hwf
    obtain ⟨⟨_, hb⟩, hrest⟩ := hwf
    have hne : a ≠ addr := by
      rintro rfl
      exact hb (by simpa [readCell] using hzero)
    rw [readCell, if_neg hne] at hzero
    rw [writeCell, if_neg hne.symm, writeCell_zero hrest hzero]
    split <;> rfl

/-! ## A card that is answered in the step of its take -/

/-- The effect `u` of the card at the head of `s`, with the card taken and `result` in its result body. -/
def withResult (s : State) (slot : Nat) (result : List Byte) (u : State) : State :=
  { u with intake := s.intake.tail, mem := ((takeHead slot s).putSlot slot 40 result).mem }

/-- A take alone: no effect, and a result body that is zero. -/
theorem takeHead_eq_withResult (slot : Nat) (s : State) : takeHead slot s = withResult s slot [] s := by
  rw [withResult, putSlot_mem, writeCells, takeHead_mem, takeHead_eq, List.drop_one]

/-- A taken card that completes at once is answered with its outcome and its result (R33, R35). -/
theorem complete_answered {s u : State} {slot : Nat} {result : List Byte} (hm : Memory.wf s.mem = true)
    (hready : u.ready = true) (hlength : result.length ≤ 24) (o : CardOutcome) :
    answered s (complete slot o (withResult s slot result u)) slot o result u := by
  obtain ⟨hdone, hkept⟩ := complete_takeHead hm slot o result hlength (t := withResult s slot result u) rfl
  have hwf : Memory.wf (withResult s slot result u).mem = true := putSlot_wf (takeHead_wf hm slot) _ _ _
  have hcards : (withResult s slot result u).cardsBit slot = s.cardsBit slot := by
    have hflags : ¬ cardByte slot (slotAddr slot 5) := not_cardByte_of_request (by omega)
    exact cardsBit_congr ((readCell_putSlot_result (takeHead_wf hm slot) (Nat.le_refl _) (by omega) hflags).trans
      (readCell_takeHead_kept hm hflags))
  refine ⟨hdone, hkept, (complete_eq hwf hready slot o).trans ?_⟩
  rw [hcards]
  rfl

theorem requestSave_eq (s : State) : requestSave s = saveScheduled s := rfl

theorem doneWith_congr {s t : State} {slot : Nat} {o : CardOutcome} {result : List Byte} (h : t.mem = s.mem)
    (hdone : s.doneWith slot o result) : t.doneWith slot o result := by
  simpa only [State.doneWith, State.holder, State.slotHalf, State.slotByte, h] using hdone

/-- An answer OK with the save that it schedules (R35). -/
theorem answered.applied {s t u : State} {slot : Nat} {result : List Byte} (h : answered s t slot .ok result u) :
    applied s (requestSave t) slot result u := by
  obtain ⟨hdone, hkept, heq⟩ := h
  have hmem : (requestSave t).mem = t.mem := by simp
  refine ⟨doneWith_congr hmem hdone, fun a ha => by rw [hmem]; exact hkept a ha, ?_⟩
  rw [hmem, ← heq, requestSave_eq]

theorem completeOk_applied {s u : State} {slot : Nat} {result : List Byte} (hm : Memory.wf s.mem = true)
    (hready : u.ready = true) (hlength : result.length ≤ 24) :
    applied s (completeOk slot (withResult s slot result u)) slot result u :=
  (complete_answered hm hready hlength .ok).applied

/-! ## Writes of the spiral table -/

theorem spiralIf_eq (s t : State) :
    spiralIf s t = if ∃ j, recordChanged s t j = true then NoticeClass.spiral.bit else 0 := by
  have hany : ((List.finRange 80).any fun j => recordChanged s t j) = true ↔ ∃ j, recordChanged s t j = true := by
    simp [List.any_eq_true]
  exact if_congr hany rfl rfl

theorem recordChanged_iff {s t : State} {j : Fin 80} :
    recordChanged s t j = true ↔ t.spirals[j].state ≠ s.spirals[j].state ∨ t.spirals[j].role ≠ s.spirals[j].role := by
  simp [recordChanged]

/-- SPIRAL depends on the two tables alone. -/
theorem spiralIf_congr {s s' t t' : State} (hs : s'.spirals = s.spirals) (ht : t'.spirals = t.spirals) :
    spiralIf s' t' = spiralIf s t := by
  unfold spiralIf
  rw [hs, ht]

/-- From `s` to `t` nothing but the spiral table is written, and SPIRAL is raised exactly when a state or a role has changed
(R9). -/
structure SpiralsWritten (s t : State) : Prop where
  frame : ∃ table notices, t = { s with spirals := table, noticePending := notices }
  raised : t.noticePending = s.noticePending ||| spiralIf s t

theorem SpiralsWritten.eq {s t : State} (h : SpiralsWritten s t) :
    t = { s with spirals := t.spirals, noticePending := s.noticePending ||| spiralIf s t } := by
  rw [← h.raised]
  obtain ⟨table, notices, rfl⟩ := h.frame
  rfl

theorem SpiralsWritten.ready {s t : State} (h : SpiralsWritten s t) : t.ready = s.ready := by
  obtain ⟨table, notices, rfl⟩ := h.frame
  rfl

theorem SpiralsWritten.mem {s t : State} (h : SpiralsWritten s t) : t.mem = s.mem := by
  obtain ⟨table, notices, rfl⟩ := h.frame
  rfl

theorem SpiralsWritten.refl (s : State) : SpiralsWritten s s := by
  have hnone : spiralIf s s = 0 := by rw [spiralIf_eq, if_neg]; simp [recordChanged]
  exact ⟨⟨s.spirals, s.noticePending, rfl⟩, by simp [hnone]⟩

/-- A record has changed over two steps if it has changed in one of them, as long as the second does not undo the first. -/
theorem recordChanged_trans {s t u : State}
    (hkeep : ∀ j, recordChanged s t j = true → recordChanged s u j = true) (j : Fin 80) :
    recordChanged s u j = true ↔ recordChanged s t j = true ∨ recordChanged t u j = true := by
  by_cases hst : recordChanged s t j = true
  · simp [hst, hkeep j hst]
  · rw [or_iff_right hst, recordChanged_iff, recordChanged_iff]
    obtain ⟨hstate, hrole⟩ : _ ∧ _ := by simpa only [recordChanged_iff, not_or, not_not] using hst
    rw [hstate, hrole]

/-- Two writes are one, as long as the second does not undo the change of a state or role that the first has made. -/
theorem SpiralsWritten.trans {s t u : State} (hst : SpiralsWritten s t) (htu : SpiralsWritten t u)
    (hkeep : ∀ j, recordChanged s t j = true → recordChanged s u j = true) : SpiralsWritten s u := by
  have hbits : spiralIf s t ||| spiralIf t u = spiralIf s u := by
    simp only [spiralIf_eq, recordChanged_trans hkeep, exists_or]
    by_cases h1 : ∃ j, recordChanged s t j = true <;> by_cases h2 : ∃ j, recordChanged t u j = true <;> simp [h1, h2]
  refine ⟨?_, by rw [htu.raised, hst.raised, BitVec.or_assoc, hbits]⟩
  obtain ⟨_, _, rfl⟩ := hst.frame
  obtain ⟨table, notices, rfl⟩ := htu.frame
  exact ⟨table, notices, rfl⟩

theorem putSpiral_other {i j : Fin 80} (r : Spiral) (s : State) (h : j ≠ i) :
    (putSpiral i r s).spirals[j] = s.spirals[j] := by
  rw [putSpiral_spirals]
  exact Vector.getElem_set_ne _ _ fun e => h (Fin.ext e.symm)

theorem putSpiral_written (i : Fin 80) (r : Spiral) {s : State} (hready : s.ready = true) :
    SpiralsWritten s (putSpiral i r s) := by
  refine ⟨⟨_, _, (putSpiral_eq i r s).1⟩, ?_⟩
  rw [putSpiral_raised i r hready, spiralIf_two i i fun j h _ => putSpiral_other r s h, BitVec.or_self, recordChanged,
    putSpiral_self]

/-! ## The mirrored write -/

/-- The record that a mirrored write makes of a follower's (R5). -/
def Spiral.mirrorOf (lead follower : Spiral) : Spiral :=
  { follower with price := lead.price, zone := lead.zone, state := lead.state, stock := lead.stock }

theorem mirror_written (i : Fin 80) {s : State} (hready : s.ready = true) : SpiralsWritten s (mirror i s) :=
  putSpiral_written _ _ hready

theorem mirror_partner (i : Fin 80) (s : State) :
    (mirror i s).spirals[nextSpiral i] = s.spirals[i].mirrorOf s.spirals[nextSpiral i] := putSpiral_self _ _ _

theorem mirror_other {i j : Fin 80} (s : State) (h : j ≠ nextSpiral i) : (mirror i s).spirals[j] = s.spirals[j] :=
  putSpiral_other _ _ h

/-- The lead's own record stands, also at the last spiral, which has no neighbour. -/
theorem mirror_lead (i : Fin 80) (s : State) : (mirror i s).spirals[i] = s.spirals[i] := by
  by_cases h : nextSpiral i = i
  · have hself := mirror_partner i s
    simp only [h] at hself
    exact hself
  · exact mirror_other s (Ne.symm h)

/-! ## The writes of a SET_SPIRAL -/

theorem Spiral.apply_role (q : SpiralRequest) (role : Role) (r : Spiral) : (r.apply q role).role = role := by
  unfold Spiral.apply Spiral.settled
  split <;> rfl

/-- The two roles that a pairing finds, of the named spiral and of its partner (R7, R8). -/
def Pairing.finds (p : Pairing) (i : Fin 80) (s : State) : Prop :=
  match p with
  | .formed => s.spirals[i].role = .single ∧ s.spirals[nextSpiral i].role = .single ∧ nextSpiral i ≠ i
  | .dissolved => s.spirals[i].role = .lead
  | .unchanged => True
  | .refused _ => True

theorem hasNext_iff {i : Fin 80} : hasNext i = true ↔ i.val % 10 ≠ 9 := by simp [hasNext, columnOf]

theorem nextSpiral_ne {i : Fin 80} (h : hasNext i = true) : nextSpiral i ≠ i := by
  have hcolumn := hasNext_iff.mp h
  intro e
  have hval := congrArg Fin.val e
  simp only [nextSpiral] at hval
  split at hval
  · dsimp only at hval; omega
  · omega

theorem pairing_finds (i : Fin 80) (twin : Option Bool) (s : State) : (pairing i twin s).finds i s := by
  unfold pairing
  split
  · rename_i hsingle
    split
    · rename_i hnext
      split
      · exact ⟨hsingle, ‹_›, nextSpiral_ne hnext⟩
      · trivial
    · trivial
  · assumption
  · trivial

section
variable {p : Pairing} {i : Fin 80} {s : State}

theorem pairPartner_written (hready : s.ready = true) : SpiralsWritten s (pairPartner p i s) := by
  cases p with
  | formed => exact putSpiral_written _ _ hready
  | dissolved => exact putSpiral_written _ _ hready
  | unchanged | refused _ => exact .refl s

theorem pairPartner_other {j : Fin 80} (h : j ≠ nextSpiral i) : (pairPartner p i s).spirals[j] = s.spirals[j] := by
  cases p with
  | formed => exact putSpiral_other _ _ h
  | dissolved => exact putSpiral_other _ _ h
  | unchanged | refused _ => rfl

/-- The partner's record in a pair whose lead had the role `before`: the partner of a single becomes its follower (R7). -/
def Spiral.joined (before : Role) (partner : Spiral) : Spiral :=
  { partner with role := if before = .single then .follower else partner.role }

/-- The partner's record once the roles are settled (R7, R8). -/
theorem pairPartner_partner (hfinds : p.finds i s) :
    (pairPartner p i s).spirals[nextSpiral i] =
      if p.role s.spirals[i].role = .lead then s.spirals[nextSpiral i].joined s.spirals[i].role
      else if s.spirals[i].role = .lead then { s.spirals[nextSpiral i] with role := .single, state := .disabled }
      else s.spirals[nextSpiral i] := by
  cases p with
  | formed =>
    obtain ⟨hsingle, _, _⟩ := hfinds
    simp only [pairPartner, putSpiral_self, Pairing.role, Spiral.joined, hsingle, if_true]
  | dissolved =>
    have hlead : s.spirals[i].role = .lead := hfinds
    simp only [pairPartner, putSpiral_self, Pairing.role, hlead, if_true]
    rfl
  | unchanged | refused _ =>
    simp only [pairPartner, Pairing.role]
    split
    · rename_i hlead
      rw [hlead]
      rfl
    · rfl

/-- A pairing that changes a record changes the role of the named spiral with it. -/
theorem pairPartner_changed {j : Fin 80} (hfinds : p.finds i s) (hj : recordChanged s (pairPartner p i s) j = true) :
    p.role s.spirals[i].role ≠ s.spirals[i].role := by
  cases p with
  | formed =>
    obtain ⟨hsingle, _, _⟩ := hfinds
    rw [hsingle]
    exact Role.noConfusion
  | dissolved =>
    have hlead : s.spirals[i].role = .lead := hfinds
    rw [hlead]
    exact Role.noConfusion
  | unchanged | refused _ => simp [pairPartner, recordChanged] at hj

/-- The table once the pairing and the named record are written, and the mirror is still to come. -/
def namedWritten (q : SpiralRequest) (p : Pairing) (i : Fin 80) (s : State) : State :=
  putSpiral i (s.spirals[i].apply q (p.role s.spirals[i].role)) (pairPartner p i s)

theorem writeSpiral_eq (q : SpiralRequest) (p : Pairing) (i : Fin 80) (s : State) :
    writeSpiral q p i s =
      if p.role s.spirals[i].role = .lead then mirror i (namedWritten q p i s) else namedWritten q p i s := by
  simp only [writeSpiral, Spiral.apply_role]
  rfl

variable (q : SpiralRequest)

theorem namedWritten_named : (namedWritten q p i s).spirals[i] = s.spirals[i].apply q (p.role s.spirals[i].role) :=
  putSpiral_self _ _ _

theorem namedWritten_other {j : Fin 80} (hne : j ≠ i) :
    (namedWritten q p i s).spirals[j] = (pairPartner p i s).spirals[j] := putSpiral_other _ _ hne

/-- The write of the named record undoes no change of the pairing: the role that changes is the one that it writes. -/
theorem namedWritten_written (hready : s.ready = true) (hfinds : p.finds i s) : SpiralsWritten s (namedWritten q p i s) := by
  have hpartner : SpiralsWritten s (pairPartner p i s) := pairPartner_written hready
  refine hpartner.trans (putSpiral_written _ _ (hpartner.ready.trans hready)) fun j hj => ?_
  by_cases hji : j = i
  · subst hji
    refine recordChanged_iff.mpr (.inr ?_)
    rw [namedWritten_named, Spiral.apply_role]
    exact pairPartner_changed hfinds hj
  · rwa [recordChanged, namedWritten_other q hji]

/-- The writes of R16 raise SPIRAL exactly when they change a state or a role: the mirror leaves the role of a new
follower. -/
theorem writeSpiral_written (hready : s.ready = true) (hfinds : p.finds i s) : SpiralsWritten s (writeSpiral q p i s) := by
  have hnamed := namedWritten_written q hready hfinds
  rw [writeSpiral_eq]
  split
  · rename_i hlead
    refine hnamed.trans (mirror_written i (hnamed.ready.trans hready)) fun j hj => ?_
    by_cases hji : j = i
    · subst hji
      rwa [recordChanged, mirror_lead]
    · by_cases hjn : j = nextSpiral i
      · subst hjn
        have hpartner := pairPartner_partner hfinds
        rw [if_pos hlead] at hpartner
        rw [recordChanged_iff, namedWritten_other q hji, hpartner] at hj
        rw [recordChanged_iff, mirror_partner, namedWritten_other q hji, hpartner]
        exact .inr (hj.resolve_left fun h => h rfl)
      · rwa [recordChanged, mirror_other _ hjn]
  · exact hnamed

theorem writeSpiral_named : (writeSpiral q p i s).spirals[i] = s.spirals[i].apply q (p.role s.spirals[i].role) := by
  rw [writeSpiral_eq]
  split
  · rw [mirror_lead, namedWritten_named]
  · exact namedWritten_named q

theorem writeSpiral_other {j : Fin 80} (hi : j ≠ i) (hn : j ≠ nextSpiral i) :
    (writeSpiral q p i s).spirals[j] = s.spirals[j] := by
  have hnamed : (namedWritten q p i s).spirals[j] = s.spirals[j] :=
    (putSpiral_other _ _ hi).trans (pairPartner_other hn)
  rw [writeSpiral_eq]
  split
  · rw [mirror_other _ hn, hnamed]
  · exact hnamed

theorem writeSpiral_partner (hfinds : p.finds i s) (hne : nextSpiral i ≠ i) :
    (writeSpiral q p i s).spirals[nextSpiral i] =
      if p.role s.spirals[i].role = .lead then
        (s.spirals[i].apply q (p.role s.spirals[i].role)).mirrorOf (s.spirals[nextSpiral i].joined s.spirals[i].role)
      else if s.spirals[i].role = .lead then { s.spirals[nextSpiral i] with role := .single, state := .disabled }
      else s.spirals[nextSpiral i] := by
  have hpartner := pairPartner_partner hfinds
  rw [writeSpiral_eq]
  split
  · rename_i hlead
    rw [if_pos hlead] at hpartner
    rw [mirror_partner, namedWritten_named, namedWritten_other q hne, hpartner]
  · rename_i hother
    rw [if_neg hother] at hpartner
    rw [namedWritten_other q hne, hpartner]

end

/-! ## The judgement of a SET_SPIRAL -/

/-- A valid SET_SPIRAL of spiral `i` (R15, R16). -/
theorem exec_setSpiral {s : State} {slot : Nat} {i : Fin 80} (hhead : s.validHead .setSpiral slot)
    (hnumber : s.slotByte slot 8 = i.val + 1) : exec .setSpiral s = .next (setSpiral slot i (takeHead slot s)) := by
  obtain ⟨⟨hm, _⟩, _⟩ := id hhead
  have hbyte : (takeHead slot s).slotByte slot 8 = i.val + 1 := (slotByte_takeHead hm (by omega)).trans hnumber
  have htake : applySetSpiral slot (takeHead slot s) = setSpiral slot i (takeHead slot s) := by
    rw [applySetSpiral, hbyte, spiralOf_succ]
  exact congrArg Host.Outcome.next ((dispatch_valid hhead applySetSpiral).trans htake)

/-- The check that refuses a SET_SPIRAL of spiral `i`, with its outcome: in flight, a follower, or the pairing (R16, R7). -/
def setSpiralRefusal (i : Fin 80) (twin : Option Bool) (s : State) (o : CardOutcome) : Prop :=
  (spiralBusy i twin s = true ∧ o = .spiralBusy) ∨
  (spiralBusy i twin s = false ∧ s.spirals[i].role = .follower ∧ o = .notSelectable) ∨
  (spiralBusy i twin s = false ∧ s.spirals[i].role ≠ .follower ∧ pairing i twin s = .refused o)

section
variable {i : Fin 80} {s : State} {slot : Nat}

/-- A SET_SPIRAL that no check refuses (R16): with `hpair` the match on the pairing takes its last branch. -/
theorem setSpiral_accepted (hbusy : spiralBusy i (s.spiralRequest slot).twin s = false)
    (hrole : s.spirals[i].role ≠ .follower)
    (hpair : ∀ o, pairing i (s.spiralRequest slot).twin s ≠ .refused o) :
    setSpiral slot i s =
      let t := writeSpiral (s.spiralRequest slot) (pairing i (s.spiralRequest slot).twin s) i s
      completeOk slot (putSpiralResult slot t.spirals[i] t) := by
  unfold setSpiral
  simp only [hbusy, hrole, if_false, Bool.false_eq_true]

/-- A SET_SPIRAL that a check refuses is answered and writes no record (R16, R7). -/
theorem setSpiral_refused {o : CardOutcome}
    (h : setSpiralRefusal i (s.spiralRequest slot).twin s o) :
    setSpiral slot i s = complete slot o s := by
  unfold setSpiral
  obtain ⟨hbusy, rfl⟩ | ⟨hbusy, hrole, rfl⟩ | ⟨hbusy, hrole, hpair⟩ := h
  · simp only [hbusy, if_true]
  · simp only [hbusy, hrole, if_true, if_false, Bool.false_eq_true]
  · simp only [hbusy, hrole, hpair, if_false, Bool.false_eq_true]

end

/-- The named record after steps 3 to 5 of R16; a tracked stock of 0 makes READY to SOLD_OUT (R12). -/
theorem Spiral.apply_eq (q : SpiralRequest) (role : Role) (r : Spiral) :
    r.apply q role =
      { r with role := role, zone := q.zone.getD r.zone, price := q.price.getD r.price, stock := q.stock.getD r.stock,
               jamClass := q.jamClass.getD r.jamClass,
               state := if q.state.getD r.state = .ready ∧ q.stock.getD r.stock = 0 then .soldOut
                 else q.state.getD r.state } := by
  unfold Spiral.apply Spiral.settled
  split <;> simp_all

section
variable {i : Fin 80} {twin : Option Bool} {s : State}

/-- The request asks to form a pair: twin 1 on a single (R7). -/
def asksPair (i : Fin 80) (twin : Option Bool) (s : State) : Prop := twin = some true ∧ s.spirals[i].role = .single

theorem spiralBusy_iff : spiralBusy i twin s = true ↔
    s.spirals[i].inFlight = true ∨
      (asksPair i twin s ∧ hasNext i = true ∧ s.spirals[nextSpiral i].inFlight = true) := by
  simp only [spiralBusy, asksPair, Bool.or_eq_true, Bool.and_eq_true, beq_iff_eq, and_assoc]

/-- Neither the named spiral nor a partner to pair with is in flight (R16, steps 1 and 2). -/
theorem spiralBusy_eq_false (hnamed : s.spirals[i].inFlight = false)
    (hpartner : asksPair i twin s → hasNext i = true → s.spirals[nextSpiral i].inFlight = false) :
    spiralBusy i twin s = false := by
  rw [← Bool.not_eq_true, spiralBusy_iff, hnamed]
  rintro (h | ⟨hasks, hnext, h⟩)
  · exact Bool.noConfusion h
  · rw [hpartner hasks hnext] at h
    exact Bool.noConfusion h

theorem asksPair.not_follower (h : asksPair i twin s) : s.spirals[i].role ≠ .follower := by
  rw [h.2]
  exact Role.noConfusion

theorem pairing_of_asksPair (h : asksPair i twin s) : pairing i twin s =
    if hasNext i then if s.spirals[nextSpiral i].role = .single then .formed else .refused .twinConflict
    else .refused .outOfRange := by
  obtain ⟨rfl, hsingle⟩ := h
  simp only [pairing, hsingle]

/-- Without a pair to form, no pairing is refused; a lead with twin 0 dissolves its pair (R8). -/
theorem pairing_of_not_asksPair (h : ¬ asksPair i twin s) : pairing i twin s =
    if twin = some false ∧ s.spirals[i].role = .lead then .dissolved else .unchanged := by
  unfold pairing
  split
  · rename_i hsingle
    exact absurd ⟨rfl, hsingle⟩ h
  · rename_i hlead
    rw [if_pos ⟨rfl, hlead⟩]
  · rename_i hdissolved
    rw [if_neg fun hboth => hdissolved hboth.1 hboth.2]

theorem pairing_accepted (h : asksPair i twin s → hasNext i = true ∧ s.spirals[nextSpiral i].role = .single)
    (o : CardOutcome) : pairing i twin s ≠ .refused o := by
  by_cases hasks : asksPair i twin s
  · obtain ⟨hnext, hsingle⟩ := h hasks
    rw [pairing_of_asksPair hasks, if_pos hnext, if_pos hsingle]
    exact Pairing.noConfusion
  · rw [pairing_of_not_asksPair hasks]
    split <;> exact Pairing.noConfusion

/-- The role of the named spiral as the request leaves it (R7, R8). -/
theorem pairing_role (hrole : s.spirals[i].role ≠ .follower) (hpair : ∀ o, pairing i twin s ≠ .refused o) :
    (pairing i twin s).role s.spirals[i].role =
      if twin = some true then .lead else if twin = some false then .single else s.spirals[i].role := by
  by_cases hasks : asksPair i twin s
  · rw [pairing_of_asksPair hasks] at hpair ⊢
    rw [if_pos hasks.1]
    split
    · split
      · rfl
      · simp_all
    · simp_all
  · rw [pairing_of_not_asksPair hasks]
    unfold asksPair at hasks
    cases hr : s.spirals[i].role with
    | follower => exact absurd hr hrole
    | single => rcases twin with _ | _ | _ <;> simp_all [Pairing.role]
    | lead => rcases twin with _ | _ | _ <;> simp_all [Pairing.role]

end

/-- The result body of a SET_SPIRAL that ends OK (R16): role, state and stock, a byte that stays 0x00, and the price. -/
def spiralResult (r : Spiral) : List Byte :=
  [BitVec.ofNat 8 r.role.code, BitVec.ofNat 8 r.state.code, BitVec.ofNat 8 r.stock, 0] ++ leBytes (field16 r.price) 2

/-- The bytes of the result stand one after the other; the byte that the card does not write is 0x00 (R16, R29). -/
theorem putSpiralResult_mem {s t : State} (hm : Memory.wf s.mem = true) (slot : Nat) (r : Spiral)
    (ht : t.mem = (takeHead slot s).mem) :
    (putSpiralResult slot r t).mem =
      ((takeHead slot s).putSlot slot 40 (spiralResult r)).mem := by
  have hwf := takeHead_wf hm slot
  obtain ⟨_, _, hbody⟩ := takeHead_taken hm slot
  have hgap : readCell (writeCells (takeHead slot s).mem (slotAddr slot 40)
      [BitVec.ofNat 8 r.role.code, BitVec.ofNat 8 r.state.code, BitVec.ofNat 8 r.stock]) (slotAddr slot 40 + 3) = 0 :=
    (readCell_writeCells_of_outside hwf _ (.inr (Nat.le_refl _))).trans (hbody 3 (by decide))
  have hsplit : spiralResult r = [BitVec.ofNat 8 r.role.code, BitVec.ofNat 8 r.state.code, BitVec.ofNat 8 r.stock] ++
      0 :: leBytes (field16 r.price) 2 := rfl
  rw [putSlot_mem, hsplit, writeCells_append, writeCells, List.length_cons, List.length_cons, List.length_cons,
    List.length_nil, writeCell_zero (writeCells_wf _ _ hwf) hgap, ← ht]
  rfl

/-! ## A SET_SPIRAL from its take to its answer -/

theorem takeHead_spirals (slot : Nat) (s : State) : (takeHead slot s).spirals = s.spirals := by rw [takeHead_eq]

theorem takeHead_ready (slot : Nat) (s : State) : (takeHead slot s).ready = s.ready := by rw [takeHead_eq]

theorem takeHead_spiralRequest {s : State} (hm : Memory.wf s.mem = true) (slot : Nat) :
    (takeHead slot s).spiralRequest slot = s.spiralRequest slot := (request_congr (sameRequest_takeHead hm slot)).1

theorem pairing_congr {s t : State} (h : t.spirals = s.spirals) (i : Fin 80) (twin : Option Bool) :
    pairing i twin t = pairing i twin s := by
  unfold pairing; rw [h]

theorem spiralBusy_congr {s t : State} (h : t.spirals = s.spirals) (i : Fin 80) (twin : Option Bool) :
    spiralBusy i twin t = spiralBusy i twin s := by
  unfold spiralBusy; rw [h]

/-- The table written and the result shown are the whole effect of the card. -/
theorem putSpiralResult_written {s t : State} {slot : Nat} (hm : Memory.wf s.mem = true)
    (ht : SpiralsWritten (takeHead slot s) t) (r : Spiral) :
    putSpiralResult slot r t = withResult s slot (spiralResult r)
      { s with spirals := t.spirals, noticePending := s.noticePending ||| spiralIf s t } := by
  have heq := ht.eq
  rw [spiralIf_congr (takeHead_spirals slot s) rfl, takeHead_eq, List.drop_one] at heq
  have hresult : putSpiralResult slot r t = { t with mem := (putSpiralResult slot r t).mem } := rfl
  rw [hresult, putSpiralResult_mem hm slot r ht.mem, withResult]
  conv_lhs => rw [heq]

/-- The state once an accepted SET_SPIRAL of spiral `i` is taken and has written its records (R16), before its result. -/
def spiralsAfter (s : State) (slot : Nat) (i : Fin 80) : State :=
  let q := s.spiralRequest slot
  writeSpiral q (pairing i q.twin s) i (takeHead slot s)

/-- A SET_SPIRAL that no check refuses: its effect is the table that it writes, with SPIRAL (R16, R9). -/
theorem setSpiral_applied {s : State} {slot : Nat} {i : Fin 80} (hhead : s.validHead .setSpiral slot)
    (hnumber : s.slotByte slot 8 = i.val + 1) (hbusy : spiralBusy i (s.spiralRequest slot).twin s = false)
    (hrole : s.spirals[i].role ≠ .follower) (hpair : ∀ o, pairing i (s.spiralRequest slot).twin s ≠ .refused o) :
    ∃ t, exec .setSpiral s = .next t ∧ t.spirals = (spiralsAfter s slot i).spirals ∧
      applied s t slot (spiralResult t.spirals[i])
        { s with spirals := t.spirals, noticePending := s.noticePending ||| spiralIf s t } := by
  obtain ⟨⟨hm, hworking, _⟩, _⟩ := id hhead
  have hspirals := takeHead_spirals slot s
  have hrequest := takeHead_spiralRequest hm slot
  have hready : s.ready = true := working_ready hworking
  have hwritten : SpiralsWritten (takeHead slot s) (spiralsAfter s slot i) := by
    refine writeSpiral_written _ ((takeHead_ready slot s).trans hready) ?_
    rw [← pairing_congr hspirals]
    exact pairing_finds _ _ _
  have haccepted := setSpiral_accepted (i := i) (s := takeHead slot s) (slot := slot)
    (by rwa [hrequest, spiralBusy_congr hspirals]) (by rwa [hspirals])
    (by rwa [hrequest, pairing_congr hspirals])
  rw [hrequest, pairing_congr hspirals] at haccepted
  change _ = completeOk slot (putSpiralResult slot (spiralsAfter s slot i).spirals[i] (spiralsAfter s slot i)) at haccepted
  rw [putSpiralResult_written hm hwritten] at haccepted
  have htable : (setSpiral slot i (takeHead slot s)).spirals = (spiralsAfter s slot i).spirals := by
    simp [haccepted, withResult]
  refine ⟨_, exec_setSpiral hhead hnumber, htable, ?_⟩
  rw [spiralIf_congr rfl htable, htable, haccepted]
  exact completeOk_applied hm hready (by simp [spiralResult, leBytes_length])

/-- A SET_SPIRAL that is refused writes no record (R16, R7, R15). -/
theorem setSpiral_answered {s : State} {slot : Nat} {i : Fin 80} {o : CardOutcome} (hhead : s.validHead .setSpiral slot)
    (hnumber : s.slotByte slot 8 = i.val + 1)
    (h : setSpiralRefusal i (s.spiralRequest slot).twin s o) :
    ∃ t, exec .setSpiral s = .next t ∧ answered s t slot o [] s := by
  obtain ⟨⟨hm, hworking, _⟩, _⟩ := id hhead
  have hrefused : setSpiral slot i (takeHead slot s) = complete slot o (takeHead slot s) := by
    apply setSpiral_refused
    rw [setSpiralRefusal] at h ⊢
    rwa [takeHead_spiralRequest hm, spiralBusy_congr (takeHead_spirals slot s), takeHead_spirals,
      pairing_congr (takeHead_spirals slot s)]
  refine ⟨_, exec_setSpiral hhead hnumber, ?_⟩
  rw [hrefused, takeHead_eq_withResult]
  exact complete_answered hm (working_ready hworking) (by decide) o

theorem spiralsAfter_named (s : State) (slot : Nat) (i : Fin 80) :
    (spiralsAfter s slot i).spirals[i] =
      s.spirals[i].apply (s.spiralRequest slot) ((pairing i (s.spiralRequest slot).twin s).role s.spirals[i].role) := by
  rw [spiralsAfter, writeSpiral_named, takeHead_spirals]

theorem spiralsAfter_other {i j : Fin 80} (s : State) (slot : Nat) (hi : j ≠ i) (hn : j ≠ nextSpiral i) :
    (spiralsAfter s slot i).spirals[j] = s.spirals[j] := by
  rw [spiralsAfter, writeSpiral_other _ hi hn, takeHead_spirals]

theorem spiralsAfter_partner {s : State} {i : Fin 80} (slot : Nat) (hne : nextSpiral i ≠ i) :
    (spiralsAfter s slot i).spirals[nextSpiral i] =
      let role := (pairing i (s.spiralRequest slot).twin s).role s.spirals[i].role
      if role = .lead then
        (s.spirals[i].apply (s.spiralRequest slot) role).mirrorOf (s.spirals[nextSpiral i].joined s.spirals[i].role)
      else if s.spirals[i].role = .lead then { s.spirals[nextSpiral i] with role := .single, state := .disabled }
      else s.spirals[nextSpiral i] := by
  have hfinds := pairing_finds i (s.spiralRequest slot).twin (takeHead slot s)
  rw [pairing_congr (takeHead_spirals slot s)] at hfinds
  rw [spiralsAfter, writeSpiral_partner _ hfinds hne, takeHead_spirals]

/-- Settles O21: the writes of an accepted SET_SPIRAL are those of `spiralsAfter`, and a refused one only answers. -/
theorem aSetSpiralWritesItsRecordsOrNone : Obligations.ASetSpiralWritesItsRecordsOrNone := by
  refine ⟨fun s slot i hhead hnumber hflight hrole => ?_, fun s slot i o hhead hnumber => ?_⟩
  · intro q old hpair
    have hbusy : spiralBusy i q.twin s = false := spiralBusy_eq_false hflight fun ⟨htwin, hsingle⟩ _ => by
      obtain ⟨_, _, hpartner⟩ := hpair htwin hsingle
      exact hpartner
    have haccepted : ∀ o, pairing i q.twin s ≠ .refused o := pairing_accepted fun ⟨htwin, hsingle⟩ => by
      obtain ⟨hnext, hsingles, _⟩ := hpair htwin hsingle
      exact ⟨hnext, hsingles⟩
    obtain ⟨t, hexec, htable, happlied⟩ := setSpiral_applied hhead hnumber hbusy hrole haccepted
    have hpairing := pairing_role (twin := (s.spiralRequest slot).twin) hrole haccepted
    have hnamed := spiralsAfter_named s slot i
    have hpartner := spiralsAfter_partner (s := s) (i := i) slot
    rw [hpairing, Spiral.apply_eq] at hnamed
    simp only [hpairing, Spiral.apply_eq] at hpartner
    refine ⟨t, hexec, happlied, ?_, fun j hi hn => ?_, fun hne => ?_⟩
    · rw [htable]; exact hnamed
    · rw [htable]; exact spiralsAfter_other s slot hi hn
    · rw [htable]; exact hpartner hne
  · intro q asked h
    apply setSpiral_answered hhead hnumber
    obtain ⟨hflight, rfl⟩ | ⟨hflight, hfollower, rfl⟩ | ⟨hflight, hasks, hcolumn, rfl⟩ |
      ⟨hflight, hasks, hcolumn, hpartner, rfl⟩ | ⟨hflight, hasks, hcolumn, hpartner, hpaired, rfl⟩ := h
    · exact .inl ⟨spiralBusy_iff.mpr (.inl hflight), rfl⟩
    · refine .inr (.inl ⟨spiralBusy_eq_false hflight fun ⟨_, hsingle⟩ _ => ?_, hfollower, rfl⟩)
      rw [hfollower] at hsingle
      exact Role.noConfusion hsingle
    · have hnext : hasNext i = false := by rw [← Bool.not_eq_true, hasNext_iff]; exact not_not.mpr hcolumn
      refine .inr (.inr ⟨spiralBusy_eq_false hflight fun _ h => ?_, asksPair.not_follower hasks, ?_⟩)
      · rw [hnext] at h
        exact Bool.noConfusion h
      · rw [pairing_of_asksPair hasks, hnext]
        rfl
    · exact .inl ⟨spiralBusy_iff.mpr (.inr ⟨hasks, hasNext_iff.mpr hcolumn, hpartner⟩), rfl⟩
    · refine .inr (.inr ⟨spiralBusy_eq_false hflight fun _ _ => hpartner, asksPair.not_follower hasks, ?_⟩)
      rw [pairing_of_asksPair hasks, if_pos (hasNext_iff.mpr hcolumn), if_neg hpaired]

end Sys2Proof.Machine

/-! What a command can do to the stored bytes. The part writes cards, each by its holder, its outcome and its result body
(R29); a restart clears the exchange memory (R20); a MEMORY WRITE is the host's (R23, R28). -/

namespace Sys2Proof.Machine

/-! ## Writes of cards -/

/-- The second bytes arise from the first by writes of cards: holders, and bytes of outcomes and result bodies (R29). -/
inductive CardsWritten (m : List Host.Cell) : List Host.Cell → Prop where
  | none : CardsWritten m m
  | holder {m' : List Host.Cell} (slot : Nat) (h : Holder) (before : CardsWritten m m') :
    CardsWritten m (writeCells m' (slotAddr slot 0) [BitVec.ofNat 8 h.code])
  | body {m' : List Host.Cell} (slot : Nat) {off : Nat} {bytes : List Byte}
    (place : (6 ≤ off ∧ off + bytes.length ≤ 8) ∨ (40 ≤ off ∧ off + bytes.length ≤ 64))
    (before : CardsWritten m m') :
    CardsWritten m (writeCells m' (slotAddr slot off) bytes)

theorem CardsWritten.trans {m m' m'' : List Host.Cell} (h : CardsWritten m m') (h' : CardsWritten m' m'') :
    CardsWritten m m'' := by
  induction h' with
  | none => exact h
  | holder slot holder _ ih => exact ih.holder slot holder
  | body slot place _ ih => exact ih.body slot place

theorem CardsWritten.wf {m m' : List Host.Cell} (h : CardsWritten m m') (hm : Memory.wf m = true) :
    Memory.wf m' = true := by
  induction h with
  | none => exact hm
  | holder slot holder _ ih => exact writeCells_wf _ _ ih
  | body slot place _ ih => exact writeCells_wf _ _ ih

/-- The header of a card beside its outcome, and its request body, are not written (R29). -/
theorem CardsWritten.kept {m m' : List Host.Cell} (h : CardsWritten m m') (hm : Memory.wf m = true) {a : Nat}
    (ha : (1 ≤ a % 64 ∧ a % 64 < 6) ∨ (8 ≤ a % 64 ∧ a % 64 < 40)) : readCell m' a = readCell m a := by
  induction h with
  | none => rfl
  | holder slot holder before ih =>
    rw [readCell_writeCells_of_outside (before.wf hm) _ (by simp only [slotAddr, List.length_singleton]; omega), ih]
  | body slot place before ih =>
    rw [readCell_writeCells_of_outside (before.wf hm) _ (by simp only [slotAddr]; omega), ih]

section
variable {m : List Host.Cell} {s : State} {slot : Nat}

theorem ite_written {c : Prop} [Decidable c] {t : State} (hs : CardsWritten m s.mem) (ht : CardsWritten m t.mem) :
    CardsWritten m (if c then s else t).mem := by
  split
  · exact hs
  · exact ht

theorem raise_written {c : NoticeClass} (h : CardsWritten m s.mem) : CardsWritten m (raise c s).mem := by
  simpa using h

theorem setHolder_written {holder : Holder} (h : CardsWritten m s.mem) : CardsWritten m (s.setHolder slot holder).mem :=
  h.holder slot holder

theorem putSlot_written {off : Nat} {bytes : List Byte} (hlow : 40 ≤ off) (hhigh : off + bytes.length ≤ 64)
    (h : CardsWritten m s.mem) : CardsWritten m (s.putSlot slot off bytes).mem :=
  h.body slot (.inr ⟨hlow, hhigh⟩)

theorem putHalf_written {off n : Nat} (hlow : 40 ≤ off) (hhigh : off + 2 ≤ 64) (h : CardsWritten m s.mem) :
    CardsWritten m (putHalf slot off n s).mem :=
  putSlot_written hlow (by rwa [leBytes_length]) h

theorem takeSlot_written (h : CardsWritten m s.mem) : CardsWritten m (takeSlot slot s).mem :=
  putSlot_written (by decide) (by simp) ((h.holder slot .taken).body slot (.inl (by decide)))

theorem takeHead_written (h : CardsWritten m s.mem) : CardsWritten m (takeHead slot s).mem := takeSlot_written h

theorem complete_written {o : CardOutcome} (h : CardsWritten m s.mem) : CardsWritten m (complete slot o s).mem := by
  have hdone := (h.body slot (off := 6) (bytes := leBytes o.code 2) (.inl (by simp [leBytes_length]))).holder slot .done
  unfold complete
  dsimp only
  split
  · exact hdone
  · simpa [State.setHolder] using hdone

theorem completeOk_written (h : CardsWritten m s.mem) : CardsWritten m (completeOk slot s).mem := by
  simpa [completeOk] using complete_written h

theorem putVendResult_written {charged revolutions : Nat} {drop : Option Nat} (h : CardsWritten m s.mem) :
    CardsWritten m (putVendResult slot charged revolutions drop s).mem :=
  putSlot_written (by decide) (by simp [leBytes_length]) (putHalf_written (by decide) (by decide) h)

end

/-! ## Operations that write no byte -/

theorem setInFlight_mem (b : Bool) (l : List (Fin 80)) (s : State) : (setInFlight b l s).mem = s.mem := by
  obtain ⟨v, n, h⟩ := setInFlight_frame b l s
  rw [h]

theorem settleRun_mem (s : State) : (settleRun s).mem = s.mem := by rw [settleRun_eq]

theorem callDefrost_mem (s : State) : (callDefrost s).mem = s.mem := by
  unfold callDefrost; split <;> rfl

theorem callIfReached_mem (s : State) : (callIfReached s).mem = s.mem := by
  unfold callIfReached; split
  · exact callDefrost_mem s
  · rfl

theorem updateFallback_mem (s : State) : (updateFallback s).mem = s.mem := by
  unfold updateFallback; split <;> simp

theorem recordEnd_mem (i : Fin 80) (twin : Bool) (o : CardOutcome) (s : State) : (recordEnd i twin o s).mem = s.mem := by
  unfold recordEnd; dsimp only; split <;> simp [setInFlight_mem]

theorem settleMoney_mem (f : Flight) (o : CardOutcome) (s : State) : (settleMoney f o s).mem = s.mem := by
  unfold settleMoney; repeat' split
  all_goals simp

theorem auditVerdict_mem (f : Flight) (o : CardOutcome) (s : State) : (auditVerdict f o s).mem = s.mem := by
  unfold auditVerdict; repeat' split
  all_goals simp

theorem admitMark_mem (s : State) : (admitMark s).mem = s.mem := by
  unfold admitMark; split <;> rfl

theorem planStart_mem (e : PayEntry) (due : Nat) (s : State) : (planStart e due s).2.mem = s.mem := by
  unfold planStart; split <;> simp

theorem tubeFoundEmpty_mem (t : Fin 4) (p : Payout) (s : State) : (tubeFoundEmpty t p s).mem = s.mem := by
  unfold tubeFoundEmpty; dsimp only; split <;> simp

theorem confirmCoin_mem (a : AirCoin) (p : Payout) (s : State) : (confirmCoin a p s).mem = s.mem := by
  unfold confirmCoin; dsimp only; split <;> simp

theorem sampleChannels_mem (a b e : BitVec 12) (s : State) : (sampleChannels a b e s).mem = s.mem := by
  unfold sampleChannels; dsimp only; split <;> simp

theorem setAirflow_mem (b : Bool) (s : State) : (setAirflow b s).mem = s.mem := by
  unfold setAirflow; split <;> simp

theorem judgeSpread_mem (s : State) : (judgeSpread s).mem = s.mem := by
  unfold judgeSpread; dsimp only; repeat' split
  all_goals simp [setAirflow_mem]

theorem expose_mem (z : ZoneState) (s : State) : (expose z s).mem = s.mem := by
  unfold expose lockZone; dsimp only; split <;> simp

theorem judgeZone_mem (s : State) : (judgeZone s).mem = s.mem := by
  unfold judgeZone; repeat' split
  all_goals simp [expose_mem]

theorem judgeKeepalive_mem (s : State) : (judgeKeepalive s).mem = s.mem := by
  unfold judgeKeepalive; split <;> rfl

theorem applyPort_mem (p : PortSettings) (s : State) : (applyPort p s).mem = s.mem := by
  unfold applyPort; dsimp only; repeat' split
  all_goals rfl

theorem putCooling_mem (c : CoolingSettings) (s : State) : (putCooling c s).mem = s.mem := by
  unfold putCooling switchCabB; dsimp only; split <;> simp [updateFallback_mem]

theorem pairPartner_mem (p : Pairing) (i : Fin 80) (s : State) : (pairPartner p i s).mem = s.mem := by
  unfold pairPartner; dsimp only; split <;> simp

theorem writeSpiral_mem (q : SpiralRequest) (p : Pairing) (i : Fin 80) (s : State) :
    (writeSpiral q p i s).mem = s.mem := by
  unfold writeSpiral; dsimp only; split <;> simp [pairPartner_mem]

theorem defaultSpirals_mem : ∀ (l : List (Fin 80)) (s : State), (defaultSpirals l s).mem = s.mem
  | [], _ => rfl
  | i :: rest, s => by rw [defaultSpirals, defaultSpirals_mem rest]; simp

theorem creditCoin_mem (v : Nat) (s : State) : (creditCoin v s).mem = s.mem := by
  unfold creditCoin; dsimp only; split <;> simp

theorem coinArrives_mem (c : Fin 6) (s : State) : (coinArrives c s).mem = s.mem := by
  unfold coinArrives routeCoin; dsimp only; split <;> simp [creditCoin_mem]

section
variable {m : List Host.Cell}

/-! ## Payouts and vends -/

theorem requestReturn_written {origin : Origin} {card : Option AttachedCard} {s : State} (h : CardsWritten m s.mem) :
    CardsWritten m (requestReturn origin card s).mem := by
  unfold requestReturn completeVendAtOnce
  repeat' split
  · exact h
  · exact h
  · exact complete_written h
  · exact complete_written h
  · exact h
  · exact complete_written h
  · exact complete_written h
  · exact h

theorem requestReturnIfAny_written {origin : Origin} {s : State} (h : CardsWritten m s.mem) :
    CardsWritten m (requestReturnIfAny origin s).mem := by
  unfold requestReturnIfAny
  split
  · exact requestReturn_written h
  · exact h

theorem closeBasket_written {s : State} (h : CardsWritten m s.mem) : CardsWritten m (closeBasket s).mem := by
  unfold closeBasket
  repeat' split
  · exact h
  · exact complete_written (putHalf_written (by decide) (by decide) h)
  · exact h

theorem endItem_written {slot : Nat} {basket : Option Nat} {o : CardOutcome} {s : State} (h : CardsWritten m s.mem) :
    CardsWritten m (endItem slot basket o s).mem := by
  unfold endItem
  repeat' split
  · exact complete_written h
  · exact closeBasket_written h
  · exact closeBasket_written (complete_written h)

theorem afterVerdict_written {f : Flight} {o : CardOutcome} {s : State} (h : CardsWritten m s.mem) :
    CardsWritten m (afterVerdict f o s).mem := by
  unfold afterVerdict
  split
  · exact requestReturn_written h
  · exact endItem_written h

theorem putPayoutResult_written {p : Payout} {retained : Nat} {card : AttachedCard} {s : State}
    (h : CardsWritten m s.mem) : CardsWritten m (putPayoutResult p retained card s).mem := by
  unfold putPayoutResult
  split
  · exact putHalf_written (by decide) (by decide) (putHalf_written (by decide) (by decide) h)
  · exact putSlot_written (by decide) (by simp)
      (putHalf_written (by decide) (by decide) (putHalf_written (by decide) (by decide) h))
  · exact putHalf_written (by decide) (by decide) (putHalf_written (by decide) (by decide) h)
  · exact putSlot_written (by decide) (by simp) (putHalf_written (by decide) (by decide) h)

/-- A judgement of the load keeps the stored bytes as they must be. -/
def writesCards (m : List Host.Cell) (judge : State → State) : Prop :=
  ∀ s, CardsWritten m s.mem → CardsWritten m (judge s).mem

section
variable {judge : State → State} {s : State}

theorem giveUp_written {c : Claimant} (hj : writesCards m judge) (h : CardsWritten m s.mem) :
    CardsWritten m (giveUp judge c s).mem := hj _ h

theorem placeClaim_written {c : Claimant} {size : Nat} (hj : writesCards m judge) (h : CardsWritten m s.mem) :
    CardsWritten m (placeClaim judge c size s).mem := hj _ h

theorem endPayoutWith_written {o : CardOutcome} (hj : writesCards m judge) (h : CardsWritten m s.mem) :
    CardsWritten m (endPayoutWith judge o s).mem := by
  unfold endPayoutWith
  split
  · exact h
  · rename_i p _
    have hgiven : CardsWritten m (giveUp judge .payout s).mem := hj _ h
    dsimp only
    split
    · simpa [apply_ite State.mem] using hgiven
    · refine complete_written (putPayoutResult_written ?_)
      simpa [apply_ite State.mem] using hgiven

theorem endPayout_written (hj : writesCards m judge) (h : CardsWritten m s.mem) :
    CardsWritten m (endPayout judge s).mem := by
  unfold endPayout
  split
  · exact h
  · exact endPayoutWith_written hj h

theorem ejectNext_written (hj : writesCards m judge) (h : CardsWritten m s.mem) :
    CardsWritten m (ejectNext judge s).mem := by
  unfold ejectNext
  split
  · exact h
  · split
    · exact endPayout_written hj h
    · dsimp only
      split
      · exact h
      · exact endPayout_written hj h

theorem verdict_written {o : CardOutcome} (hj : writesCards m judge) (h : CardsWritten m s.mem) :
    CardsWritten m (verdict judge o s).mem := by
  unfold verdict
  split
  · exact h
  · refine afterVerdict_written ?_
    dsimp only
    refine putVendResult_written ?_
    rw [auditVerdict_mem, recordEnd_mem, settleMoney_mem]
    exact hj _ h

theorem testEnd_written {o : CardOutcome} {time : Nat} (hj : writesCards m judge) (h : CardsWritten m s.mem) :
    CardsWritten m (testEnd judge o time s).mem := by
  unfold testEnd
  split
  · exact h
  · refine complete_written (putSlot_written (by decide) (by simp [leBytes_length])
      (putHalf_written (by decide) (by decide) ?_))
    rw [recordEnd_mem]
    exact hj _ h

theorem endFlight_written {o testO : CardOutcome} (hj : writesCards m judge) (h : CardsWritten m s.mem) :
    CardsWritten m (endFlight judge o testO s).mem := by
  unfold endFlight
  repeat' split
  · exact h
  · exact testEnd_written hj h
  · exact verdict_written hj h

theorem motorStart_written (hj : writesCards m judge) (h : CardsWritten m s.mem) :
    CardsWritten m (motorStart judge s).mem := by
  unfold motorStart
  repeat' split
  · exact h
  · exact verdict_written hj h
  · exact h

theorem onGrant_written {c : Claimant} (hj : writesCards m judge) (h : CardsWritten m s.mem) :
    CardsWritten m (onGrant judge c s).mem := by
  cases c
  case compressor => exact h
  case heater => exact h
  case drive => exact motorStart_written hj h
  case payout => exact ejectNext_written hj h

end

theorem judgeLoad_writesCards : writesCards m judgeLoad := fun _ =>
  judgeLoad_keeps (P := fun s => CardsWritten m s.mem) fun _ hj _ _ _ h _ _ _ => onGrant_written hj (by exact h)

theorem judgeLoad_written {s : State} (h : CardsWritten m s.mem) :
    CardsWritten m (judgeLoad s).mem := judgeLoad_writesCards s h

section
variable {judge : State → State} {s : State}

theorem startPayout_written {e : PayEntry} {rest : List PayEntry} (hj : writesCards m judge) (h : CardsWritten m s.mem) :
    CardsWritten m (startPayout judge e rest s).mem := by
  unfold startPayout
  dsimp only
  split
  · refine endPayoutWith_written hj ?_
    rwa [admitMark_mem]
  · have hplanned : CardsWritten m (planStart e (amountDue e (admitMark { s with payQueue := rest }))
        (setBusy true (admitMark { s with payQueue := rest }))).2.mem := by
      rw [planStart_mem]
      simpa [admitMark_mem] using h
    split
    · exact endPayout_written hj hplanned
    · exact hj _ hplanned

theorem afterConfirm_written (hj : writesCards m judge) (h : CardsWritten m s.mem) :
    CardsWritten m (afterConfirm judge s).mem := by
  unfold afterConfirm
  repeat' split
  · exact h
  · exact endPayout_written hj h
  · exact h
  · exact ejectNext_written hj h

theorem enterClaiming_written {f : Flight} (hj : writesCards m judge) (h : CardsWritten m s.mem) :
    CardsWritten m (enterClaiming judge f s).mem := by
  refine hj _ ?_
  rwa [setInFlight_mem]

theorem checkVend_written {e : QueueEntry} (hj : writesCards m judge) (h : CardsWritten m s.mem) :
    CardsWritten m (checkVend judge e s).mem := by
  unfold checkVend
  dsimp only
  have hopen : CardsWritten m (openBasket e s).mem := by
    unfold openBasket
    split <;> exact h
  split
  · refine enterClaiming_written hj ?_
    split
    · simpa using hopen
    · exact hopen
  · exact endItem_written (putVendResult_written hopen)

theorem checkTest_written {e : QueueEntry} (hj : writesCards m judge) (h : CardsWritten m s.mem) :
    CardsWritten m (checkTest judge e s).mem := by
  unfold checkTest
  dsimp only
  split
  · exact enterClaiming_written hj h
  · exact complete_written (putSlot_written (by decide) (by simp [leBytes_length]) h)

theorem revolutionComplete_written {time : Nat} (hj : writesCards m judge) (h : CardsWritten m s.mem) :
    CardsWritten m (revolutionComplete judge time s).mem := by
  unfold revolutionComplete
  split
  · exact h
  · rename_i f _
    have hwritten : CardsWritten m (putSpiral f.spiral { s.spirals[f.spiral] with lastRevolution := time }
        { s with rev := none, flight := some { f with revolutions := f.revolutions + 1 } }).mem := by simpa using h
    dsimp only
    split
    · exact testEnd_written hj hwritten
    · split
      · exact verdict_written hj hwritten
      · split
        · exact verdict_written hj hwritten
        · split
          · exact verdict_written hj hwritten
          · exact hwritten

theorem jamReport_written (hj : writesCards m judge) (h : CardsWritten m s.mem) :
    CardsWritten m (jamReport judge s).mem :=
  endFlight_written hj (by simpa using h)

theorem shortReport_written (hj : writesCards m judge) (h : CardsWritten m s.mem) :
    CardsWritten m (shortReport judge s).mem := by
  have hjam := jamReport_written hj (s := raise .drive { s with driveFaulted := true }) (by simpa using h)
  simpa [shortReport] using hjam

end

/-! ## Cooling -/

section
variable {judge : State → State} {s : State}

theorem endDraining_written (h : CardsWritten m s.mem) : CardsWritten m (endDraining s).mem := by
  unfold endDraining completeDefrostCard
  dsimp only
  split
  · exact complete_written (putSlot_written (by decide) (by simp [leBytes_length])
      (putHalf_written (by decide) (by decide) h))
  · exact h


theorem startDefrost_written (hj : writesCards m judge) (h : CardsWritten m s.mem) :
    CardsWritten m (startDefrost judge s).mem := by
  unfold startDefrost
  dsimp only
  split
  · exact hj _ h
  · exact hj _ (hj _ h)

theorem startIfOff_written (hj : writesCards m judge) (h : CardsWritten m s.mem) :
    CardsWritten m (startIfOff judge s).mem := by
  unfold startIfOff
  split
  · exact startDefrost_written hj h
  · exact h

theorem becomeDue_written (hj : writesCards m judge) (h : CardsWritten m s.mem) :
    CardsWritten m (becomeDue judge s).mem :=
  startIfOff_written hj (by rwa [callDefrost_mem])

theorem judgeDue_written (hj : writesCards m judge) (h : CardsWritten m s.mem) :
    CardsWritten m (judgeDue judge s).mem := by
  unfold judgeDue
  split
  · exact becomeDue_written hj h
  · exact h

theorem endDefrost_written {byTime : Bool} (hj : writesCards m judge) (h : CardsWritten m s.mem) :
    CardsWritten m (endDefrost judge byTime s).mem := by
  unfold endDefrost
  refine ite_written (endDraining_written ?_) ?_ <;> exact ite_written (raise_written (hj _ h)) (hj _ h)

theorem judgeTermination_written (hj : writesCards m judge) (h : CardsWritten m s.mem) :
    CardsWritten m (judgeTermination judge s).mem := by
  unfold judgeTermination
  repeat' split
  · exact h
  · exact endDefrost_written hj h
  · exact h

theorem cutOut_written (hj : writesCards m judge) (h : CardsWritten m s.mem) : CardsWritten m (cutOut judge s).mem := by
  have hsettled : CardsWritten m (settleRun s).mem := by rwa [settleRun_mem]
  unfold cutOut
  dsimp only
  split
  · exact startDefrost_written hj hsettled
  · exact hj _ hsettled

theorem thermostat_written (hj : writesCards m judge) (h : CardsWritten m s.mem) :
    CardsWritten m (thermostat judge s).mem := by
  unfold thermostat
  repeat' split
  · exact hj _ h
  · exact h
  · exact h
  · exact hj _ h
  · exact cutOut_written hj h
  · exact h
  · exact h
  · exact h

theorem enterIdle_written (hj : writesCards m judge) (h : CardsWritten m s.mem) :
    CardsWritten m (enterIdle judge s).mem := by
  unfold enterIdle
  dsimp only
  split
  · exact hj _ h
  · exact h

theorem minOnEnds_written (hj : writesCards m judge) (h : CardsWritten m s.mem) :
    CardsWritten m (minOnEnds judge s).mem := by
  unfold minOnEnds
  dsimp only
  split
  · exact h
  · split
    · exact startDefrost_written hj h
    · split
      · exact cutOut_written hj h
      · exact h

theorem forcedStop_written (hj : writesCards m judge) (h : CardsWritten m s.mem) :
    CardsWritten m (forcedStop judge s).mem := by
  unfold forcedStop
  split
  · exact startDefrost_written hj h
  · exact h

theorem phaseStarts_written {on : Bool} (hj : writesCards m judge) (h : CardsWritten m s.mem) :
    CardsWritten m (phaseStarts judge on s).mem := by
  unfold phaseStarts
  dsimp only
  repeat' split
  · exact hj _ h
  · exact hj _ h
  · exact cutOut_written hj h
  · exact h
  · exact h

theorem takeSample_written {a b e : BitVec 12} (hj : writesCards m judge) (h : CardsWritten m s.mem) :
    CardsWritten m (takeSample judge a b e s).mem := by
  unfold takeSample
  dsimp only
  rw [judgeZone_mem]
  have hsampled : CardsWritten m (updateFallback (judgeSpread (sampleChannels a b e (takeSetpoint s)))).mem := by
    rw [updateFallback_mem, judgeSpread_mem, sampleChannels_mem]
    exact h
  refine judgeTermination_written hj ?_
  split
  · exact hsampled
  · exact thermostat_written hj hsampled

end

/-! ## The cards -/

theorem forEach_written {f : Nat → State → State}
    (hf : ∀ slot s, CardsWritten m s.mem → CardsWritten m (f slot s).mem) :
    ∀ {slots : List Nat} {s : State}, CardsWritten m s.mem → CardsWritten m (forEach f slots s).mem
  | [], _, h => h
  | slot :: rest, s, h => by
    rw [forEach]
    exact forEach_written hf (hf slot s h)

section
variable {s : State} {slot : Nat}

theorem endBadCard_written {off : Nat} (h : CardsWritten m s.mem) : CardsWritten m (endBadCard slot off s).mem :=
  complete_written (putSlot_written (by decide) (by simp) h)

/-- The dispatcher, once for all: what the owner of a card keeps, the take and the answer of that card keep. -/
theorem dispatch_written {k : CardKind} {handle : Nat → State → State}
    (hhandle : ∀ {slot : Nat} {s : State}, CardsWritten m s.mem → CardsWritten m (handle slot s).mem)
    (h : CardsWritten m s.mem) :
    CardsWritten m (dispatch k handle s).mem := by
  unfold dispatch
  repeat' split
  · exact h
  · exact endBadCard_written (takeHead_written h)
  · exact hhandle (takeHead_written h)
  · exact h

theorem endVendAtIntake_written {o : CardOutcome} (h : CardsWritten m s.mem) :
    CardsWritten m (endVendAtIntake slot o s).mem :=
  complete_written (putVendResult_written h)

theorem abortFollower_written (h : CardsWritten m s.mem) : CardsWritten m (abortFollower slot s).mem := by
  unfold abortFollower
  dsimp only
  split
  · exact endVendAtIntake_written (takeSlot_written h)
  · exact complete_written (takeSlot_written h)

theorem takeBasket_written (h : CardsWritten m s.mem) : CardsWritten m (takeBasket slot s).mem := by
  unfold takeBasket
  split
  · split
    · exact forEach_written (fun _ _ => takeSlot_written) h
    · exact endVendAtIntake_written
        (forEach_written (fun _ _ h => endVendAtIntake_written (takeSlot_written h)) h)
  · exact endVendAtIntake_written (forEach_written (fun _ _ => abortFollower_written) h)

theorem takeVend_written (h : CardsWritten m s.mem) : CardsWritten m (takeVend slot s).mem :=
  ite_written (ite_written h (endVendAtIntake_written h)) (takeBasket_written h)

theorem takeTest_written (h : CardsWritten m s.mem) :
    CardsWritten m (takeTest slot s).mem := ite_written h (complete_written h)

theorem endCancel_written {cancelled : Nat} {o : CardOutcome} (h : CardsWritten m s.mem) :
    CardsWritten m (endCancel slot cancelled o s).mem :=
  complete_written (putSlot_written (by decide) (by simp) h)

theorem cancelQueued_written {slots : List Nat} (h : CardsWritten m s.mem) : CardsWritten m (cancelQueued slots s).mem :=
  forEach_written (fun _ _ h => endVendAtIntake_written h) h

theorem applyCancel_written (h : CardsWritten m s.mem) : CardsWritten m (applyCancel slot s).mem := by
  unfold applyCancel
  dsimp only
  split
  · exact endCancel_written h
  · exact endCancel_written h
  · exact endCancel_written (closeBasket_written (cancelQueued_written h))
  · exact endCancel_written (closeBasket_written (cancelQueued_written (verdict_written judgeLoad_writesCards h)))

theorem takePayout_written (h : CardsWritten m s.mem) :
    CardsWritten m (takePayout slot s).mem := ite_written h (complete_written h)

theorem applyTubeFill_written (h : CardsWritten m s.mem) : CardsWritten m (applyTubeFill slot s).mem := by
  unfold applyTubeFill
  split
  · exact h
  · unfold fillTube
    refine ite_written (complete_written h) (completeOk_written (putSlot_written (by decide) (by simp)
      (putHalf_written (by decide) (by decide) (putSlot_written (by decide) (by simp) ?_))))
    simpa using h

theorem applySetSpiral_written (h : CardsWritten m s.mem) : CardsWritten m (applySetSpiral slot s).mem := by
  unfold applySetSpiral
  split
  · exact h
  · rename_i i _
    unfold setSpiral
    refine ite_written (complete_written h) (ite_written (complete_written h) ?_)
    split
    · exact complete_written h
    · unfold putSpiralResult
      refine completeOk_written (putHalf_written (by decide) (by decide) (putSlot_written (by decide) (by simp) ?_))
      rwa [writeSpiral_mem]

theorem applySetCoin_written (h : CardsWritten m s.mem) : CardsWritten m (applySetCoin slot s).mem := by
  have hrecord (fields : List Field) {u : State} (hu : CardsWritten m u.mem) :
      CardsWritten m (u.putSlot slot 40 (recordBytes fields 16)).mem :=
    putSlot_written (by decide) (by simp [recordBytes]) hu
  unfold applySetCoin
  split
  · split
    · exact h
    · rename_i c _
      unfold setChannel
      dsimp only
      exact ite_written (completeOk_written (hrecord _ (ite_written h h)))
        (complete_written (hrecord _ (ite_written h h)))
  · split
    · exact h
    · rename_i t _
      have happlied : CardsWritten m (recomputeChange (putTube t (s.tubes[t].apply (s.tubeRequest slot)) s)).mem := by
        simpa using h
      unfold setTube
      dsimp only
      split
      · exact completeOk_written (hrecord _ (ite_written happlied h))
      · exact complete_written (hrecord _ (ite_written happlied h))

theorem applyMoney_written {g : MoneySettings} (h : CardsWritten m s.mem) : CardsWritten m (applyMoney slot g s).mem := by
  unfold applyMoney
  refine ite_written (complete_written h) (completeOk_written ?_)
  simpa using h

theorem applyCooling_written {c : CoolingSettings} (h : CardsWritten m s.mem) :
    CardsWritten m (applyCooling slot c s).mem := by
  have hput : CardsWritten m (putCooling c s).mem := by rwa [putCooling_mem]
  exact completeOk_written (ite_written hput (judgeDue_written judgeLoad_writesCards hput))

theorem defaultCooling_written (h : CardsWritten m s.mem) : CardsWritten m (defaultCooling slot s).mem := by
  have hput : CardsWritten m (putCooling .factory s).mem := by rwa [putCooling_mem]
  exact completeOk_written (ite_written hput (by rwa [callIfReached_mem]))

theorem applyLoad_written {l : LoadSettings} (h : CardsWritten m s.mem) : CardsWritten m (applyLoad slot l s).mem :=
  completeOk_written (judgeLoad_written h)

theorem applySetLoad_written (h : CardsWritten m s.mem) : CardsWritten m (applySetLoad slot s).mem := by
  unfold applySetLoad
  exact ite_written (applyLoad_written h) (complete_written h)

theorem completeOk_applyPort_written {p : PortSettings} (h : CardsWritten m s.mem) :
    CardsWritten m (completeOk slot (applyPort p s)).mem :=
  completeOk_written (by rwa [applyPort_mem])

theorem applyDefaults_written (h : CardsWritten m s.mem) : CardsWritten m (applyDefaults slot s).mem := by
  unfold applyDefaults
  split
  · exact applyMoney_written h
  · exact completeOk_written h
  · exact applyLoad_written h
  · exact completeOk_applyPort_written h
  · exact defaultCooling_written h
  · unfold defaultSpiralGroup
    exact ite_written (complete_written h) (completeOk_written (by rwa [defaultSpirals_mem]))
  · unfold defaultCoinGroup
    exact ite_written (complete_written h) (completeOk_written (by simpa using h))
  · exact h

theorem applyReleaseZone_written (h : CardsWritten m s.mem) : CardsWritten m (applyReleaseZone slot s).mem := by
  have hresult {u : State} (hu : CardsWritten m u.mem) : CardsWritten m (putZoneResult slot u).mem :=
    putHalf_written (by decide) (by decide)
      (putHalf_written (by decide) (by decide) (putSlot_written (by decide) (by simp) hu))
  unfold applyReleaseZone
  refine ite_written (complete_written (hresult h)) (completeOk_written (hresult (ite_written ?_ h)))
  simpa using h

theorem takeDefrostNow_written (h : CardsWritten m s.mem) : CardsWritten m (takeDefrostNow slot s).mem := by
  unfold takeDefrostNow
  exact ite_written (complete_written h) (becomeDue_written judgeLoad_writesCards h)

theorem takeResumeDrive_written (h : CardsWritten m s.mem) : CardsWritten m (takeResumeDrive slot s).mem := by
  unfold takeResumeDrive
  exact ite_written (complete_written h) (ite_written h (completeOk_written h))

theorem takeSnapshot_written (h : CardsWritten m s.mem) : CardsWritten m (takeSnapshot slot s).mem := by
  unfold takeSnapshot
  exact ite_written (complete_written h) (by simpa using h)

theorem takeStore_written (h : CardsWritten m s.mem) : CardsWritten m (takeStore slot s).mem := by
  unfold takeStore
  exact ite_written (complete_written h) (by simpa using h)

end

/-! ## The drive and the drop sensor -/

section
variable {s : State}

theorem camLine_written {spiral : Fin 80} {level : CamLevel} (h : CardsWritten m s.mem) :
    CardsWritten m (camLine spiral level s).mem := by
  unfold camLine
  dsimp only
  repeat' split
  · exact h
  · exact jamReport_written judgeLoad_writesCards h
  · exact h
  · exact h

theorem consumeEdge_written {column : Fin 10} {time : Nat} {r : Revolution} (h : CardsWritten m s.mem) :
    CardsWritten m (consumeEdge column time r s).mem := by
  unfold consumeEdge reportOpened
  exact ite_written (revolutionComplete_written judgeLoad_writesCards h) (ite_written h h)

theorem takeLimit_written {judged waits : Cam → Bool} {r : Revolution} (h : CardsWritten m s.mem) :
    CardsWritten m (takeLimit judged waits r s).mem := by
  unfold takeLimit
  exact ite_written (jamReport_written judgeLoad_writesCards h) h

theorem setCurrent_written {current : Nat} (h : CardsWritten m s.mem) : CardsWritten m (setCurrent current s).mem := by
  unfold setCurrent
  repeat' split
  · exact h
  · exact shortReport_written judgeLoad_writesCards h
  · exact h
  · exact h

theorem putOffCurrent_written {slot highest : Nat} (h : CardsWritten m s.mem) :
    CardsWritten m (putOffCurrent slot highest s).mem :=
  putHalf_written (by decide) (by decide) h

theorem doorAborts_written (h : CardsWritten m s.mem) : CardsWritten m (doorAborts s).mem := by
  unfold doorAborts
  repeat' split
  · exact h
  · exact verdict_written judgeLoad_writesCards h
  · exact testEnd_written judgeLoad_writesCards h
  · exact h

theorem dropWaitEnds_written {f : Flight} (h : CardsWritten m s.mem) : CardsWritten m (dropWaitEnds f s).mem := by
  unfold dropWaitEnds
  exact ite_written (motorStart_written judgeLoad_writesCards h) (verdict_written judgeLoad_writesCards h)

theorem giveDrop_written (h : CardsWritten m s.mem) : CardsWritten m (giveDrop s).mem := by
  unfold giveDrop
  dsimp only
  repeat' split
  · exact verdict_written judgeLoad_writesCards (by exact h)
  · exact h
  · exact h
  · exact h

theorem sensorFails_written (h : CardsWritten m s.mem) : CardsWritten m (sensorFails s).mem := by
  have hfault {u : State} (hu : CardsWritten m u.mem) : CardsWritten m (faultVerdict u).mem := by
    unfold faultVerdict
    split
    · exact ite_written (verdict_written judgeLoad_writesCards hu) hu
    · exact hu
  unfold sensorFails
  exact ite_written (hfault (raise_written h)) (raise_written h)

/-! ## Payouts -/

theorem afterPulse_written {tube : Fin 4} (h : CardsWritten m s.mem) : CardsWritten m (afterPulse tube s).mem := by
  unfold afterPulse
  split
  · exact ite_written (ite_written h (ejectNext_written judgeLoad_writesCards h)) h
  · exact h

theorem exitCoin_written (h : CardsWritten m s.mem) : CardsWritten m (exitCoin s).mem := by
  unfold exitCoin
  split
  · exact ite_written h (afterConfirm_written judgeLoad_writesCards (by rwa [confirmCoin_mem]))
  · exact h

theorem missCoin_written {a : AirCoin} {p : Payout} (h : CardsWritten m s.mem) : CardsWritten m (missCoin a p s).mem := by
  unfold missCoin
  refine ite_written (ejectNext_written judgeLoad_writesCards (by rwa [tubeFoundEmpty_mem])) (ite_written h ?_)
  exact endPayout_written judgeLoad_writesCards h

/-! ## The supply -/

theorem afterSave_written {i : Image} (h : CardsWritten m s.mem) : CardsWritten m (afterSave i s).mem := by
  have hheld {c : Option HeldSave} {u : State} (hu : CardsWritten m u.mem) : CardsWritten m (completeHeld c i u).mem := by
    unfold completeHeld
    split
    · exact complete_written (putSlot_written (by decide) (by simp [leBytes_length]) hu)
    · exact hu
  have hnext (u : State) (hu : CardsWritten m u.mem) :
      CardsWritten m (if u.store.mark then beginSave { u with store := { u.store with mark := false } } else u).mem :=
    ite_written hu hu
  unfold afterSave
  exact hnext _ (hheld (hheld h))

/-- A restart clears the exchange memory (R20). -/
theorem restart_mem (reason : RestartReason) (pins : Pins) (s : State) : (restart reason pins s).mem = [] := by
  unfold restart
  split <;> simp [restored]

theorem completeSave_written {pins : Pins} {i : Image} (h : CardsWritten m s.mem) :
    CardsWritten m (completeSave pins i s).mem ∨ (completeSave pins i s).mem = [] := by
  unfold completeSave
  dsimp only
  split
  · exact .inl (afterSave_written h)
  · exact .inl h
  · exact .inr (restart_mem _ _ _)

theorem countInterrupted_mem (s : State) : (countInterrupted s).mem = s.mem := by
  unfold countInterrupted
  repeat' split
  all_goals rfl

theorem assertPfail_written (h : CardsWritten m s.mem) : CardsWritten m (assertPfail s).mem := by
  have hmem : (assertPfail s).mem = s.mem := by simp [assertPfail, stopOutputs, countInterrupted_mem, settleRun_mem]
  rwa [hmem]

end

/-! ## Every command -/

theorem clearNotice_mem (s : State) : (clearNotice s).mem = s.mem := by
  unfold clearNotice
  repeat' split
  all_goals rfl

theorem periodEnds_mem (s : State) : (periodEnds s).mem = s.mem := by
  unfold periodEnds
  split <;> rfl

theorem countRefused_written {s : State} (h : CardsWritten m s.mem) : CardsWritten m (countRefused s).mem :=
  raise_written h

theorem writeRegister_written {register : Byte} {data : List Byte} {s : State} (h : CardsWritten m s.mem) :
    CardsWritten m (writeRegister register data s).mem := by
  unfold writeRegister
  split
  · exact ite_written h (countRefused_written h)
  · exact countRefused_written h

/-- A next state, if there is one, has the bytes with cards written, or cleared by a restart (R20, R29). -/
def nextWritten (m : List Host.Cell) (o : Host.Outcome State Fault Refusal) : Prop :=
  ∀ t, o = .next t → CardsWritten m t.mem ∨ t.mem = []

theorem nextWritten.next {t : State} (h : CardsWritten m t.mem) : nextWritten m (.next t) := by
  rintro _ ⟨rfl⟩
  exact .inl h

theorem nextWritten.cleared {t : State} (h : t.mem = []) : nextWritten m (.next t) := by
  rintro _ ⟨rfl⟩
  exact .inr h

theorem idle_mem (s : State) : (idle s).mem = s.mem := by
  unfold idle
  split <;> rfl

section
variable {s : State} (h : CardsWritten m s.mem)
include h

theorem execMemoryRead_written (start : Option Half) (count : Nat) : nextWritten m (execMemoryRead start count s) := by
  refine .next ?_
  split
  · exact h
  · exact h
  · exact h

theorem execNoticeRead_written (read : RegisterRead) : nextWritten m (execNoticeRead read s) := by
  refine .next ?_
  exact ite_written (by rwa [clearNotice_mem]) h

theorem execKeepalivePeriodEnd_written : nextWritten m (execKeepalivePeriodEnd s) := by
  refine .next ?_
  split
  · exact ite_written (by rwa [periodEnds_mem]) h
  · exact h

theorem execSilentReturnExpiry_written : nextWritten m (execSilentReturnExpiry s) := by
  refine .next ?_
  split
  · exact ite_written (requestReturnIfAny_written h) h
  · exact h

theorem execBadCard_written : nextWritten m (execBadCard s) := by
  refine .next ?_
  repeat' split
  · exact h
  · exact endBadCard_written (takeHead_written h)
  · exact h

theorem takeQueueHead_written {k : CardKind} {check : QueueEntry → State → State}
    (hcheck : ∀ {e : QueueEntry} {s : State}, CardsWritten m s.mem → CardsWritten m (check e s).mem) :
    CardsWritten m (takeQueueHead k check s).mem := by
  unfold takeQueueHead
  split
  · exact ite_written (hcheck h) h
  · exact h

theorem execLoadWaitExpiry_written : nextWritten m (execLoadWaitExpiry s) := by
  refine .next ?_
  split
  · exact endFlight_written judgeLoad_writesCards h
  · exact h

theorem execCamEdgeConsumed_written (column : Fin 10) : nextWritten m (execCamEdgeConsumed column s) := by
  refine .next ?_
  repeat' split
  · exact h
  · exact consumeEdge_written h
  · exact h
  · exact h

theorem execCamLeaveLimit_written : nextWritten m (execCamLeaveLimit s) := by
  refine .next ?_
  split
  · exact h
  · exact ite_written (takeLimit_written h) h

theorem execRevolutionLimit_written : nextWritten m (execRevolutionLimit s) := by
  refine .next ?_
  split
  · exact h
  · exact ite_written (takeLimit_written h) h

theorem execJamTimerExpiry_written : nextWritten m (execJamTimerExpiry s) := by
  refine .next ?_
  repeat' split
  · exact h
  · exact jamReport_written judgeLoad_writesCards h
  · exact h
  · exact h

theorem execMotorShort_written (current : Nat) : nextWritten m (execMotorShort current s) :=
  .next (ite_written (shortReport_written judgeLoad_writesCards h) h)

theorem execOffCurrentCheckPass_written (highest : Nat) : nextWritten m (execOffCurrentCheckPass highest s) := by
  refine .next ?_
  split
  · exact ite_written (completeOk_written (putOffCurrent_written (raise_written h))) h
  · exact h

theorem execOffCurrentCheckFail_written (highest : Nat) : nextWritten m (execOffCurrentCheckFail highest s) := by
  refine .next ?_
  split
  · exact ite_written (complete_written (putOffCurrent_written h)) h
  · exact h

theorem execBeamChange_written (after : Nat) (blocked : Bool) : nextWritten m (execBeamChange after blocked s) := by
  refine .next ?_
  unfold setBeam
  exact ite_written h h

theorem execDropRecognised_written : nextWritten m (execDropRecognised s) := .next (ite_written (giveDrop_written h) h)

theorem execDropSensorFault_written : nextWritten m (execDropSensorFault s) :=
  .next (ite_written (sensorFails_written h) h)

theorem execDropSensorRecovery_written : nextWritten m (execDropSensorRecovery s) :=
  .next (ite_written (raise_written h) h)

theorem execDropWaitExpiry_written : nextWritten m (execDropWaitExpiry s) := by
  refine .next ?_
  repeat' split
  · exact dropWaitEnds_written h
  · exact h
  · exact h
  · exact h

theorem execDoorStateChange_written (door : DoorState) : nextWritten m (execDoorStateChange door s) := by
  refine .next ?_
  have hraised : CardsWritten m (raise .door { s with door := door }).mem := raise_written h
  exact ite_written h (ite_written (doorAborts_written hraised) hraised)

theorem execCoinArrival_written (channel : Fin 6) (returned : Bool) :
    nextWritten m (execCoinArrival channel s returned) :=
  .next (ite_written (by rwa [coinArrives_mem]) h)

theorem execGateTimerExpiry_written (tube : Fin 4) : nextWritten m (execGateTimerExpiry tube s) := by
  refine .next ?_
  split
  · exact h
  · exact h

theorem execCoinReturnLever_written : nextWritten m (execCoinReturnLever s) :=
  .next (ite_written (requestReturnIfAny_written (raise_written h)) h)

theorem execPayoutStart_written : nextWritten m (execPayoutStart s) := by
  refine .next ?_
  split
  · exact ite_written (startPayout_written judgeLoad_writesCards h) h
  · exact h

theorem execEjectorPulseEnd_written : nextWritten m (execEjectorPulseEnd s) := by
  refine .next ?_
  split
  · exact ite_written (afterPulse_written h) h
  · exact h

theorem execExitCoinSeen_written (returned : Bool) : nextWritten m (execExitCoinSeen s returned) :=
  .next (ite_written (exitCoin_written h) h)

theorem execConfirmWindowExpiry_written : nextWritten m (execConfirmWindowExpiry s) := by
  refine .next ?_
  split
  · exact ite_written (missCoin_written h) h
  · exact h

theorem execSample_written (a b e : BitVec 12) : nextWritten m (execSample a b e s) := by
  refine .next ?_
  split
  · exact ite_written (takeSample_written judgeLoad_writesCards h) h
  · exact h

theorem execMinOffExpiry_written : nextWritten m (execMinOffExpiry s) := by
  refine .next ?_
  split
  · exact ite_written (enterIdle_written judgeLoad_writesCards h) h
  · exact h

theorem execMinOnExpiry_written : nextWritten m (execMinOnExpiry s) := by
  refine .next ?_
  split
  · exact ite_written (minOnEnds_written judgeLoad_writesCards h) h
  · exact h

theorem execStartWindowExpiry_written : nextWritten m (execStartWindowExpiry s) := by
  refine .next ?_
  split
  · exact ite_written (judgeLoad_written h) h
  · exact h

theorem execFallbackPhaseExpiry_written : nextWritten m (execFallbackPhaseExpiry s) := by
  refine .next ?_
  split
  · exact ite_written (phaseStarts_written judgeLoad_writesCards h) h
  · exact h

theorem execDefrostDue_written : nextWritten m (execDefrostDue s) :=
  .next (ite_written (startIfOff_written judgeLoad_writesCards (by rwa [callIfReached_mem])) h)

theorem execDefrostForcedStop_written : nextWritten m (execDefrostForcedStop s) := by
  refine .next ?_
  split
  · exact ite_written (forcedStop_written judgeLoad_writesCards h) h
  · exact h

theorem execDefrostTimerExpiry_written : nextWritten m (execDefrostTimerExpiry s) := by
  refine .next ?_
  split
  · exact ite_written (endDefrost_written judgeLoad_writesCards h) h
  · exact h

theorem execDrainingEnd_written : nextWritten m (execDrainingEnd s) := by
  refine .next ?_
  split
  · exact ite_written (endDraining_written h) h
  · exact h

theorem execRecoveryGraceEnd_written : nextWritten m (execRecoveryGraceEnd s) := by
  refine .next ?_
  split
  · exact ite_written h h
  · exact h

theorem execRunTimeAccumulatorSecond_written : nextWritten m (execRunTimeAccumulatorSecond s) := by
  refine .next ?_
  split
  · exact ite_written (judgeDue_written judgeLoad_writesCards h) h
  · exact h

theorem execSaveComplete_written (pins : Pins) : nextWritten m (execSaveComplete pins s) := by
  unfold execSaveComplete
  split
  · exact .next h
  · rintro _ ⟨rfl⟩
    exact completeSave_written h

theorem execPfailAssert_written : nextWritten m (execPfailAssert s) := by
  refine .next ?_
  split
  · exact assertPfail_written h
  · exact h
  · exact h

theorem execPfailRelease_written (pins : Pins) : nextWritten m (execPfailRelease pins s) := by
  unfold execPfailRelease
  split
  · split
    · exact .next h
    · exact .cleared (restart_mem _ _ _)
  · exact .next h
  · exact .next h

/-- What a command can do to the stored bytes, once for all but the host's write. -/
theorem exec_written (i : Instr) (hhost : ∀ addr data completed, i ≠ .memoryWrite addr data completed) :
    nextWritten m (exec i s) := by
  cases i with
  | memoryRead start count => exact execMemoryRead_written h start count
  | memoryWrite addr data completed => exact absurd rfl (hhost addr data completed)
  | unknownCommand command => exact .next (ite_written (countRefused_written h) h)
  | noticeRead read => exact execNoticeRead_written h read
  | noticeMaskWrite data => exact .next (ite_written (writeRegister_written h) h)
  | registerWriteRefused register data => exact .next (ite_written (writeRegister_written h) h)
  | portReset released => exact .next (ite_written (raise_written h) h)
  | keepalivePeriodEnd => exact execKeepalivePeriodEnd_written h
  | silentReturnExpiry => exact execSilentReturnExpiry_written h
  | badCard => exact execBadCard_written h
  | vend => exact .next (dispatch_written takeVend_written h)
  | cancel => exact .next (dispatch_written applyCancel_written h)
  | returnCredit => exact .next (dispatch_written requestReturn_written h)
  | payout => exact .next (dispatch_written takePayout_written h)
  | tubeFill => exact .next (dispatch_written applyTubeFill_written h)
  | setSpiral => exact .next (dispatch_written applySetSpiral_written h)
  | setCoin => exact .next (dispatch_written applySetCoin_written h)
  | setMoney => exact .next (dispatch_written applyMoney_written h)
  | setVend => exact .next (dispatch_written (fun h => completeOk_written h) h)
  | setCooling => exact .next (dispatch_written applyCooling_written h)
  | setLoad => exact .next (dispatch_written applySetLoad_written h)
  | setPort => exact .next (dispatch_written completeOk_applyPort_written h)
  | defaults => exact .next (dispatch_written applyDefaults_written h)
  | releaseZone => exact .next (dispatch_written applyReleaseZone_written h)
  | defrostNow => exact .next (dispatch_written takeDefrostNow_written h)
  | testSpiral => exact .next (dispatch_written takeTest_written h)
  | resumeDrive => exact .next (dispatch_written takeResumeDrive_written h)
  | snapshot => exact .next (dispatch_written takeSnapshot_written h)
  | store => exact .next (dispatch_written takeStore_written h)
  | vendCheckStage => exact .next (takeQueueHead_written h (checkVend_written judgeLoad_writesCards))
  | testCheckStage => exact .next (takeQueueHead_written h (checkTest_written judgeLoad_writesCards))
  | loadWaitExpiry => exact execLoadWaitExpiry_written h
  | camLineChange after spiral level => exact .next (camLine_written h)
  | camEdgeConsumed column => exact execCamEdgeConsumed_written h column
  | camLeaveLimit => exact execCamLeaveLimit_written h
  | revolutionLimit => exact execRevolutionLimit_written h
  | motorCurrentChange after current => exact .next (setCurrent_written h)
  | jamTimerExpiry => exact execJamTimerExpiry_written h
  | motorShort current => exact execMotorShort_written h current
  | offCurrentCheckPass highest => exact execOffCurrentCheckPass_written h highest
  | offCurrentCheckFail highest => exact execOffCurrentCheckFail_written h highest
  | beamChange after blocked => exact execBeamChange_written h after blocked
  | dropRecognised => exact execDropRecognised_written h
  | dropSensorFault => exact execDropSensorFault_written h
  | dropSensorRecovery => exact execDropSensorRecovery_written h
  | dropWaitExpiry => exact execDropWaitExpiry_written h
  | doorStateChange door => exact execDoorStateChange_written h door
  | coinArrival channel returned => exact execCoinArrival_written h channel returned
  | gateTimerExpiry tube => exact execGateTimerExpiry_written h tube
  | fullSensorChange tube full => exact .next h
  | coinReturnLever => exact execCoinReturnLever_written h
  | payoutStart => exact execPayoutStart_written h
  | ejectorPulseEnd => exact execEjectorPulseEnd_written h
  | exitCoinSeen returned => exact execExitCoinSeen_written h returned
  | confirmWindowExpiry => exact execConfirmWindowExpiry_written h
  | sample cabA cabB evap => exact execSample_written h cabA cabB evap
  | minOffExpiry => exact execMinOffExpiry_written h
  | minOnExpiry => exact execMinOnExpiry_written h
  | startWindowExpiry => exact execStartWindowExpiry_written h
  | fallbackPhaseExpiry => exact execFallbackPhaseExpiry_written h
  | defrostDue => exact execDefrostDue_written h
  | defrostForcedStop => exact execDefrostForcedStop_written h
  | defrostTimerExpiry => exact execDefrostTimerExpiry_written h
  | drainingEnd => exact execDrainingEnd_written h
  | recoveryGraceEnd => exact execRecoveryGraceEnd_written h
  | saveComplete pins => exact execSaveComplete_written h pins
  | pfailAssert => exact execPfailAssert_written h
  | pfailRelease pins => exact execPfailRelease_written h pins
  | resetAssert pins => exact .cleared (restart_mem _ _ _)
  | powerOn pins => exact .cleared (restart_mem _ _ _)
  | restartSequenceEnd active => exact .next (ite_written h h)
  | runTimeAccumulatorSecond => exact execRunTimeAccumulatorSecond_written h

end

end

end Sys2Proof.Machine

/-! What every step keeps of the stored bytes: their canonical form, and a legal holder byte in every slot (R27 to R29). -/

namespace Sys2Proof.Machine

/-! ## The invariant of the stored bytes -/

/-- The stored bytes are canonical, and the holder byte of every slot holds one of the five values of R27. -/
def poolOk (m : List Host.Cell) : Prop := Memory.wf m = true ∧ ∀ slot < 128, (readCell m (slotAddr slot 0)).toNat ≤ 4

theorem poolOk_iff {s : State} : poolOk s.mem ↔ s.memoryOk ∧ s.holdersOk := Iff.rfl

theorem poolOk_nil : poolOk [] := ⟨rfl, fun _ _ => Nat.zero_le 4⟩

theorem Holder.code_le (h : Holder) : h.code ≤ 4 := by cases h <;> decide

/-- A write of cards puts legal holders alone into the holder bytes. -/
theorem CardsWritten.poolOk {m m' : List Host.Cell} (h : CardsWritten m m') (hm : poolOk m) : poolOk m' := by
  refine ⟨h.wf hm.1, fun other hother => ?_⟩
  induction h with
  | none => exact hm.2 other hother
  | holder slot holder before ih =>
    rw [readCell_writeCells _ _ _ (before.wf hm.1)]
    split
    · have hcode := holder.code_le
      have hplace : slotAddr other 0 - slotAddr slot 0 = 0 := by simp only [slotAddr, List.length_singleton] at *; omega
      rw [hplace]
      simp only [List.getD_cons_zero, BitVec.toNat_ofNat]
      omega
    · exact ih
  | body slot place before ih =>
    rw [readCell_writeCells_of_outside (before.wf hm.1) _ (by simp only [slotAddr]; omega)]
    exact ih

/-! ## The host's writes -/

theorem areaOf_cardPool {a : Nat} (hlow : 0x0400 ≤ a) (hhigh : a < 0x2400) : areaOf a = .cardPool := by
  simp (disch := omega) only [areaOf, if_neg, if_pos]

/-- A holder byte stands at offset 0 of its slot (R19, R27). -/
theorem isHolderAddr_slotAddr {slot : Nat} (h : slot < 128) : isHolderAddr (slotAddr slot 0) = true := by
  rw [isHolderAddr, areaOf_cardPool (by simp only [slotAddr]; omega) (by simp only [slotAddr]; omega)]
  simp only [slotAddr, beq_self_eq_true, Bool.true_and, beq_iff_eq]
  omega

/-- Bytes that are stored at no holder address leave every holder byte as it was. -/
theorem storeBytes_poolOk : ∀ {bytes : List (Nat × Byte)} {m : List Host.Cell},
    (∀ b ∈ bytes, isHolderAddr b.1 = false) → poolOk m → poolOk (storeBytes bytes m)
  | [], _, _, h => h
  | (a, v) :: rest, m, hbytes, ⟨hwf, hholders⟩ => by
    refine storeBytes_poolOk (bytes := rest) (fun b hb => hbytes b (List.mem_cons_of_mem _ hb)) (m := writeCell m a v)
      ⟨writeCell_wf hwf a v, fun slot hslot => ?_⟩
    have hplace : slotAddr slot 0 ≠ a := by
      rintro rfl
      simpa [isHolderAddr_slotAddr hslot] using hbytes _ List.mem_cons_self
    rw [readCell_writeCell hwf, if_neg hplace]
    exact hholders slot hslot

theorem evaluateHolder_poolOk {slot value : Nat} {s : State} (h : poolOk s.mem) :
    poolOk (evaluateHolder slot value s).mem := by
  have hset (holder : Holder) : poolOk (s.setHolder slot holder).mem := (CardsWritten.none.holder slot holder).poolOk h
  unfold evaluateHolder
  split
  · exact hset .posted
  · exact hset .linked
  · exact hset .free
  · exact hset .free
  · exact h
  · exact h

theorem evaluateHolders_poolOk : ∀ {l : List (Nat × Nat)} {r : State × Bool}, poolOk r.1.mem →
    poolOk (evaluateHolders l r).1.mem
  | [], _, h => h
  | (slot, value) :: rest, (s, refused), h => by
    rw [evaluateHolders]
    exact evaluateHolders_poolOk (evaluateHolder_poolOk h)

theorem applyWrite_poolOk {addr : Half} {data : List Byte} {completed : List Nat} {s : State} (h : poolOk s.mem) :
    poolOk (applyWrite addr data completed s).mem := by
  have haccepted : ∀ b ∈ acceptedBytes completed (placed addr data) s, isHolderAddr b.1 = false := by
    intro b hb
    have hb := (List.mem_filter.mp hb).2
    simp only [Bool.and_eq_true, Bool.not_eq_true'] at hb
    exact hb.1
  have hstored := evaluateHolders_poolOk (l := holderBytes (placed addr data))
    (r := ({ s with mem := storeBytes (acceptedBytes completed (placed addr data) s) s.mem },
      someDiscarded completed (placed addr data) s)) (storeBytes_poolOk haccepted h)
  unfold applyWrite
  dsimp only
  split
  · simpa [apply_ite State.mem, judgeKeepalive_mem] using hstored
  · simpa [apply_ite State.mem, judgeKeepalive_mem] using hstored

theorem execMemoryWrite_poolOk {addr : Half} {data : List Byte} {completed : List Nat} {s t : State} (h : poolOk s.mem)
    (hexec : exec (.memoryWrite addr data completed) s = .next t) : poolOk t.mem := by
  change Host.Outcome.next (openTransaction 3 (if s.ready then applyWrite addr data completed s else s)) = .next t at hexec
  obtain ⟨rfl⟩ := hexec
  change poolOk (if s.ready then applyWrite addr data completed s else s).mem
  split
  · exact applyWrite_poolOk h
  · exact h

theorem step_poolOk {s t : State} (h : poolOk s.mem) (hstep : step s = .next t) : poolOk t.mem := by
  unfold step at hstep
  split at hstep
  · obtain ⟨rfl⟩ := hstep
    rwa [idle_mem]
  · rename_i i rest hpending
    by_cases hhost : ∃ addr data completed, i = .memoryWrite addr data completed
    · obtain ⟨addr, data, completed, rfl⟩ := hhost
      exact execMemoryWrite_poolOk (by exact h) hstep
    · simp only [not_exists] at hhost
      obtain hwritten | hcleared := exec_written (s := { s with pending := rest }) .none i hhost t hstep
      · exact hwritten.poolOk h
      · rw [hcleared]
        exact poolOk_nil

/-- Settles O58: every command writes cards, clears the memory or is a host's write, and the idle part writes nothing. -/
theorem everyStepKeepsTheMemory : Obligations.EveryStepKeepsTheMemory := by
  intro s t hmemory hholders hstep
  exact poolOk_iff.mp (step_poolOk (poolOk_iff.mpr ⟨hmemory, hholders⟩) hstep)

end Sys2Proof.Machine

/-! The cards that are answered in the step of their take (R33 to R35): a card that fails validation, a card that joins the
vend queue, and the settings groups. -/

namespace Sys2Proof.Machine

/-! ## The head of the intake list -/

theorem State.validHead.wf {s : State} {k : CardKind} {slot : Nat} (h : s.validHead k slot) : Memory.wf s.mem = true := h.1.1

theorem State.validHead.ready {s : State} {k : CardKind} {slot : Nat} (h : s.validHead k slot) : s.ready = true :=
  working_ready h.1.2.1

/-- The result of a card that is taken and has no effect yet. -/
theorem putSlot_takeHead (s : State) (slot : Nat) (result : List Byte) :
    (takeHead slot s).putSlot slot 40 result = withResult s slot result s := by
  rw [takeHead_eq, withResult, List.drop_one]
  simp only [State.putSlot, takeHead_mem]

theorem putVendResult_noVend (s : State) (slot : Nat) : putVendResult slot 0 0 none s = s.putSlot slot 40 noVend := by
  have hnone : noVend = leBytes 0 2 ++ (BitVec.ofNat 8 0 :: 0 :: leBytes 65535 2) := rfl
  rw [hnone]
  simp only [putVendResult, putHalf, State.putSlot, writeCells_append]
  rfl

theorem takenIn_congr {s t : State} {slot : Nat} (h : t.mem = s.mem) (htaken : s.takenIn slot) : t.takenIn slot := by
  simpa only [State.takenIn, State.holder, State.slotHalf, State.slotByte, h] using htaken

/-- A taken card stays TAKEN beside an effect on other fields (R29, R34). -/
theorem takeHead_keptTaken {s : State} (hm : Memory.wf s.mem = true) (slot : Nat) (u : State) :
    keptTaken s { u with intake := s.intake.tail, mem := (takeHead slot s).mem } slot u := by
  refine ⟨takenIn_congr (s := takeHead slot s) (by dsimp only) (takeHead_taken hm slot), fun a ha => ?_, by dsimp only⟩
  dsimp only
  exact readCell_takeHead_kept hm ha

/-! ## Joining the vend queue -/

theorem exec_join {s : State} {slot : Nat} {k : CardKind} {c : Instr} (hhead : s.validHead k slot)
    (hkind : (k = .vend ∧ c = .vend ∧ s.slotByte slot 4 = 255) ∨ (k = .testSpiral ∧ c = .testSpiral)) :
    exec c s = .next (if s.vendQueue.length < 16 then
        { s with vendQueue := s.vendQueue ++ [⟨slot, none⟩], intake := s.intake.tail, mem := (takeHead slot s).mem }
      else complete slot .queueFull (withResult s slot (if k = .vend then noVend else []) s)) := by
  have hroom : 0 < (takeHead slot s).vendRoom ↔ s.vendQueue.length < 16 := by
    rw [takeHead_eq]
    simp only [State.vendRoom]
    omega
  have hjoined : { takeHead slot s with vendQueue := (takeHead slot s).vendQueue ++ [(⟨slot, none⟩ : QueueEntry)] } =
      { s with
        vendQueue := s.vendQueue ++ [(⟨slot, none⟩ : QueueEntry)], intake := s.intake.tail, mem := (takeHead slot s).mem } := by
    simp only [takeHead_eq, List.drop_one]
  obtain ⟨rfl, rfl, hlink⟩ | ⟨rfl, rfl⟩ := hkind
  · have hlink : (takeHead slot s).slotByte slot 4 = 255 := by rw [slotByte_takeHead hhead.wf (by omega), hlink]
    rw [if_pos rfl, ← putSlot_takeHead, ← putVendResult_noVend]
    change Host.Outcome.next (dispatch .vend takeVend s) = _
    rw [dispatch_valid hhead, takeVend, if_pos hlink, ← hjoined]
    simp only [hroom]
    rfl
  · rw [if_neg (show CardKind.testSpiral ≠ .vend by decide), ← takeHead_eq_withResult]
    change Host.Outcome.next (dispatch .testSpiral takeTest s) = _
    rw [dispatch_valid hhead, takeTest, ← hjoined]
    simp only [hroom]

/-- Settles O14: where an entry is free the taken card joins the tail, otherwise it completes at once. -/
theorem vendAndTestCardsJoinTheVendQueue : Obligations.VendAndTestCardsJoinTheVendQueue := by
  intro s slot k c hhead hkind
  refine ⟨_, exec_join hhead hkind, fun hfree => ?_, fun hfull => ?_⟩
  · rw [if_pos hfree]
    exact takeHead_keptTaken hhead.wf slot { s with vendQueue := s.vendQueue ++ [⟨slot, none⟩] }
  · rw [if_neg (Nat.not_lt.mpr hfull)]
    refine complete_answered hhead.wf hhead.ready ?_ .queueFull
    split <;> decide

/-! ## Validation (R33) -/

/-- The code of a kind at offset 1 of its cards (R37). -/
def CardKind.code : CardKind → Nat
  | .vend => 1 | .cancel => 2 | .returnCredit => 3 | .payout => 4 | .tubeFill => 5 | .setSpiral => 6 | .setCoin => 7
  | .setMoney => 8 | .setVend => 9 | .setCooling => 10 | .setLoad => 11 | .setPort => 12 | .releaseZone => 13
  | .defrostNow => 14 | .testSpiral => 15 | .resumeDrive => 16 | .snapshot => 17 | .store => 18 | .defaults => 19

theorem CardKind.ofCode_code (k : CardKind) : CardKind.ofCode k.code = some k := by cases k <;> rfl

theorem CardKind.code_bounds (k : CardKind) : 1 ≤ k.code ∧ k.code ≤ 19 := by cases k <;> decide

/-- A code names a kind exactly in the range of R37. -/
theorem CardKind.ofCode_cases (n : Nat) :
    ((n = 0 ∨ 19 < n) ∧ CardKind.ofCode n = none) ∨ ∃ k, n = CardKind.code k ∧ CardKind.ofCode n = some k := by
  by_cases hn : n = 0 ∨ 19 < n
  · refine .inl ⟨hn, ?_⟩
    obtain rfl | hn := hn
    · rfl
    · obtain ⟨m, rfl⟩ : ∃ m, n = m + 20 := ⟨n - 20, by omega⟩
      rfl
  · obtain ⟨k, hk⟩ : ∃ k, n = CardKind.code k := by
      have hlow : 1 ≤ n := by omega
      have hhigh : n ≤ 19 := by omega
      interval_cases n
      exacts [⟨.vend, rfl⟩, ⟨.cancel, rfl⟩, ⟨.returnCredit, rfl⟩, ⟨.payout, rfl⟩, ⟨.tubeFill, rfl⟩, ⟨.setSpiral, rfl⟩,
        ⟨.setCoin, rfl⟩, ⟨.setMoney, rfl⟩, ⟨.setVend, rfl⟩, ⟨.setCooling, rfl⟩, ⟨.setLoad, rfl⟩, ⟨.setPort, rfl⟩,
        ⟨.releaseZone, rfl⟩, ⟨.defrostNow, rfl⟩, ⟨.testSpiral, rfl⟩, ⟨.resumeDrive, rfl⟩, ⟨.snapshot, rfl⟩, ⟨.store, rfl⟩,
        ⟨.defaults, rfl⟩]
    exact .inr ⟨k, hk, hk ▸ k.ofCode_code⟩

/-- A judged field as the statements write it: offset, and whether its value lies in its range. -/
def Check.entry (c : Check) : Nat × Bool := (c.offset, c.ok)

theorem firstFailing_eq_find : ∀ checks : List Check,
    firstFailing checks = ((checks.map Check.entry).find? fun f => !f.2).map Prod.fst
  | [] => rfl
  | c :: rest => by
    rw [firstFailing, firstFailing_eq_find rest, List.map_cons, List.find?_cons]
    cases hc : c.ok <;> simp [Check.entry, hc]

theorem within_natCast (lo hi n : Nat) : within lo hi n = decide (lo ≤ n ∧ n ≤ hi) := by
  simp only [within, Nat.cast_le, Bool.decide_and]

theorem entry_byteIn (s : State) (slot off lo hi : Nat) : (byteIn s slot off lo hi).entry =
    (off, decide (lo ≤ s.slotByte slot off ∧ s.slotByte slot off ≤ hi)) := by
  rw [byteIn, Check.entry, within_natCast]

theorem entry_halfIn (s : State) (slot off lo hi : Nat) : (halfIn s slot off lo hi).entry =
    (off, decide (lo ≤ s.slotHalf slot off ∧ s.slotHalf slot off ≤ hi)) := by
  rw [halfIn, Check.entry, within_natCast]

theorem entry_signedIn (s : State) (slot off : Nat) (lo hi : Int) : (signedIn s slot off lo hi).entry =
    (off, decide (lo ≤ s.slotSigned slot off ∧ s.slotSigned slot off ≤ hi)) := by
  rw [signedIn, Check.entry, within, Bool.decide_and]

theorem entry_onlyIf (c : Check) (b : Bool) : (c.onlyIf b).entry = (c.entry.1, !b || c.entry.2) := rfl

/-- The request fields of a kind as the table lists them, but for the coin numbers that a PAYOUT may leave out. -/
theorem requestChecks_entries {k : CardKind} (hk : k ≠ .payout) (s : State) (slot : Nat) :
    (requestChecks k s slot).map Check.entry = requestRanges s slot k.code := by
  cases k
  case payout => exact absurd rfl hk
  case vend =>
    have hlink : linkOk (s.slotByte slot 4) = decide (s.slotByte slot 4 ≤ 127 ∨ s.slotByte slot 4 = 255) := by
      rw [linkOk, Bool.decide_or]
      rfl
    simp only [requestChecks, List.map_cons, List.map_nil, entry_byteIn]
    simp only [Check.entry, hlink]
    rfl
  case setSpiral =>
    have hselector : decide (s.slotByte slot 9 < 64) = decide (0 ≤ s.slotByte slot 9 ∧ s.slotByte slot 9 ≤ 63) :=
      decide_eq_decide.mpr (by omega)
    have hstate : (s.slotByte slot 13 == 0 || s.slotByte slot 13 == 1 || s.slotByte slot 13 == 3) =
        decide (s.slotByte slot 13 = 0 ∨ s.slotByte slot 13 = 1 ∨ s.slotByte slot 13 = 3) := by
      rw [Bool.decide_or, Bool.decide_or, Bool.or_assoc]
      rfl
    simp only [requestChecks, List.map_cons, List.map_nil, entry_onlyIf, entry_byteIn]
    simp only [Check.entry, hselector, hstate]
    rfl
  case setCoin =>
    have hselector : decide (s.slotByte slot 10 < 8) = decide (s.slotByte slot 10 ≤ 7) := decide_eq_decide.mpr (by omega)
    have hselector' : decide (s.slotByte slot 10 < 128 ∧ s.slotByte slot 10 % 8 = 0) =
        decide (s.slotByte slot 10 ≤ 127 ∧ s.slotByte slot 10 % 8 = 0) := decide_eq_decide.mpr (by omega)
    simp only [requestChecks, coinChecks, List.map_cons, List.map_nil, entry_onlyIf, entry_byteIn, beq_iff_eq]
    simp only [Check.entry, hselector, hselector']
    rfl
  all_goals
    simp only [requestChecks, List.map_cons, List.map_nil, entry_byteIn, entry_halfIn, entry_signedIn]
    rfl

theorem firstFailing_requestChecks (k : CardKind) (s : State) (slot : Nat) :
    firstFailing (requestChecks k s slot) = ((requestRanges s slot k.code).find? fun f => !f.2).map Prod.fst := by
  rw [firstFailing_eq_find]
  by_cases hk : k = .payout
  · subst hk
    by_cases hlist : s.slotByte slot 8 = 3
    · simp [requestChecks, requestRanges, CardKind.code, entry_byteIn, entry_onlyIf, hlist]
    · have hlist' : (s.slotByte slot 8 == 3) = false := beq_eq_false_iff_ne.mpr hlist
      simp [requestChecks, requestRanges, CardKind.code, entry_byteIn, entry_onlyIf, hlist, hlist', List.find?_cons]
  · rw [requestChecks_entries hk]

/-- Validation as the table of 2.7.8 says it (R33). -/
theorem failing_eq (s : State) (slot : Nat) : s.failing slot =
    if s.slotByte slot 1 = 0 ∨ 19 < s.slotByte slot 1 then some 1
    else if 2 ≤ s.slotByte slot 5 then some 5
    else ((requestRanges s slot (s.slotByte slot 1)).find? fun f => !f.2).map Prod.fst := by
  unfold State.failing State.cardKind
  obtain ⟨hout, hnone⟩ | ⟨k, hcode, hsome⟩ := CardKind.ofCode_cases (s.slotByte slot 1)
  · rw [hnone, if_pos hout]
  · have hbounds := k.code_bounds
    rw [hsome, if_neg (by omega)]
    dsimp only
    rw [firstFailing_requestChecks, ← hcode]
    by_cases hflags : 2 ≤ s.slotByte slot 5
    · rw [if_neg (by omega), if_pos hflags]
    · rw [if_pos (by omega), if_neg hflags]

theorem exec_badCard {s : State} {slot off : Nat} (hworking : s.working = true) (hhead : s.intake.head? = some slot)
    (hfailing : s.failing slot = some off) :
    exec .badCard s = .next (complete slot .badCard (withResult s slot [BitVec.ofNat 8 off] s)) := by
  have hslot : s.headSlot = some slot := by rw [State.headSlot, if_pos hworking, hhead]
  change execBadCard s = _
  simp only [execBadCard, hslot, hfailing, endBadCard, putSlot_takeHead]

/-- Settles O12: the first field out of its range decides, and its offset is the result. -/
theorem aBadCardShowsTheFailingOffset : Obligations.ABadCardShowsTheFailingOffset := by
  refine ⟨fun s slot off hmemory hworking hhead hfailing => ?_, fun s slot => failing_eq s slot⟩
  exact ⟨_, exec_badCard hworking hhead hfailing, complete_answered hmemory (working_ready hworking) (by simp) .badCard⟩

end Sys2Proof.Machine

/-! The settings groups (R38, R52, R110, R148, R149): what a card puts in force, and that the judgement of the load and the
defrost leave the groups as they are. -/

namespace Sys2Proof.Machine

/-! ## The groups in force -/

/-- The five settings groups and the state of the port are the same. -/
def keepsGroups (s t : State) : Prop :=
  t.moneySet = s.moneySet ∧ t.vendSet = s.vendSet ∧ t.loadSet = s.loadSet ∧ t.portSet = s.portSet ∧ t.coolSet = s.coolSet ∧
    t.ready = s.ready

theorem keepsGroups.refl (s : State) : keepsGroups s s := ⟨rfl, rfl, rfl, rfl, rfl, rfl⟩

theorem keepsGroups.trans {s t u : State} (h : keepsGroups s t) (h' : keepsGroups t u) : keepsGroups s u := by
  unfold keepsGroups at *
  simp_all

theorem setInFlight_groups (b : Bool) (l : List (Fin 80)) (s : State) : keepsGroups s (setInFlight b l s) := by
  obtain ⟨v, n, h⟩ := setInFlight_frame b l s
  rw [h]
  exact .refl s

theorem requestReturn_groups (origin : Origin) (card : Option AttachedCard) (s : State) :
    keepsGroups s (requestReturn origin card s) := by
  unfold requestReturn completeVendAtOnce
  repeat' split
  all_goals simp [keepsGroups]

theorem closeBasket_groups (s : State) : keepsGroups s (closeBasket s) := by
  unfold closeBasket
  repeat' split
  all_goals simp [keepsGroups]

theorem afterVerdict_groups (f : Flight) (o : CardOutcome) (s : State) : keepsGroups s (afterVerdict f o s) := by
  unfold afterVerdict endItem
  repeat' split
  · exact requestReturn_groups _ _ _
  · simp [keepsGroups]
  · exact closeBasket_groups { s with basket := _ }
  · exact .trans (by simp [keepsGroups]) (closeBasket_groups _)

theorem recordEnd_groups (i : Fin 80) (twin : Bool) (o : CardOutcome) (s : State) :
    keepsGroups s (recordEnd i twin o s) := by
  obtain ⟨heq, _⟩ := recordEnd_eq i twin o s
  rw [heq]
  exact .refl s

theorem settleMoney_groups (f : Flight) (o : CardOutcome) (s : State) : keepsGroups s (settleMoney f o s) := by
  unfold settleMoney
  repeat' split
  all_goals simp [keepsGroups]

theorem auditVerdict_groups (f : Flight) (o : CardOutcome) (s : State) : keepsGroups s (auditVerdict f o s) := by
  unfold auditVerdict
  repeat' split
  all_goals simp [keepsGroups]

section
variable {judge : State → State} (hj : ∀ s, keepsGroups s (judge s))
include hj

theorem verdict_groups (o : CardOutcome) (s : State) : keepsGroups s (verdict judge o s) := by
  unfold verdict
  split
  · exact .refl s
  · rename_i f _
    have hgiven : keepsGroups s (giveUp judge .drive { s with rev := none }) := hj _
    have hwritten := ((hgiven.trans (settleMoney_groups f o _)).trans (recordEnd_groups f.spiral f.twin o _)).trans
      (auditVerdict_groups f o _)
    exact (hwritten.trans (by simp [keepsGroups])).trans (afterVerdict_groups _ _ _)

theorem endPayout_groups (s : State) : keepsGroups s (endPayout judge s) := by
  unfold endPayout endPayoutWith
  split
  · exact .refl s
  · have hgiven : keepsGroups s (giveUp judge .payout s) := hj _
    dsimp only
    refine hgiven.trans ?_
    unfold putPayoutResult
    repeat' split
    all_goals simp [keepsGroups]

theorem ejectNext_groups (s : State) : keepsGroups s (ejectNext judge s) := by
  unfold ejectNext
  split
  · exact .refl s
  · split
    · exact .trans (.refl s) (endPayout_groups hj _)
    · dsimp only
      split
      · exact .refl s
      · exact .trans (.refl s) (endPayout_groups hj _)

theorem onGrant_groups (c : Claimant) (s : State) : keepsGroups s (onGrant judge c s) := by
  cases c
  case compressor => exact .refl s
  case heater => exact .refl s
  case drive =>
    change keepsGroups s (motorStart judge s)
    unfold motorStart
    repeat' split
    · exact .refl s
    · exact verdict_groups hj _ s
    · exact .refl s
  case payout => exact ejectNext_groups hj s

end

theorem judgeLoad_groups (s : State) : keepsGroups s (judgeLoad s) := by
  suffices h : ∀ n s, keepsGroups s (judgeHead n s) from h _ s
  intro n
  induction n with
  | zero => exact .refl
  | succ n ih =>
    intro s
    unfold judgeHead
    repeat' split
    · exact .refl s
    · rename_i head rest _ _
      exact (onGrant_groups ih head.claimant { s with waiting := rest, grants := s.grants ++ [head] }).trans (ih _)
    · exact .refl s

/-! ## SET_VEND, SET_PORT and SET_MONEY -/

/-- The request body of a card reads after its take as before. -/
theorem takeHead_requests {s : State} (hm : Memory.wf s.mem = true) (slot : Nat) :
    (takeHead slot s).moneyRequest slot = s.moneyRequest slot ∧ (takeHead slot s).vendRequest slot = s.vendRequest slot ∧
    (takeHead slot s).loadRequest slot = s.loadRequest slot ∧ (takeHead slot s).portRequest slot = s.portRequest slot ∧
    (takeHead slot s).coolingRequest slot = s.coolingRequest slot := by
  obtain ⟨_, _, _, hmoney, hvend, hload, hport, hcooling, _⟩ := request_congr (sameRequest_takeHead hm slot)
  exact ⟨hmoney, hvend, hload, hport, hcooling⟩

theorem withResult_nil (s : State) (slot : Nat) (u : State) :
    withResult s slot [] u = { u with intake := s.intake.tail, mem := (takeHead slot s).mem } := by
  simp only [withResult, State.putSlot, writeCells]

theorem exec_setVend {s : State} {slot : Nat} (hhead : s.validHead .setVend slot) :
    exec .setVend s = .next (completeOk slot (withResult s slot [] { s with vendSet := s.vendRequest slot })) := by
  obtain ⟨_, hvend, _⟩ := takeHead_requests hhead.wf slot
  have hput (v : VendSettings) : { takeHead slot s with vendSet := v } = withResult s slot [] { s with vendSet := v } := by
    simp only [withResult_nil, takeHead_eq, List.drop_one]
  change execSetVend s = _
  rw [execSetVend, dispatch_valid hhead, hvend, applyVendGroup, hput]

/-- The PORT group takes effect on supervision as R52 says it. -/
theorem applyPort_eq (p : PortSettings) (s : State) : applyPort p s = portApplied s p := by
  obtain ⟨alive, reference, period, silentReturn, hsup⟩ : ∃ a r m d, s.sup = ⟨a, r, m, d⟩ := ⟨_, _, _, _, rfl⟩
  by_cases hdelay : p.silentDelay = 0 <;> by_cases hperiod : p.keepalivePeriod = s.portSet.keepalivePeriod <;>
    cases alive <;> simp [applyPort, portApplied, State.periodFromNow, State.keepaliveWord, hdelay, hperiod, hsup]

theorem exec_setPort {s : State} {slot : Nat} (hhead : s.validHead .setPort slot) :
    exec .setPort s = .next (completeOk slot (withResult s slot [] (portApplied s (s.portRequest slot)))) := by
  obtain ⟨_, _, _, hport, _⟩ := takeHead_requests hhead.wf slot
  have hword : (takeHead slot s).keepaliveWord = s.keepaliveWord := by
    simp only [State.keepaliveWord]
    rw [readCell_takeHead_kept hhead.wf, readCell_takeHead_kept hhead.wf] <;> simp only [cardByte, slotAddr] <;> omega
  have hput (p : PortSettings) : portApplied (takeHead slot s) p = withResult s slot [] (portApplied s p) := by
    rw [portApplied, hword]
    simp only [portApplied, withResult_nil, takeHead_eq, List.drop_one]
  change execSetPort s = _
  rw [execSetPort, dispatch_valid hhead, hport, applyPort_eq, hput]

/-- The exact-change status is formed of the tubes and the MONEY group alone. -/
theorem recomputeChange_withResult (s : State) (slot : Nat) (result : List Byte) (u : State) :
    recomputeChange (withResult s slot result u) = withResult s slot result (recomputeChange u) := by
  unfold recomputeChange raise withResult
  dsimp only
  repeat' split
  all_goals rfl

theorem exec_setMoney {s : State} {slot : Nat} (hhead : s.validHead .setMoney slot) :
    exec .setMoney s = .next (if moneyBusy (s.moneyRequest slot) s then complete slot .busy (withResult s slot [] s)
      else completeOk slot (withResult s slot [] (recomputeChange { s with moneySet := s.moneyRequest slot }))) := by
  obtain ⟨hmoney, _⟩ := takeHead_requests hhead.wf slot
  have hput (g : MoneySettings) : { takeHead slot s with moneySet := g } = withResult s slot [] { s with moneySet := g } := by
    simp only [withResult_nil, takeHead_eq, List.drop_one]
  have hbusy (g : MoneySettings) : moneyBusy g (takeHead slot s) = moneyBusy g s := by
    simp only [moneyBusy, takeHead_eq]
  change execSetMoney s = _
  rw [execSetMoney, dispatch_valid hhead, hmoney, applyMoney, hbusy, hput, recomputeChange_withResult,
    ← takeHead_eq_withResult]

theorem moneyBusy_iff (g : MoneySettings) (s : State) : moneyBusy g s = true ↔
    g.baseUnit ≠ s.moneySet.baseUnit ∧ (s.credit ≠ 0 ∨ s.held ≠ 0 ∨ s.payout.isSome = true) := by
  simp [moneyBusy, or_assoc]

/-! ## SET_LOAD -/

theorem consistent_iff (l : LoadSettings) : l.consistent = true ↔
    l.startSize ≤ l.budget ∧ l.runSize ≤ l.startSize ∧ l.heaterSize ≤ l.budget ∧ 2 * l.singleSize ≤ l.budget ∧
      l.payoutSize ≤ l.budget := by
  simp only [LoadSettings.consistent, decide_eq_true_eq]
  omega

/-- The state whose load is judged as a card puts the LOAD group `l` in force (R149). -/
def loadPut (s : State) (slot : Nat) (l : LoadSettings) : State :=
  { s with intake := s.intake.tail, mem := (takeHead slot s).mem, loadSet := l, waiting := resized s l }

theorem resizeClaims_takeHead (s : State) (slot : Nat) (l : LoadSettings) :
    resizeClaims { takeHead slot s with loadSet := l } = loadPut s slot l := by
  have hclaims : (s.waiting.map fun w =>
      { w with size := claimSize l ((s.flight.map Flight.twin).getD false) w.claimant }) = resized s l := by
    refine List.map_congr_left fun w _ => ?_
    obtain ⟨claimant, size⟩ := w
    cases claimant <;> rfl
  simp only [resizeClaims, loadPut, takeHead_eq, List.drop_one, ← hclaims]

theorem exec_setLoad {s : State} {slot : Nat} (hhead : s.validHead .setLoad slot) :
    exec .setLoad s = .next (if (s.loadRequest slot).consistent then
        completeOk slot (judgeLoad (loadPut s slot (s.loadRequest slot)))
      else complete slot .outOfRange (withResult s slot [] s)) := by
  obtain ⟨_, _, hload, _⟩ := takeHead_requests hhead.wf slot
  change execSetLoad s = _
  rw [execSetLoad, dispatch_valid hhead, applySetLoad, hload, applyLoad, resizeClaims_takeHead, ← takeHead_eq_withResult]

/-- A card completes OK beside a judgement of the load, whatever that lets in (R145, R149). -/
theorem completeOk_loadApplied {s : State} {slot : Nat} {l : LoadSettings} (hm : Memory.wf s.mem = true)
    (hready : s.ready = true) : loadApplied s (completeOk slot (judgeLoad (loadPut s slot l))) slot l := by
  have hwritten : CardsWritten s.mem (judgeLoad (loadPut s slot l)).mem := by
    refine judgeLoad_written ?_
    simp only [loadPut]
    exact takeHead_written .none
  have hwf := hwritten.wf hm
  obtain ⟨_, _, hload, _, _, hport⟩ := judgeLoad_groups (loadPut s slot l)
  have hcards : (judgeLoad (loadPut s slot l)).cardsBit slot = s.cardsBit slot :=
    cardsBit_congr (hwritten.kept hm (by simp only [slotAddr]; omega))
  have hput : (loadPut s slot l).ready = true := by simpa only [loadPut] using hready
  have hcomplete := complete_eq hwf (hport.trans hput) slot .ok
  have hmem : (completeOk slot (judgeLoad (loadPut s slot l))).mem =
      (complete slot .ok (judgeLoad (loadPut s slot l))).mem := by
    simp [completeOk]
  obtain ⟨hdone, houtcome⟩ := complete_done hwf slot .ok
  refine ⟨?_, ?_, ?_, ?_, fun a ha => ?_, fun hfull => ?_⟩
  · rw [hmem, completeOk, requestSave_eq, hcomplete, hcards]
    rfl
  · simpa [completeOk, loadPut] using hload
  · simpa only [State.holder, State.slotByte, hmem] using hdone
  · simpa only [State.slotHalf, State.slotByte, hmem] using houtcome
  · simp only [cardByte, not_or, slotAddr] at ha
    have hne : a ≠ slotAddr slot 0 ∧ a ≠ slotAddr slot 6 ∧ a ≠ slotAddr slot 7 := by simp only [slotAddr]; omega
    obtain ⟨h0, h6, h7⟩ := hne
    rw [hmem, readCell_complete_of_ne hwf .ok h0 h6 h7]
    simp only [loadPut]
  · have hstands : judgeLoad (loadPut s slot l) = loadPut s slot l := by
      refine judgeLoad_of_full ?_
      simpa only [loadPut, State.granted] using hfull
    rw [hstands, loadPut, ← withResult_nil s slot { s with loadSet := l, waiting := resized s l }]
    exact completeOk_applied hm (u := { s with loadSet := l, waiting := resized s l }) hready (by simp)

/-- Settles O22: each group is put in force by its card's one effect, and the head of the wait list is judged after a
SET_LOAD. -/
theorem theSettingsCardsApplyTheirGroups : Obligations.TheSettingsCardsApplyTheirGroups := by
  intro s slot
  refine ⟨fun hhead => ?_, fun hhead => ?_, fun hhead => ?_, fun hhead => ?_⟩
  · exact ⟨_, exec_setVend hhead, completeOk_applied hhead.wf hhead.ready (by simp)⟩
  · exact ⟨_, exec_setPort hhead, completeOk_applied hhead.wf hhead.ready (by simp)⟩
  · refine ⟨_, exec_setMoney hhead, ?_⟩
    by_cases hbusy : moneyBusy (s.moneyRequest slot) s = true
    · rw [if_pos hbusy, if_pos ((moneyBusy_iff _ _).mp hbusy)]
      exact complete_answered hhead.wf hhead.ready (by simp) .busy
    · rw [if_neg hbusy, if_neg (mt (moneyBusy_iff _ _).mpr hbusy)]
      exact completeOk_applied hhead.wf (by simpa using hhead.ready) (by simp)
  · refine ⟨_, exec_setLoad hhead, ?_⟩
    by_cases hfits : (s.loadRequest slot).consistent = true
    · rw [if_pos hfits, if_pos ((consistent_iff _).mp hfits)]
      exact completeOk_loadApplied hhead.wf hhead.ready
    · rw [if_neg hfits, if_neg (mt (consistent_iff _).mpr hfits)]
      exact complete_answered hhead.wf hhead.ready (by simp) .outOfRange

end Sys2Proof.Machine

/-! The port while it is not ready (R25, R44, R46, R47). -/

namespace Sys2Proof.Machine

/-- A refusal or an event of a port that is not ready raises nothing (R45). -/
theorem raise_of_notReady {s : State} (h : s.ready = false) (c : NoticeClass) : raise c s = s := by
  simp [raise, h]

theorem clearNotice_of_notReady {s : State} (h : s.ready = false) : clearNotice s = s := by
  unfold clearNotice
  split
  · rfl
  · simp [h]

theorem sendByte_of_notReady {s : State} (h : s.ready = false) (next : Half) (captured : List Byte) :
    sendByte s (.bytes next captured) = (0, .bytes (next + 1) []) := by
  unfold sendByte
  rw [h]

theorem sendBytes_of_notReady {s : State} (h : s.ready = false) (n : Nat) (next : Half) :
    sendBytes s n (.bytes next []) = (List.replicate n 0, .bytes (next + BitVec.ofNat 16 n) []) := by
  induction n generalizing next with
  | zero => simp [sendBytes]
  | succ n ih =>
    have hnext : next + 1 + BitVec.ofNat 16 n = next + BitVec.ofNat 16 (n + 1) := by bv_omega
    rw [sendBytes, sendByte_of_notReady h, ih, hnext, List.replicate_succ]

/-- The first byte drops what was captured before the port fell out of its ready state (R25). -/
theorem sendBytes_captured_of_notReady {s : State} (h : s.ready = false) {n : Nat} (hn : 0 < n) (next : Half)
    (captured : List Byte) :
    sendBytes s n (.bytes next captured) = (List.replicate n 0, .bytes (next + BitVec.ofNat 16 n) []) := by
  obtain ⟨n, rfl⟩ := Nat.exists_eq_add_one.mpr hn
  rw [← sendBytes_of_notReady h, sendBytes, sendBytes, sendByte_of_notReady h, sendByte_of_notReady h]

/-- Every register answers with bytes 0x00 alone (R25, R46). -/
theorem readRegister_of_notReady {s : State} (h : s.ready = false) (register : Byte) :
    ∃ k, s.readRegister register = List.replicate k 0 := by
  unfold State.readRegister
  split
  · exact ⟨1, by simp [State.noticeByte, h]⟩
  · split
    · exact ⟨2, by simp [h]⟩
    · split
      · exact ⟨2, by simp [State.portStatus, h]⟩
      · exact ⟨0, rfl⟩

theorem sent_zeros (k n : Nat) : sent (List.replicate k 0) n = List.replicate n 0 := by
  rw [sent, List.replicate_append_replicate, List.take_replicate, Nat.min_eq_left (Nat.le_add_left n k)]

theorem execNoticeRead_of_notReady {s : State} (h : s.ready = false) (register : Byte) (count : Nat) :
    execNoticeRead ⟨register, count⟩ s = .next { s with dataOut := List.replicate (3 + count) 0, reading := none } := by
  obtain ⟨k, hanswer⟩ := readRegister_of_notReady h register
  rw [execNoticeRead, readRegisterBytes, hanswer, sent_zeros, clearNotice_of_notReady h, ite_self,
    List.replicate_append_replicate]

theorem execPortReset_of_notReady {s : State} (h : s.ready = false) (released : Bool) :
    execPortReset s released = .next { s with reading := some .discarded } := by
  unfold execPortReset
  split
  · rw [raise_of_notReady (by exact h)]
  · next hagain =>
    obtain ⟨_, hreading⟩ : released ≠ true ∧ s.reading = some .discarded := by simpa using hagain
    rw [← hreading]

theorem execMemoryRead_none {s : State} {r : Reading} (h : s.reading = some r) (count : Nat) :
    execMemoryRead none count s = .next (sendRead [] r count s) := by
  simp only [execMemoryRead, h]

/-- Settles O9, command by command. -/
theorem aPortThatIsNotReadyDoesNothing : Obligations.APortThatIsNotReadyDoesNothing := by
  intro s h
  refine ⟨fun addr data completed => ?_, fun data => ?_, fun register data => ?_, fun command => ?_, fun released => ?_,
    fun addr count => ?_, fun next captured count hreading hcount => ?_, fun register count => ?_, ?_⟩
  · change execMemoryWrite addr data completed s = _
    simp [execMemoryWrite, openTransaction, h, List.replicate]
  · change execNoticeMaskWrite data s = _
    simp [execNoticeMaskWrite, openTransaction, h, List.replicate]
  · change execRegisterWriteRefused register data s = _
    simp [execRegisterWriteRefused, openTransaction, h, List.replicate]
  · change execUnknownCommand command s = _
    simp [execUnknownCommand, openTransaction, h, List.replicate]
  · exact execPortReset_of_notReady h released
  · change execMemoryRead (some addr) count s = _
    rw [execMemoryRead, sendRead, sendBytes_of_notReady h, List.replicate_append_replicate]
  · change execMemoryRead none count s = _
    rw [execMemoryRead_none hreading, sendRead, sendBytes_captured_of_notReady h hcount, List.nil_append]
  · exact execNoticeRead_of_notReady h register count
  · simp [State.attn, h]

end Sys2Proof.Machine

/-! The bytes and the word of a transaction (R21 to R24, R43; notes/assumptions/1.md). -/

namespace Sys2Proof.Machine

/-! ## The word of a transaction -/

/-- The word of some bytes holds them with the first byte lowest. -/
theorem wordBytes_foldr (bytes : List Byte) :
    wordBytes bytes.length (bytes.foldr (fun b w => b.toNat + 256 * w) 0) = bytes := by
  induction bytes with
  | nil => rfl
  | cons b rest ih =>
    have hbyte := b.isLt
    have hrest (w : Nat) : (b.toNat + 256 * w) / 256 = w := by omega
    have hfirst (w : Nat) : BitVec.ofNat 8 (b.toNat + 256 * w) = b := by
      apply BitVec.eq_of_toNat_eq
      rw [BitVec.toNat_ofNat]
      omega
    rw [List.foldr_cons, List.length_cons, wordBytes, hfirst, hrest, ih]

theorem decodeTableWord_foldr (bytes : List Byte) :
    decodeTableWord (8 * bytes.length) (bytes.foldr (fun b w => b.toNat + 256 * w) 0) = decodeTransaction [] bytes := by
  rw [decodeTableWord, Nat.mul_div_cancel_left _ (by decide), wordBytes_foldr]

/-- The command of a word is the next that is executed. -/
theorem step_withFetchWord {s : State} {nbits w : Nat} {i : Instr} (h : decodeTableWord nbits w = some i) :
    step (s.withFetchWord nbits w) = exec i s := by
  simp only [State.withFetchWord, h, step]

theorem withFetchWord_of_none {nbits w : Nat} (h : decodeTableWord nbits w = none) (s : State) :
    s.withFetchWord nbits w = s := by
  simp only [State.withFetchWord, h]

/-! ## The bytes of a command -/

/-- The two address bytes spell the address (R21). -/
theorem address_append (addr : Half) : addr.extractLsb' 8 8 ++ addr.extractLsb' 0 8 = addr := by
  apply BitVec.eq_of_toNat_eq
  have haddr := addr.isLt
  rw [BitVec.toNat_append, ← Nat.shiftLeft_add_eq_or_of_lt (BitVec.isLt _)]
  simp only [BitVec.extractLsb'_toNat, Nat.shiftRight_eq_div_pow, Nat.shiftLeft_eq]
  omega

theorem decodeRead_addressBytes (addr : Half) (turnaround : Byte) (clocked : List Byte) :
    decodeRead (addressBytes addr ++ turnaround :: clocked) = some (.memoryRead (some addr) clocked.length) := by
  simp only [addressBytes, List.cons_append, List.nil_append, decodeRead, address_append]

theorem decodeWrite_addressBytes (completed : List Nat) (addr : Half) (data : List Byte) :
    decodeWrite completed (addressBytes addr ++ data) = some (.memoryWrite addr data completed) := by
  simp only [addressBytes, List.cons_append, List.nil_append, decodeWrite, address_append]

/-- The bytes that a host sends for a command spell it again (R21 to R24, R43). -/
theorem decode_encode {i : Instr} {bytes : List Byte} {completed : List Nat} (hformed : i.wellFormed = true)
    (hbytes : encodeTransaction i = some bytes)
    (hcompleted : ∀ addr data c, i = .memoryWrite addr data c → c = completed) :
    decodeTransaction completed bytes = some i := by
  unfold encodeTransaction at hbytes
  split at hbytes <;> simp only [Option.some.injEq, reduceCtorEq] at hbytes <;> subst hbytes
  case h_1 addr count =>
    exact (decodeRead_addressBytes addr 0 _).trans (by rw [List.length_replicate])
  case h_2 addr data c =>
    rw [hcompleted addr data c rfl]
    exact decodeWrite_addressBytes completed addr data
  case h_3 command =>
    simp only [Instr.wellFormed, unknownOk, Bool.and_eq_true, bne_iff_ne] at hformed
    obtain ⟨⟨⟨h51, h52⟩, h61⟩, h62⟩ := hformed
    simp only [decodeTransaction, if_neg h51, if_neg h52, if_neg h61, if_neg h62]
  case h_4 register count =>
    simp [decodeTransaction, decodeRegisterRead]
  case h_5 data =>
    have hlength : ¬ data.length < 2 := Nat.not_lt.mpr (of_decide_eq_true hformed)
    simp [decodeTransaction, decodeRegisterWrite, refusedOk, hlength]
  case h_6 register data =>
    have hrefused : refusedOk register data = true := hformed
    simp [decodeTransaction, decodeRegisterWrite, hrefused]

/-- A transaction that a part with an empty queue receives is executed in its next step (R21). -/
theorem step_receive {s : State} {completed : List Nat} {bytes : List Byte} {i : Instr}
    (hdecode : decodeTransaction completed bytes = some i) (hempty : s.pending = []) :
    step (s.receive completed bytes) = exec i s := by
  have hstands : { s with pending := [] } = s := by rw [← hempty]
  simp only [State.receive, hdecode, hempty, List.nil_append, step, hstands]

/-- A transaction that spells no command has no effect (R21). -/
theorem receive_of_none {completed : List Nat} {bytes : List Byte} (hdecode : decodeTransaction completed bytes = none)
    (s : State) : s.receive completed bytes = s := by
  simp only [State.receive, hdecode]

/-- Settles O11, by the round trip of the bytes and of the word that holds them. -/
theorem portCommandsRoundTrip : Obligations.PortCommandsRoundTrip := by
  refine ⟨fun bytes => ⟨decodeTableWord_foldr bytes, fun s => ⟨fun i hi => ?_, fun hnone => ?_⟩⟩, by decide,
    fun i bytes completed hformed hbytes hcompleted => ?_⟩
  · exact step_withFetchWord ((decodeTableWord_foldr bytes).trans hi)
  · exact withFetchWord_of_none ((decodeTableWord_foldr bytes).trans hnone) s
  · have hdecode := decode_encode hformed hbytes hcompleted
    refine ⟨hdecode, fun s => ⟨step_receive hdecode, receive_of_none rfl s, fun command hcommand low => ?_,
      fun command hcommand => ?_⟩⟩
    · simp only [List.mem_cons, List.not_mem_nil, or_false] at hcommand
      obtain rfl | rfl := hcommand
      · exact ⟨receive_of_none rfl s, receive_of_none rfl s⟩
      · exact ⟨receive_of_none rfl s, receive_of_none rfl s⟩
    · simp only [List.mem_cons, List.not_mem_nil, or_false] at hcommand
      obtain rfl | rfl := hcommand
      · exact receive_of_none rfl s
      · exact receive_of_none rfl s

end Sys2Proof.Machine

/-! What a MEMORY WRITE does (R23, R26 to R28): the bytes that are stored, the holders, and the refusals. -/

namespace Sys2Proof.Machine

/-! ## One holder byte (R28) -/

/-- What the monitor's move says of a holder and of the value written over it: the rows of the table. -/
def HolderMove.row (h : Holder) (value : Nat) : HolderMove → Prop
  | .post => h = .free ∧ value = 1
  | .link => h = .free ∧ value = 4
  | .release => (h = .linked ∨ h = .done) ∧ value = 0
  | .withdraw => h = .posted ∧ value = 0
  | .keep => value = h.code
  | .refuse => holderRefused h value = true

theorem Holder.ofCode_eq_some {value : Nat} {h : Holder} : Holder.ofCode value = some h ↔ value = h.code := by
  constructor
  · unfold Holder.ofCode
    split <;> rintro ⟨rfl⟩ <;> rfl
  · rintro rfl
    cases h <;> rfl

theorem holderMove_row (h : Holder) (value : Nat) : (holderMove h value).row h value := by
  cases hvalue : Holder.ofCode value with
  | none =>
    have hcode (g : Holder) : value ≠ g.code := fun heq => by simp [Holder.ofCode_eq_some.mpr heq] at hvalue
    have hrefuse : holderMove h value = .refuse := by cases h <;> simp only [holderMove, hvalue]
    rw [hrefuse]
    have h0 := hcode .free
    have h1 := hcode .posted
    have h4 := hcode .linked
    simp only [Holder.code] at h0 h1 h4
    simp [HolderMove.row, holderRefused, hcode h, h0, h1, h4]
  | some g =>
    obtain rfl := Holder.ofCode_eq_some.mp hvalue
    cases h <;> cases g <;> simp [holderMove, Holder.ofCode, HolderMove.row, Holder.code, holderRefused]

theorem holderMove_refuse (h : Holder) (value : Nat) : (holderMove h value == .refuse) = holderRefused h value := by
  have hrow := holderMove_row h value
  cases hmove : holderMove h value <;> rw [hmove] at hrow
  case post => obtain ⟨rfl, rfl⟩ := hrow; rfl
  case link => obtain ⟨rfl, rfl⟩ := hrow; rfl
  case release => obtain ⟨rfl | rfl, rfl⟩ := hrow <;> rfl
  case withdraw => obtain ⟨rfl, rfl⟩ := hrow; rfl
  case keep => simp [holderRefused, show value = h.code from hrow]
  case refuse => exact (show holderRefused h value = true from hrow).symm

/-- A value that is refused leaves the holder as it is. -/
theorem holderAfter_of_refused {h : Holder} {value : Nat} (hrefused : holderRefused h value = true) :
    holderAfter h value = h := by
  unfold holderAfter
  split
  case h_6 => rfl
  all_goals simp [holderRefused] at hrefused

theorem holderAfter_code (h : Holder) : holderAfter h h.code = h := by cases h <;> rfl

theorem slotAddr_holder_inj {slot other : Nat} : slotAddr other 0 = slotAddr slot 0 ↔ other = slot := by
  simp only [slotAddr]
  omega

theorem readCell_setHolder {s : State} (hm : Memory.wf s.mem = true) (slot : Nat) (h : Holder) (a : Nat) :
    readCell (s.setHolder slot h).mem a = if a = slotAddr slot 0 then BitVec.ofNat 8 h.code else readCell s.mem a := by
  by_cases ha : a = slotAddr slot 0
  · rw [if_pos ha, ha, State.setHolder, readCell_putSlot hm, if_pos (by simp), Nat.sub_self]
    rfl
  · rw [if_neg ha, State.setHolder, readCell_putSlot hm, if_neg (by simp only [List.length_singleton]; omega)]

theorem holder_setHolder {s : State} (hm : Memory.wf s.mem = true) (slot : Nat) (h : Holder) :
    (s.setHolder slot h).holder slot = h := by
  rw [State.holder, State.slotByte, readCell_setHolder hm, if_pos rfl]
  cases h <;> rfl

theorem evaluateHolder_frame (slot value : Nat) (s : State) :
    evaluateHolder slot value s = { s with
      mem := (evaluateHolder slot value s).mem, intake := (evaluateHolder slot value s).intake } := by
  unfold evaluateHolder State.setHolder State.putSlot
  split <;> rfl

theorem evaluateHolder_wf {s : State} (hm : Memory.wf s.mem = true) (slot value : Nat) :
    Memory.wf (evaluateHolder slot value s).mem = true := by
  unfold evaluateHolder
  split
  · exact setHolder_wf hm slot .posted
  · exact setHolder_wf hm slot .linked
  · exact setHolder_wf hm slot .free
  · exact setHolder_wf hm slot .free
  · exact hm
  · exact hm

/-- A holder byte writes no other byte. -/
theorem readCell_evaluateHolder {s : State} (hm : Memory.wf s.mem = true) (slot value : Nat) {a : Nat}
    (ha : a ≠ slotAddr slot 0) : readCell (evaluateHolder slot value s).mem a = readCell s.mem a := by
  have hset (h : Holder) : readCell (s.setHolder slot h).mem a = readCell s.mem a := by
    rw [readCell_setHolder hm, if_neg ha]
  unfold evaluateHolder
  split
  · exact hset .posted
  · exact hset .linked
  · exact hset .free
  · exact hset .free
  · rfl
  · rfl

theorem holder_evaluateHolder_of_ne {s : State} (hm : Memory.wf s.mem = true) {slot other : Nat} (value : Nat)
    (hne : other ≠ slot) : (evaluateHolder slot value s).holder other = s.holder other := by
  rw [State.holder, State.slotByte, readCell_evaluateHolder hm slot value (mt slotAddr_holder_inj.mp hne)]
  rfl

/-- A holder byte moves its slot by the table, and the intake list with it (R28, R31, R32). -/
theorem evaluateHolder_spec {s : State} (hm : Memory.wf s.mem = true) (slot value : Nat) :
    (evaluateHolder slot value s).holder slot = holderAfter (s.holder slot) value ∧
    (evaluateHolder slot value s).intake =
      if s.holder slot = .free ∧ value = 1 then s.intake ++ [slot]
      else if s.holder slot = .posted ∧ value = 0 then s.intake.filter (· != slot) else s.intake := by
  have hrow := holderMove_row (s.holder slot) value
  have hset (h : Holder) : (s.setHolder slot h).holder slot = h := holder_setHolder hm slot h
  unfold evaluateHolder
  cases hmove : holderMove (s.holder slot) value <;> rw [hmove] at hrow <;> dsimp only
  case post =>
    obtain ⟨hholder, rfl⟩ := hrow
    exact ⟨by rw [hholder]; exact hset .posted, by simp [hholder]⟩
  case link =>
    obtain ⟨hholder, rfl⟩ := hrow
    exact ⟨by rw [hholder]; exact hset .linked, by simp [hholder, State.setHolder, State.putSlot]⟩
  case release =>
    obtain ⟨hholder, rfl⟩ := hrow
    rw [hset]
    obtain hholder | hholder := hholder <;> simp [hholder, holderAfter, State.setHolder, State.putSlot]
  case withdraw =>
    obtain ⟨hholder, rfl⟩ := hrow
    exact ⟨by rw [hholder]; exact hset .free, by simp [hholder]⟩
  case keep =>
    obtain rfl : value = (s.holder slot).code := hrow
    refine ⟨(holderAfter_code _).symm, ?_⟩
    rw [if_neg, if_neg]
    · rintro ⟨hholder, hcode⟩
      simp [hholder, Holder.code] at hcode
    · rintro ⟨hholder, hcode⟩
      simp [hholder, Holder.code] at hcode
  case refuse =>
    have hrefused : holderRefused (s.holder slot) value = true := hrow
    refine ⟨(holderAfter_of_refused hrefused).symm, ?_⟩
    rw [if_neg, if_neg]
    · rintro ⟨hholder, rfl⟩
      simp [hholder, holderRefused] at hrefused
    · rintro ⟨hholder, rfl⟩
      simp [hholder, holderRefused] at hrefused

/-! ## The holder bytes of a transaction (R23) -/

theorem evaluateHolders_frame (l : List (Nat × Nat)) (s : State) (refused : Bool) :
    (evaluateHolders l (s, refused)).1 = { s with
      mem := (evaluateHolders l (s, refused)).1.mem, intake := (evaluateHolders l (s, refused)).1.intake } := by
  induction l generalizing s refused with
  | nil => rfl
  | cons b rest ih =>
    obtain ⟨slot, value⟩ := b
    rw [evaluateHolders, ih]
    rw [evaluateHolder_frame slot value s]

theorem readCell_evaluateHolders {l : List (Nat × Nat)} {s : State} (hm : Memory.wf s.mem = true) (refused : Bool) {a : Nat}
    (ha : ∀ b ∈ l, a ≠ slotAddr b.1 0) : readCell (evaluateHolders l (s, refused)).1.mem a = readCell s.mem a := by
  induction l generalizing s refused with
  | nil => rfl
  | cons b rest ih =>
    obtain ⟨slot, value⟩ := b
    rw [evaluateHolders, ih (evaluateHolder_wf hm slot value) _ (fun b hb => ha b (List.mem_cons_of_mem _ hb)),
      readCell_evaluateHolder hm slot value (ha _ List.mem_cons_self)]

/-- Holder bytes for different slots are judged each on the holder that stood before the transaction. -/
theorem evaluateHolders_refused {l : List (Nat × Nat)} {s : State} (hm : Memory.wf s.mem = true) (refused : Bool)
    (hslots : l.Pairwise fun b c => c.1 ≠ b.1) :
    (evaluateHolders l (s, refused)).2 = (refused || l.any fun b => holderRefused (s.holder b.1) b.2) := by
  induction l generalizing s refused with
  | nil => simp [evaluateHolders]
  | cons b rest ih =>
    obtain ⟨slot, value⟩ := b
    obtain ⟨hfirst, hrest⟩ := List.pairwise_cons.mp hslots
    have hsame : (rest.any fun b => holderRefused ((evaluateHolder slot value s).holder b.1) b.2) =
        rest.any fun b => holderRefused (s.holder b.1) b.2 := by
      rw [Bool.eq_iff_iff]
      simp only [List.any_eq_true]
      refine exists_congr fun b => and_congr_right fun hb => ?_
      rw [holder_evaluateHolder_of_ne hm value (hfirst b hb)]
    rw [evaluateHolders, ih (evaluateHolder_wf hm slot value) _ hrest, hsame, holderMove_refuse, List.any_cons,
      Bool.or_assoc]

/-! ## The bytes of a transaction and their addresses -/

/-- The place of a byte of a transaction that begins at `addr` (R22, R23). -/
def place (addr : Half) (i : Nat) : Nat := (addr.toNat + i) % 65536

theorem placed_getElem? (addr : Half) (data : List Byte) (i : Nat) :
    (placed addr data)[i]? = data[i]?.map fun v => (place addr i, v) := by
  cases hv : data[i]? with
  | none => simpa [placed, addresses] using hv
  | some v =>
    obtain ⟨hi, hget⟩ := List.getElem?_eq_some_iff.mp hv
    simp [placed, addresses, hi, hget, place]

theorem placed_getElem?_eq_some {addr : Half} {data : List Byte} {i : Nat} {b : Nat × Byte} :
    (placed addr data)[i]? = some b ↔ data[i]? = some b.2 ∧ place addr i = b.1 := by
  obtain ⟨a, v⟩ := b
  simp [placed_getElem?, and_comm, eq_comm]

theorem mem_placed {addr : Half} {data : List Byte} {b : Nat × Byte} :
    b ∈ placed addr data ↔ ∃ i, data[i]? = some b.2 ∧ place addr i = b.1 := by
  simp only [List.mem_iff_getElem?, placed_getElem?_eq_some]

/-- The last element of a list that meets a condition. -/
theorem find?_reverse_eq_some {α : Type} {p : α → Bool} {l : List α} {b : α} :
    l.reverse.find? p = some b ↔
      p b = true ∧ ∃ i : Nat, l[i]? = some b ∧ ∀ (j : Nat) (c : α), i < j → l[j]? = some c → p c = false := by
  rw [List.find?_eq_some_iff_append]
  refine and_congr_right fun _ => ⟨fun ⟨later, earlier, hl, hlater⟩ => ?_, fun ⟨i, hi, hlast⟩ => ?_⟩
  · have hsplit : l = earlier.reverse ++ b :: later.reverse := by simpa using congrArg List.reverse hl
    refine ⟨earlier.length, by simp [hsplit], fun j c hj hc => ?_⟩
    obtain ⟨k, rfl⟩ := Nat.exists_eq_add_of_lt hj
    have hmem : c ∈ later.reverse := by
      refine List.mem_iff_getElem?.mpr ⟨k, ?_⟩
      rw [hsplit, List.getElem?_append_right (by simp; omega)] at hc
      simpa [Nat.add_assoc] using hc
    simpa using hlater c (List.mem_reverse.mp hmem)
  · obtain ⟨hlt, rfl⟩ := List.getElem?_eq_some_iff.mp hi
    refine ⟨(l.drop (i + 1)).reverse, (l.take i).reverse, ?_, fun c hc => ?_⟩
    · rw [← List.reverse_inj, List.reverse_reverse]
      simp
    · obtain ⟨k, hk⟩ := List.mem_iff_getElem?.mp (List.mem_reverse.mp hc)
      rw [List.getElem?_drop] at hk
      simpa using hlast (i + 1 + k) c (by omega) hk

/-- The last byte of a transaction for an address, which is the one that stands (R23). -/
def lastByte (addr : Half) (data : List Byte) (a : Nat) : Option Byte :=
  ((placed addr data).reverse.find? fun b => b.1 == a).map Prod.snd

theorem lastByte_eq_some {addr : Half} {data : List Byte} {a : Nat} {v : Byte} :
    lastByte addr data a = some v ↔ ∃ i, data[i]? = some v ∧ place addr i = a ∧
      ∀ j, i < j → j < data.length → place addr j ≠ a := by
  rw [lastByte, Option.map_eq_some_iff]
  constructor
  · rintro ⟨⟨_, _⟩, hfind, rfl⟩
    obtain ⟨ha, i, hi, hlast⟩ := find?_reverse_eq_some.mp hfind
    obtain ⟨hv, hplace⟩ := placed_getElem?_eq_some.mp hi
    have ha := beq_iff_eq.mp ha
    refine ⟨i, hv, hplace.trans ha, fun j hij hj hagain => ?_⟩
    have hat := (placed_getElem?_eq_some (addr := addr) (b := (a, data[j]))).mpr ⟨List.getElem?_eq_getElem hj, hagain⟩
    simpa using hlast j _ hij hat
  · rintro ⟨i, hv, hplace, hlast⟩
    refine ⟨(a, v), find?_reverse_eq_some.mpr ⟨by simp, i, placed_getElem?_eq_some.mpr ⟨hv, hplace⟩, fun j c hij hj => ?_⟩,
      rfl⟩
    obtain ⟨hc, hat⟩ := placed_getElem?_eq_some.mp hj
    obtain ⟨hlt, _⟩ := List.getElem?_eq_some_iff.mp hc
    simpa [← hat] using hlast j hij hlt

theorem lastByte_eq_none {addr : Half} {data : List Byte} {a : Nat} :
    lastByte addr data a = none ↔ ∀ i < data.length, place addr i ≠ a := by
  simp only [lastByte, Option.map_eq_none_iff, List.find?_eq_none, List.mem_reverse, beq_iff_eq]
  refine ⟨fun h i hi hplace => ?_, fun h b hb hat => ?_⟩
  · exact h (a, data[i]) (mem_placed.mpr ⟨i, List.getElem?_eq_getElem hi, hplace⟩) rfl
  · obtain ⟨i, hi, hplace⟩ := mem_placed.mp hb
    exact h i (List.getElem?_eq_some_iff.mp hi).1 (hplace.trans hat)

/-! ## The bytes that are stored (R23, R27) -/

/-- The byte at an address is one that a MEMORY WRITE stores. -/
def storable (completed : List Nat) (a : Nat) (s : State) : Bool := !isHolderAddr a && stores completed a s

theorem readCell_accepted {s : State} (hm : Memory.wf s.mem = true) (addr : Half) (data : List Byte) (completed : List Nat)
    (a : Nat) : readCell (storeBytes (acceptedBytes completed (placed addr data) s) s.mem) a =
      if storable completed a s then (lastByte addr data a).getD (readCell s.mem a) else readCell s.mem a := by
  have hfind : (acceptedBytes completed (placed addr data) s).reverse.find? (fun b => b.1 == a) =
      if storable completed a s then (placed addr data).reverse.find? (fun b => b.1 == a) else none := by
    have hplace (b : Nat × Byte) : (!isHolderAddr b.1 && stores completed b.1 s) = storable completed b.1 s := rfl
    rw [acceptedBytes, ← List.filter_reverse, List.find?_filter]
    simp only [hplace]
    by_cases ha : storable completed a s = true
    · rw [if_pos ha]
      congr 1
      funext b
      by_cases hb : b.1 = a <;> simp [hb, ha]
    · rw [if_neg ha, List.find?_eq_none]
      intro b _
      by_cases hb : b.1 = a <;> simp [hb, ha]
  rw [readCell_storeBytes _ _ hm, hfind, lastByte]
  split <;> rfl

/-! ## The holder bytes -/

theorem mem_holderBytes {addr : Half} {data : List Byte} {slot value : Nat} :
    (slot, value) ∈ holderBytes (placed addr data) ↔
      slot < 128 ∧ ∃ v, lastByte addr data (slotAddr slot 0) = some v ∧ v.toNat = value := by
  simp only [holderBytes, List.mem_filterMap, List.mem_range, lastByte, Option.map_eq_some_iff, Prod.mk.injEq]
  constructor
  · rintro ⟨_, hslot, b, hfind, rfl, rfl⟩
    exact ⟨hslot, b.2, ⟨b, hfind, rfl⟩, rfl⟩
  · rintro ⟨hslot, v, ⟨b, hfind, rfl⟩, rfl⟩
    exact ⟨slot, hslot, b, hfind, rfl, rfl⟩

theorem holderBytes_pairwise (bytes : List (Nat × Byte)) : (holderBytes bytes).Pairwise fun b c => c.1 ≠ b.1 := by
  refine List.pairwise_filterMap.mpr (List.nodup_range.imp fun hne b hb c hc => ?_)
  obtain ⟨_, _, rfl⟩ := Option.map_eq_some_iff.mp hb
  obtain ⟨_, _, rfl⟩ := Option.map_eq_some_iff.mp hc
  exact hne.symm

/-! ## The whole transaction (R23, R26) -/

section
variable (addr : Half) (data : List Byte) (completed : List Nat) (s : State)

/-- The bodies are stored. -/
def bodiesStored : State := { s with mem := storeBytes (acceptedBytes completed (placed addr data) s) s.mem }

/-- The bodies are stored and the holders moved. -/
def holdersMoved : State :=
  (evaluateHolders (holderBytes (placed addr data))
    (bodiesStored addr data completed s, someDiscarded completed (placed addr data) s)).1

/-- Something of the transaction is refused. -/
def writeRefused : Bool :=
  someDiscarded completed (placed addr data) s ||
    (holderBytes (placed addr data)).any fun b => holderRefused (s.holder b.1) b.2

/-- The bodies, the holders and supervision have been judged. -/
def writeJudged : State :=
  if (placed addr data).any (fun b => b.1 == 0x0040 || b.1 == 0x0041) then judgeKeepalive (holdersMoved addr data completed s)
  else holdersMoved addr data completed s

variable {addr data completed s}

theorem bodiesStored_wf (hm : Memory.wf s.mem = true) : Memory.wf (bodiesStored addr data completed s).mem = true :=
  storeBytes_wf _ hm

theorem holder_bodiesStored (hm : Memory.wf s.mem = true) {slot : Nat} (hslot : slot < 128) :
    (bodiesStored addr data completed s).holder slot = s.holder slot := by
  rw [State.holder, State.slotByte, bodiesStored, readCell_accepted hm, storable, isHolderAddr_slotAddr hslot]
  rfl

theorem slot_of_mem_holderBytes {b : Nat × Nat} (hb : b ∈ holderBytes (placed addr data)) : b.1 < 128 := by
  obtain ⟨slot, value⟩ := b
  exact (mem_holderBytes.mp hb).1

theorem applyWrite_eq (hm : Memory.wf s.mem = true) : applyWrite addr data completed s =
    if writeRefused addr data completed s then countRefused (writeJudged addr data completed s)
    else writeJudged addr data completed s := by
  have hholders : ((holderBytes (placed addr data)).any fun b =>
      holderRefused ((bodiesStored addr data completed s).holder b.1) b.2) =
      (holderBytes (placed addr data)).any fun b => holderRefused (s.holder b.1) b.2 := by
    rw [Bool.eq_iff_iff]
    simp only [List.any_eq_true]
    refine exists_congr fun b => and_congr_right fun hb => ?_
    rw [holder_bodiesStored hm (slot_of_mem_holderBytes hb)]
  have hrefused := evaluateHolders_refused (bodiesStored_wf (addr := addr) (data := data) (completed := completed) hm)
    (someDiscarded completed (placed addr data) s) (holderBytes_pairwise (placed addr data))
  rw [hholders] at hrefused
  unfold writeRefused
  rw [← hrefused]
  rfl

theorem judgeKeepalive_frame (t : State) : judgeKeepalive t = { t with sup := (judgeKeepalive t).sup } := by
  unfold judgeKeepalive
  split <;> rfl

theorem holdersMoved_frame : holdersMoved addr data completed s = { s with
    mem := (holdersMoved addr data completed s).mem, intake := (holdersMoved addr data completed s).intake } :=
  evaluateHolders_frame (holderBytes (placed addr data)) (bodiesStored addr data completed s)
    (someDiscarded completed (placed addr data) s)

theorem writeJudged_frame : writeJudged addr data completed s = { s with
    mem := (holdersMoved addr data completed s).mem, intake := (holdersMoved addr data completed s).intake,
    sup := (writeJudged addr data completed s).sup } := by
  have hjudged {t : State} {m : List Host.Cell} {l : List Nat} (ht : t = { s with mem := m, intake := l }) :
      judgeKeepalive t = { s with mem := m, intake := l, sup := (judgeKeepalive t).sup } := by
    subst ht
    exact judgeKeepalive_frame _
  have hkept {t : State} {m : List Host.Cell} {l : List Nat} (ht : t = { s with mem := m, intake := l }) :
      t = { s with mem := m, intake := l, sup := t.sup } := by
    subst ht
    rfl
  unfold writeJudged
  split
  · exact hjudged holdersMoved_frame
  · exact hkept holdersMoved_frame

/-- What a refusal does: it is counted and raises PORT (R26). -/
theorem countRefused_ready {t : State} (h : t.ready = true) : countRefused t = { t with
    refused := min 255 (t.refused + 1), noticePending := t.noticePending ||| NoticeClass.port.bit } := by
  simp [countRefused, raise, h]

theorem applyWrite_spec (hm : Memory.wf s.mem = true) (hready : s.ready = true) : applyWrite addr data completed s = { s with
    mem := (holdersMoved addr data completed s).mem, intake := (holdersMoved addr data completed s).intake,
    sup := (writeJudged addr data completed s).sup,
    refused := if writeRefused addr data completed s then min 255 (s.refused + 1) else s.refused,
    noticePending := if writeRefused addr data completed s then s.noticePending ||| NoticeClass.port.bit
      else s.noticePending } := by
  rw [applyWrite_eq hm]
  split
  · rw [writeJudged_frame, countRefused_ready (by exact hready)]
  · rw [writeJudged_frame]

theorem execMemoryWrite_ready (hm : Memory.wf s.mem = true) (hready : s.ready = true) :
    exec (.memoryWrite addr data completed) s = .next { s with
      mem := (holdersMoved addr data completed s).mem, intake := (holdersMoved addr data completed s).intake,
      sup := (writeJudged addr data completed s).sup,
      refused := if writeRefused addr data completed s then min 255 (s.refused + 1) else s.refused,
      noticePending := if writeRefused addr data completed s then s.noticePending ||| NoticeClass.port.bit
        else s.noticePending,
      dataOut := [0, 0, 0], reading := none } := by
  change execMemoryWrite addr data completed s = _
  rw [execMemoryWrite, if_pos hready, applyWrite_spec hm hready]
  rfl

/-- A byte that is no holder byte reads as the last byte written to it, where it is stored (R23). -/
theorem readCell_holdersMoved (hm : Memory.wf s.mem = true) {a : Nat} (ha : isHolderAddr a = false) :
    readCell (holdersMoved addr data completed s).mem a =
      if stores completed a s then (lastByte addr data a).getD (readCell s.mem a) else readCell s.mem a := by
  rw [holdersMoved, readCell_evaluateHolders (bodiesStored_wf hm) _ fun b hb => ?_, bodiesStored, readCell_accepted hm,
    storable, ha, Bool.not_false, Bool.true_and]
  rintro rfl
  simp [isHolderAddr_slotAddr (slot_of_mem_holderBytes hb)] at ha

end

/-- Settles O5: the bodies are stored first, and neither the holders nor supervision write them. -/
theorem memoryWriteStoresTheBytes : Obligations.MemoryWriteStoresTheBytes := by
  intro addr data completed s hm hready
  refine ⟨_, execMemoryWrite_ready hm hready, rfl, fun i v hv hlast hholder => ?_, fun a hholder hout => ?_⟩
  · have hbyte : lastByte addr data ((addr.toNat + i) % 65536) = some v := lastByte_eq_some.mpr ⟨i, hv, rfl, hlast⟩
    refine (readCell_holdersMoved hm hholder).trans ?_
    rw [hbyte, Option.getD_some]
  · have hbyte : lastByte addr data a = none := lastByte_eq_none.mpr fun i hi hplace => hout i hi hplace.symm
    refine (readCell_holdersMoved hm hholder).trans ?_
    rw [hbyte, Option.getD_none, ite_self]

theorem writeRefused_iff (addr : Half) (data : List Byte) (completed : List Nat) (s : State) :
    writeRefused addr data completed s = true ↔
      (∃ i < data.length, isHolderAddr (place addr i) = false ∧ stores completed (place addr i) s = false) ∨
      ∃ slot < 128, ∃ i v, data[i]? = some v ∧ place addr i = slotAddr slot 0 ∧
        (∀ j, i < j → j < data.length → place addr j ≠ slotAddr slot 0) ∧
        holderRefused (s.holder slot) v.toNat = true := by
  rw [writeRefused, Bool.or_eq_true]
  refine or_congr ?_ ?_
  · simp only [someDiscarded, List.any_eq_true, Bool.and_eq_true, Bool.not_eq_true']
    constructor
    · rintro ⟨b, hb, hdiscarded⟩
      obtain ⟨i, hi, hplace⟩ := mem_placed.mp hb
      exact ⟨i, (List.getElem?_eq_some_iff.mp hi).1, hplace ▸ hdiscarded⟩
    · rintro ⟨i, hi, hdiscarded⟩
      exact ⟨(place addr i, data[i]), mem_placed.mpr ⟨i, List.getElem?_eq_getElem hi, rfl⟩, hdiscarded⟩
  · rw [List.any_eq_true]
    constructor
    · rintro ⟨⟨slot, value⟩, hb, hrefused⟩
      obtain ⟨hslot, v, hlast, rfl⟩ := mem_holderBytes.mp hb
      obtain ⟨i, hv, hplace, hlast⟩ := lastByte_eq_some.mp hlast
      exact ⟨slot, hslot, i, v, hv, hplace, hlast, hrefused⟩
    · rintro ⟨slot, hslot, i, v, hv, hplace, hlast, hrefused⟩
      exact ⟨(slot, v.toNat), mem_holderBytes.mpr ⟨hslot, v, lastByte_eq_some.mpr ⟨i, hv, hplace, hlast⟩, rfl⟩, hrefused⟩

/-- Settles O7: the one flag of a transaction says whether a byte was discarded or a holder byte refused. -/
theorem aRefusalIsCountedOnce : Obligations.ARefusalIsCountedOnce := by
  refine ⟨fun addr data completed s hm hready => ?_, fun command register data s hready hunknown hrefused => ⟨?_, ?_⟩⟩
  · refine ⟨_, execMemoryWrite_ready hm hready, fun hyes => ?_, fun hno => ?_⟩
    · have hyes := (writeRefused_iff addr data completed s).mpr hyes
      exact ⟨if_pos hyes, if_pos hyes⟩
    · have hno := mt (writeRefused_iff addr data completed s).mp hno
      exact ⟨if_neg hno, if_neg hno⟩
  · have hcommand : isCommandByte command = false := by
      simpa [isCommandByte, unknownOk, and_assoc] using hunknown
    change execUnknownCommand command s = _
    rw [execUnknownCommand, if_pos ⟨hready, hcommand⟩, countRefused_ready hready]
    rfl
  · have hwrite : writeRegister register data s = countRefused s := by
      unfold writeRegister
      split
      · have hregister : register ≠ 2 := by simpa [refusedOk] using hrefused
        exact if_neg hregister
      · rfl
    change execRegisterWriteRefused register data s = _
    rw [execRegisterWriteRefused, if_pos hready, hwrite, countRefused_ready hready]
    rfl

/-! ## A holder byte alone -/

theorem placed_holder {slot : Nat} (hslot : slot < 128) (v : Byte) :
    placed (BitVec.ofNat 16 (slotAddr slot 0)) [v] = [(slotAddr slot 0, v)] := by
  have hplace : ((BitVec.ofNat 16 (slotAddr slot 0)).toNat + 0) % 65536 = slotAddr slot 0 := by
    simp only [BitVec.toNat_ofNat, slotAddr]
    omega
  simp only [placed, addresses, List.length_singleton, List.range_one, List.map_cons, List.map_nil, hplace,
    List.zip_cons_cons, List.zip_nil_right]

theorem holderBytes_holder {slot : Nat} (hslot : slot < 128) (v : Byte) :
    holderBytes (placed (BitVec.ofNat 16 (slotAddr slot 0)) [v]) = [(slot, v.toNat)] := by
  have hlast (other : Nat) : lastByte (BitVec.ofNat 16 (slotAddr slot 0)) [v] (slotAddr other 0) =
      if other = slot then some v else none := by
    by_cases hother : other = slot
    · simp [lastByte, placed_holder hslot, hother]
    · have hne : slotAddr slot 0 ≠ slotAddr other 0 := fun heq => hother (slotAddr_holder_inj.mp heq.symm)
      simp [lastByte, placed_holder hslot, hother, hne]
  have hnodup : (holderBytes (placed (BitVec.ofNat 16 (slotAddr slot 0)) [v])).Nodup :=
    (holderBytes_pairwise _).imp fun hne heq => hne (congrArg Prod.fst heq).symm
  refine List.perm_singleton.mp ((List.perm_ext_iff_of_nodup hnodup (List.nodup_singleton _)).mpr fun ⟨other, value⟩ => ?_)
  rw [mem_holderBytes, hlast, List.mem_singleton, Prod.mk.injEq]
  constructor
  · rintro ⟨_, w, hw, rfl⟩
    obtain ⟨rfl, rfl⟩ : other = slot ∧ v = w := by simpa using hw
    exact ⟨rfl, rfl⟩
  · rintro ⟨rfl, rfl⟩
    exact ⟨hslot, v, if_pos rfl, rfl⟩

section
variable {slot : Nat} (hslot : slot < 128) (v : Byte) (completed : List Nat) (s : State)
include hslot

theorem someDiscarded_holder :
    someDiscarded completed (placed (BitVec.ofNat 16 (slotAddr slot 0)) [v]) s = false := by
  simp [placed_holder hslot, someDiscarded, isHolderAddr_slotAddr hslot]

theorem holdersMoved_holder :
    holdersMoved (BitVec.ofNat 16 (slotAddr slot 0)) [v] completed s = evaluateHolder slot v.toNat s := by
  have haccepted : acceptedBytes completed (placed (BitVec.ofNat 16 (slotAddr slot 0)) [v]) s = [] := by
    simp [placed_holder hslot, acceptedBytes, isHolderAddr_slotAddr hslot]
  rw [holdersMoved, holderBytes_holder hslot, bodiesStored, haccepted]
  rfl

theorem writeRefused_holder : writeRefused (BitVec.ofNat 16 (slotAddr slot 0)) [v] completed s =
    holderRefused (s.holder slot) v.toNat := by
  simp [writeRefused, someDiscarded_holder hslot, holderBytes_holder hslot]

/-- A holder byte is no byte of the keepalive word (R19). -/
theorem writeJudged_holder :
    writeJudged (BitVec.ofNat 16 (slotAddr slot 0)) [v] completed s = evaluateHolder slot v.toNat s := by
  have hplace : slotAddr slot 0 ≠ 0x0040 ∧ slotAddr slot 0 ≠ 0x0041 := by simp only [slotAddr]; omega
  rw [writeJudged, holdersMoved_holder hslot, if_neg]
  simp [placed_holder hslot, hplace]

end

/-- Settles O6: a holder byte alone is evaluated on the state as it stands. -/
theorem aHolderByteMovesTheHolder : Obligations.AHolderByteMovesTheHolder := by
  intro slot v completed s hslot hm hready
  have hvalue (n : Nat) (hn : n < 256) : v = BitVec.ofNat 8 n ↔ v.toNat = n := by
    rw [← BitVec.toNat_inj, BitVec.toNat_ofNat, Nat.mod_eq_of_lt hn]
  obtain ⟨hholder, hintake⟩ := evaluateHolder_spec hm slot v.toNat
  have hsup : (evaluateHolder slot v.toNat s).sup = s.sup := by rw [evaluateHolder_frame]
  have hexec := execMemoryWrite_ready (addr := BitVec.ofNat 16 (slotAddr slot 0)) (data := [v]) (completed := completed)
    hm hready
  simp only [holdersMoved_holder hslot, writeJudged_holder hslot, writeRefused_holder hslot, hintake, hsup,
    ← hvalue 1 (by decide), ← hvalue 0 (by decide)] at hexec
  exact ⟨_, hexec, rfl, hholder, fun a ha => readCell_evaluateHolder hm slot v.toNat ha⟩

end Sys2Proof.Machine

/-! The identity block, the status page and the settings mirror as the host reads them (R20, R39, R40, 2.7.6, 2.7.7). -/

namespace Sys2Proof.Machine

/-! ## Fields in ascending order -/

/-- The fields stand between two addresses, each behind the one before it. -/
def inOrder (lo hi : Nat) : List Field → Bool
  | [] => decide (lo ≤ hi)
  | f :: rest => decide (lo ≤ f.at_) && inOrder (f.at_ + f.size) hi rest

theorem inOrder_cons {lo hi : Nat} {f : Field} {rest : List Field} :
    inOrder lo hi (f :: rest) = true ↔ lo ≤ f.at_ ∧ inOrder (f.at_ + f.size) hi rest = true := by
  simp [inOrder]

theorem inOrder_bounds {fields : List Field} {lo hi : Nat} (h : inOrder lo hi fields = true) :
    lo ≤ hi ∧ ∀ f ∈ fields, lo ≤ f.at_ ∧ f.at_ + f.size ≤ hi := by
  induction fields generalizing lo with
  | nil => exact ⟨of_decide_eq_true h, by simp⟩
  | cons g rest ih =>
    obtain ⟨hlow, hrest⟩ := inOrder_cons.mp h
    obtain ⟨hend, hbounds⟩ := ih hrest
    refine ⟨by omega, fun f hf => ?_⟩
    obtain rfl | hf := List.mem_cons.mp hf
    · exact ⟨hlow, hend⟩
    · have := hbounds f hf
      omega

/-- Fields in order do not overlap: each address of a field shows a byte of that field. -/
theorem fieldByte_inOrder {fields : List Field} {lo hi : Nat} (h : inOrder lo hi fields = true) {f : Field}
    (hf : f ∈ fields) {k : Nat} (hk : k < f.size) : fieldByte fields (f.at_ + k) = byteAt f.value k := by
  induction fields generalizing lo with
  | nil => cases hf
  | cons g rest ih =>
    obtain ⟨_, hrest⟩ := inOrder_cons.mp h
    rw [fieldByte]
    obtain rfl | hf := List.mem_cons.mp hf
    · rw [if_pos (by omega), Nat.add_sub_cancel_left]
    · have := ((inOrder_bounds hrest).2 f hf).1
      rw [if_neg (by omega), ih hrest hf]

/-- A range in which the host reads fields in order. -/
structure State.readsAs (s : State) (lo hi : Nat) (fields : List Field) : Prop where
  order : inOrder lo hi fields = true
  read : ∀ a, lo ≤ a → a < hi → s.readByte a = fieldByte fields a

section
variable {s : State} {lo hi : Nat} {fields : List Field}

theorem State.readsAs.byte (h : s.readsAs lo hi fields) {f : Field} (hf : f ∈ fields) {k : Nat} (hk : k < f.size) :
    s.readByte (f.at_ + k) = BitVec.ofNat 8 (f.value / 256 ^ k) := by
  have := (inOrder_bounds h.order).2 f hf
  rw [h.read _ (by omega) (by omega), fieldByte_inOrder h.order hf hk, byteAt]

/-- Some of the fields, as the statements write them, are shown. -/
theorem State.readsAs.shows (h : s.readsAs lo hi fields) {l : List Field} (hl : ∀ f ∈ l, f ∈ fields) :
    s.shows (l.map Field.entry) := by
  rintro e he k hk
  obtain ⟨f, hf, rfl⟩ := List.mem_map.mp he
  exact h.byte (hl f hf) hk

/-- The bytes of a field that holds a list of bytes, as fields of their own. -/
theorem State.readsAs.showsBytes (h : s.readsAs lo hi fields) {f : Field} (hf : f ∈ fields) {n : Nat} (hn : f.size = n)
    {value : Nat → Nat} (hvalue : ∀ k < n, BitVec.ofNat 8 (f.value / 256 ^ k) = BitVec.ofNat 8 (value k)) :
    s.shows ((List.range n).map fun k => (f.at_ + k, 1, value k)) := by
  rintro e he k hk
  obtain ⟨i, hi, rfl⟩ := List.mem_map.mp he
  obtain rfl : k = 0 := Nat.lt_one_iff.mp hk
  have hi := List.mem_range.mp hi
  rw [pow_zero, Nat.div_one, ← hvalue i hi]
  exact h.byte hf (hn ▸ hi)

/-- Where every field is shown, the range is blank but for them. -/
theorem State.readsAs.blank (h : s.readsAs lo hi fields) {entries : List (Nat × Nat × Nat)}
    (hcover : ∀ f ∈ fields, ∀ a, f.at_ ≤ a → a < f.at_ + f.size → ∃ e ∈ entries, e.1 ≤ a ∧ a < e.1 + e.2.1) :
    s.blankBut lo hi entries := by
  intro a hlow hhigh hout
  rw [h.read a hlow hhigh]
  refine fieldByte_uncovered fun f hf hfield => ?_
  obtain ⟨e, he, hcovered⟩ := hcover f hf a hfield.1 hfield.2
  exact hout e he hcovered

/-- Nothing but the fields themselves is shown. -/
theorem State.readsAs.blankFields (h : s.readsAs lo hi fields) : s.blankBut lo hi (fields.map Field.entry) :=
  h.blank fun f hf _ hlow hhigh => ⟨f.entry, List.mem_map_of_mem hf, hlow, hhigh⟩

end

/-! ## The three pages -/

theorem toList_vector4 {α : Type} (v : Vector α 4) : v.toList = [v[0], v[1], v[2], v[3]] := by
  refine List.ext_getElem (by simp) fun i hi _ => ?_
  have hi : i < 4 := by simpa using hi
  interval_cases i <;> simp

/-- The three bytes of the entry `i` of the payout queue (2.7.6). -/
def payEntryLayout (s : State) (i : Nat) : List (Nat × Nat) :=
  [(1, (s.payQueue[i]?.map fun e => e.origin.code).getD 0), (1, (s.payQueue[i]?.map fun e => e.form.code).getD 0),
    (1, (s.payQueue[i]?.map fun e => slotField e.slot).getD 255)]

theorem statusQueues_eq (s : State) : statusQueues s =
    [⟨0x009A, 1, s.intake.length⟩] ++
    layOut 0x00A0 ((List.range 16).map fun i => (1, slotField (s.vendQueue[i]?.map QueueEntry.slot))) ++
    layOut 0x00B0 ((List.range 4).flatMap (payEntryLayout s)) := by
  unfold statusQueues
  congr 3
  funext i
  unfold payEntryLayout
  cases s.payQueue[i]? <;> rfl

theorem inOrder_mirror (s : State) : inOrder 0x0200 0x0400 (mirrorFields s) = true := by
  rw [mirrorFields, toList_vector4]
  rfl

theorem inOrder_status (s : State) : inOrder 0x0050 0x0200 (statusFields s) = true := by
  rw [statusFields, statusQueues_eq]
  rfl

section
variable {s : State} (hready : s.ready = true)
include hready

theorem reads_identity : s.readsAs 0x0000 0x0040 identityFields where
  order := rfl
  read a _ hhigh := by
    have harea : areaOf a = .identity := if_pos hhigh
    simp [State.readByte, hready, harea]

theorem reads_mirror : s.readsAs 0x0200 0x0400 (mirrorFields s) where
  order := inOrder_mirror s
  read a hlow hhigh := by
    have harea : areaOf a = .settingsMirror := by simp (disch := omega) only [areaOf, if_neg, if_pos]
    simp [State.readByte, hready, harea]

theorem reads_status : s.readsAs 0x0050 0x0200 (statusFields s) where
  order := inOrder_status s
  read a hlow hhigh := by
    have harea : areaOf a = .statusPage := by simp (disch := omega) only [areaOf, if_neg, if_pos]
    simp [State.readByte, hready, harea]

end

/-! ## The codes of the tables -/

theorem changeMode_code (m : ChangeMode) : m.code = if m = .hold then 1 else 0 := by cases m <;> rfl

theorem overpay_code (m : OverpayRule) : m.code = if m = .accept then 1 else 0 := by cases m <;> rfl

theorem fanMode_code (m : FanMode) : m.code = if m = .withCompressor then 1 else 0 := by cases m <;> rfl

theorem defrostType_code (m : DefrostType) : m.code = if m = .offCycle then 1 else 0 := by cases m <;> rfl

theorem door_flag (d : DoorState) : flag (d == .opened) = if d = .opened then 1 else 0 := by cases d <;> rfl

theorem reading_isSome (c : TempChannel) : c.reading.isSome = decide (c.state = .valid) := by
  unfold TempChannel.reading
  split <;> simp [*]

theorem stage_code (f : Option Flight) : (f.map fun f => f.stage.code).getD 0 =
    match f.map Flight.stage with
    | none => 0
    | some .claiming => 1
    | some .leavingHome => 2
    | some .turning => 3
    | some .dropWait => 4 := by
  cases f with
  | none => rfl
  | some f =>
    rw [Option.map_some, Option.map_some, Option.getD_some]
    cases f.stage <;> rfl

theorem payoutSlot_code (p : Option Payout) : slotField (p.bind fun p => p.entry.slot) =
    (p.map fun p => (p.entry.card.map AttachedCard.slot).getD 255).getD 255 := by cases p <;> rfl

/-- The bytes of a list, as a field shows them. -/
theorem ofLe_byte (l : List Byte) (k : Nat) : BitVec.ofNat 8 (ofLe l / 256 ^ k) = l.getD k 0 := by
  induction l generalizing k with
  | nil => simp [ofLe]
  | cons b rest ih =>
    have hbyte := b.isLt
    cases k with
    | zero =>
      apply BitVec.eq_of_toNat_eq
      simp only [ofLe, pow_zero, Nat.div_one, BitVec.toNat_ofNat, List.getD_cons_zero]
      omega
    | succ k =>
      have hrest : (b.toNat + 256 * ofLe rest) / 256 = ofLe rest := by omega
      rw [ofLe, Nat.pow_succ', ← Nat.div_div_eq_div_mul, hrest, ih, List.getD_cons_succ]

/-! ## The status page -/

/-- The status page but for the tube counts, the claimant list and the two queues. -/
def statusPlain (s : State) : List Field :=
  statusHead s ++ (statusMoney s).tail ++ (statusLoad s).dropLast ++ statusCold s ++ [⟨0x009A, 1, s.intake.length⟩]

def tubeCounts (s : State) : Field := ⟨0x0060, 4, ofLe (s.tubes.toList.map fun t => BitVec.ofNat 8 t.count)⟩

def claimants (s : State) : Field := ⟨0x0073, 4, ofLe (s.waiting.map fun w => BitVec.ofNat 8 w.claimant.code)⟩

def vendQueueFields (s : State) : List Field :=
  layOut 0x00A0 ((List.range 16).map fun i => (1, slotField (s.vendQueue[i]?.map QueueEntry.slot)))

def payQueueFields (s : State) : List Field := layOut 0x00B0 ((List.range 4).flatMap (payEntryLayout s))

theorem mem_statusFields {s : State} {f : Field} : f ∈ statusFields s ↔
    f ∈ statusPlain s ∨ f = tubeCounts s ∨ f = claimants s ∨ f ∈ vendQueueFields s ∨ f ∈ payQueueFields s := by
  have hmoney : statusMoney s = tubeCounts s :: (statusMoney s).tail := rfl
  have hload : statusLoad s = (statusLoad s).dropLast ++ [claimants s] := rfl
  have hqueues : statusQueues s = [⟨0x009A, 1, s.intake.length⟩] ++ vendQueueFields s ++ payQueueFields s := statusQueues_eq s
  rw [statusFields, hmoney, hload, hqueues, statusPlain]
  simp only [List.mem_append, List.mem_cons, List.not_mem_nil, or_false]
  tauto

theorem tubeCounts_byte (s : State) {k : Nat} (hk : k < 4) :
    BitVec.ofNat 8 ((tubeCounts s).value / 256 ^ k) = BitVec.ofNat 8 ((s.tubes.toList.map Tube.count).getD k 0) := by
  rw [tubeCounts, ofLe_byte, toList_vector4]
  interval_cases k <;> rfl

theorem claimants_byte (s : State) (k : Nat) : BitVec.ofNat 8 ((claimants s).value / 256 ^ k) =
    BitVec.ofNat 8 ((s.waiting[k]?.map fun w => w.claimant.code).getD 0) := by
  rw [claimants, ofLe_byte, List.getD_eq_getElem?_getD, List.getElem?_map]
  cases s.waiting[k]? <;> rfl

/-- The entries of the status page, in the order in which the tables of 2.7.6 are stated. -/
def statusEntries (s : State) : List (Nat × Nat × Nat) :=
  (statusPlain s).map Field.entry ++
  ((List.range 4).map fun k => (0x60 + k, 1, (s.tubes.toList.map Tube.count).getD k 0)) ++
  ((List.range 4).map fun k => (0x73 + k, 1, (s.waiting[k]?.map fun w => w.claimant.code).getD 0)) ++
  (vendQueueFields s).map Field.entry ++ (payQueueFields s).map Field.entry

theorem shows_statusEntries {s : State} (h : s.readsAs 0x0050 0x0200 (statusFields s)) : s.shows (statusEntries s) := by
  have hplain := h.shows (l := statusPlain s) fun f hf => mem_statusFields.mpr (by simp [hf])
  have htubes := h.showsBytes (mem_statusFields.mpr (.inr (.inl rfl))) rfl fun k hk => tubeCounts_byte s hk
  have hclaims := h.showsBytes (mem_statusFields.mpr (.inr (.inr (.inl rfl)))) rfl fun k _ => claimants_byte s k
  have hvends := h.shows (l := vendQueueFields s) fun f hf => mem_statusFields.mpr (by simp [hf])
  have hpays := h.shows (l := payQueueFields s) fun f hf => mem_statusFields.mpr (by simp [hf])
  exact (((hplain.append htubes).append hclaims).append hvends).append hpays

/-- The bytes of a field of 4 bytes, as entries of their own, cover it. -/
theorem cover_bytes {base a : Nat} (value : Nat → Nat) (hlow : base ≤ a) (hhigh : a < base + 4) :
    ∃ e ∈ (List.range 4).map fun k => (base + k, 1, value k), e.1 ≤ a ∧ a < e.1 + e.2.1 := by
  refine ⟨_, List.mem_map.mpr ⟨a - base, List.mem_range.mpr (by omega), rfl⟩, ?_⟩
  dsimp only
  omega

theorem blankBut_statusEntries {s : State} (h : s.readsAs 0x0050 0x0200 (statusFields s)) :
    s.blankBut 0x0050 0x0200 (statusEntries s) := by
  refine h.blank fun f hf a hlow hhigh => ?_
  have hshown {l : List Field} (hl : f ∈ l) (hsub : ∀ e ∈ l.map Field.entry, e ∈ statusEntries s) :
      ∃ e ∈ statusEntries s, e.1 ≤ a ∧ a < e.1 + e.2.1 :=
    ⟨f.entry, hsub _ (List.mem_map_of_mem hl), hlow, hhigh⟩
  obtain hplain | rfl | rfl | hvend | hpay := mem_statusFields.mp hf
  · exact hshown hplain fun e he => by simp [statusEntries, he]
  · obtain ⟨e, he, hcovered⟩ := cover_bytes (base := 0x60) (fun k => (s.tubes.toList.map Tube.count).getD k 0) hlow hhigh
    exact ⟨e, by simp only [statusEntries, List.mem_append, he, true_or, or_true], hcovered⟩
  · obtain ⟨e, he, hcovered⟩ := cover_bytes (base := 0x73)
      (fun k => (s.waiting[k]?.map fun w => w.claimant.code).getD 0) hlow hhigh
    exact ⟨e, by simp only [statusEntries, List.mem_append, he, true_or, or_true], hcovered⟩
  · exact hshown hvend fun e he => by simp [statusEntries, he]
  · exact hshown hpay fun e he => by simp [statusEntries, he]

/-- Settles O56: the host reads each page as fields in order, whose entries are those of the tables. -/
theorem thePagesShowTheState : Obligations.ThePagesShowTheState := by
  intro s hready temp channel origin form carried claimant identity status m v l p c signed mirror
  have hidentity : identity = identityFields.map Field.entry := rfl
  have hmirror : mirror = (mirrorFields s).map Field.entry := by
    rw [mirrorFields, toList_vector4, changeMode_code, overpay_code, fanMode_code, defrostType_code, flag_eq_toNat]
    rfl
  have hstatus : status = statusEntries s := by
    refine congrArg₂ HAppend.hAppend (congrArg₂ HAppend.hAppend (congrArg₂ HAppend.hAppend
      (congrArg₂ HAppend.hAppend ?_ ?_) rfl) rfl) rfl
    · rw [statusPlain, statusHead, statusMoney, statusCold, stage_code, door_flag, payoutSlot_code]
      simp only [flag_eq_toNat, reading_isSome, decide_eq_true_eq]
      rfl
    · rw [toList_vector4]
      rfl
  rw [hidentity, hmirror, hstatus]
  exact ⟨(reads_identity hready).shows fun _ => id, (reads_identity hready).blankFields,
    shows_statusEntries (reads_status hready), fun _ => blankBut_statusEntries (reads_status hready),
    (reads_mirror hready).shows fun _ => id, (reads_mirror hready).blankFields⟩

end Sys2Proof.Machine

/-! What a MEMORY READ sends (R19, R21, R22, R47). -/

namespace Sys2Proof.Machine

/-! ## The bytes of a read -/

theorem sendBytes_length (s : State) (n : Nat) (r : Reading) : (sendBytes s n r).1.length = n := by
  induction n generalizing r with
  | zero => rfl
  | succ n ih => rw [sendBytes, List.length_cons, ih]

theorem sendBytes_add (s : State) (n m : Nat) (r : Reading) : sendBytes s (n + m) r =
    ((sendBytes s n r).1 ++ (sendBytes s m (sendBytes s n r).2).1, (sendBytes s m (sendBytes s n r).2).2) := by
  induction n generalizing r with
  | zero => simp [sendBytes]
  | succ n ih => rw [Nat.succ_add, sendBytes, ih, sendBytes, List.cons_append]

/-! ## What has been sent is none of what a read shows -/

theorem spiralTableFields_congr {s t : State} (h : t.spirals = s.spirals) (a : Nat) :
    spiralTableFields t a = spiralTableFields s a := by
  rw [spiralTableFields, spiralTableFields, h]

theorem moneyTableFields_congr {s t : State} (hchannels : t.channels = s.channels) (htubes : t.tubes = s.tubes)
    (hinhibit : t.channelInhibit = s.channelInhibit) (a : Nat) : moneyTableFields t a = moneyTableFields s a := by
  have hchannel (base : Nat) (c : Fin 6) : channelFields base c t = channelFields base c s := by
    simp only [channelFields, hchannels, hinhibit]
  have htube (base : Nat) (i : Fin 4) : tubeFields base i t = tubeFields base i s := by simp only [tubeFields, htubes]
  rw [moneyTableFields, moneyTableFields]
  simp only [hchannel, htube]

section
variable (s : State) (out : List Byte) (reading : Option Reading)

theorem layouts_congr (a : Nat) :
    statusFields { s with dataOut := out, reading := reading } = statusFields s ∧
    mirrorFields { s with dataOut := out, reading := reading } = mirrorFields s ∧
    spiralTableFields { s with dataOut := out, reading := reading } a = spiralTableFields s a ∧
    moneyTableFields { s with dataOut := out, reading := reading } a = moneyTableFields s a ∧
    auditFields { s with dataOut := out, reading := reading } a = auditFields s a :=
  ⟨rfl, rfl, spiralTableFields_congr (s := s) (t := { s with dataOut := out, reading := reading }) rfl a,
    moneyTableFields_congr (s := s) (t := { s with dataOut := out, reading := reading }) rfl rfl rfl a, rfl⟩

theorem readByte_congr (a : Nat) : State.readByte { s with dataOut := out, reading := reading } a = s.readByte a := by
  obtain ⟨hstatus, hmirror, hspirals, hmoney, haudit⟩ := layouts_congr s out reading a
  rw [State.readByte, State.readByte, hstatus, hmirror, hspirals, hmoney, haudit]

theorem widthAt_congr (a : Nat) : State.widthAt { s with dataOut := out, reading := reading } a = s.widthAt a := by
  obtain ⟨hstatus, hmirror, hspirals, hmoney, haudit⟩ := layouts_congr s out reading a
  have hslot (slot off : Nat) :
      State.slotByte { s with dataOut := out, reading := reading } slot off = s.slotByte slot off := rfl
  rw [State.widthAt, State.widthAt, hstatus, hmirror, hspirals, hmoney, haudit, hslot]

theorem sendByte_congr (r : Reading) : sendByte { s with dataOut := out, reading := reading } r = sendByte s r := by
  have hread : State.readByte { s with dataOut := out, reading := reading } = s.readByte :=
    funext (readByte_congr s out reading)
  unfold sendByte
  simp only [readBytes, hread, widthAt_congr]

theorem sendBytes_congr (n : Nat) (r : Reading) :
    sendBytes { s with dataOut := out, reading := reading } n r = sendBytes s n r := by
  induction n generalizing r with
  | zero => rfl
  | succ n ih => rw [sendBytes, sendByte_congr, ih, sendBytes]

end

/-! ## The bytes as they stand -/

/-- After a port reset data out stays 0x00 (R47). -/
theorem sendBytes_discarded (s : State) (n : Nat) : sendBytes s n .discarded = (List.replicate n 0, .discarded) := by
  induction n with
  | zero => rfl
  | succ n ih =>
    have hbyte : sendByte s .discarded = (0, .discarded) := rfl
    rw [sendBytes, hbyte, ih, List.replicate_succ]

/-- The captured bytes are those that stand from `next` onward (R22). -/
def standing (s : State) (next : Half) (captured : List Byte) : Prop :=
  ∀ k < captured.length, captured[k]? = some (s.readByte ((next.toNat + k) % 65536))

theorem next_place (next : Half) (k : Nat) : ((next + 1).toNat + k) % 65536 = (next.toNat + (k + 1)) % 65536 := by
  have hnext : (next + 1).toNat = (next.toNat + 1) % 65536 := by rw [BitVec.toNat_add]; rfl
  rw [hnext]
  omega

theorem readBytes_standing (s : State) (next : Half) (n : Nat) : standing s next (readBytes next n s) := by
  intro k hk
  have hk : k < n := by simpa [readBytes, addresses] using hk
  simp [readBytes, addresses, hk]

theorem readByte_of_notReady {s : State} (h : s.ready = false) (a : Nat) : s.readByte a = 0 := by
  simp [State.readByte, h]

/-- The next of the captured field goes out (R22). -/
theorem sendByte_captured {s : State} (hready : s.ready = true) (next : Half) (b : Byte) (rest : List Byte) :
    sendByte s (.bytes next (b :: rest)) = (b, .bytes (next + 1) rest) := by
  simp only [sendByte, hready]

/-- A byte that is not captured goes out as it stands and captures the rest of its field (R22). -/
theorem sendByte_opens {s : State} (hready : s.ready = true) (next : Half) : sendByte s (.bytes next []) =
    (s.readByte next.toNat, .bytes (next + 1) (readBytes (next + 1) (s.widthAt next.toNat - 1) s)) := by
  simp only [sendByte, hready]

/-- Each byte of a read is the byte as it stands (R22). -/
theorem sendByte_standing {s : State} {next : Half} {captured : List Byte} (h : standing s next captured) :
    (sendByte s (.bytes next captured)).1 = s.readByte next.toNat ∧
    ∃ rest, (sendByte s (.bytes next captured)).2 = .bytes (next + 1) rest ∧ standing s (next + 1) rest := by
  have hfits : next.toNat % 65536 = next.toNat := Nat.mod_eq_of_lt next.isLt
  by_cases hready : s.ready = true
  · cases captured with
    | nil =>
      have hbyte := sendByte_opens hready next
      rw [hbyte]
      exact ⟨rfl, _, rfl, readBytes_standing s _ _⟩
    | cons b rest =>
      have hbyte := sendByte_captured hready next b rest
      rw [hbyte]
      refine ⟨?_, rest, rfl, fun k hk => ?_⟩
      · simpa [hfits] using h 0 (by simp)
      · rw [next_place]
        simpa using h (k + 1) (by simpa using hk)
  · have hready : s.ready = false := by simpa using hready
    rw [sendByte_of_notReady hready, readByte_of_notReady hready]
    exact ⟨rfl, [], rfl, by simp [standing]⟩

theorem sendBytes_getElem? {s : State} {n i : Nat} (hi : i < n) {next : Half} {captured : List Byte}
    (h : standing s next captured) :
    (sendBytes s n (.bytes next captured)).1[i]? = some (s.readByte ((next.toNat + i) % 65536)) := by
  induction n generalizing i next captured with
  | zero => omega
  | succ n ih =>
    obtain ⟨hbyte, rest, hrest, hstanding⟩ := sendByte_standing h
    rw [sendBytes, hrest, hbyte]
    cases i with
    | zero => rw [List.getElem?_cons_zero, Nat.add_zero, Nat.mod_eq_of_lt next.isLt]
    | succ i => rw [List.getElem?_cons_succ, ih (by omega) hstanding, next_place]

theorem sendRead_add (sentBefore : List Byte) (r : Reading) (n m : Nat) (s : State) :
    sendRead sentBefore r (n + m) s = { sendRead [] (sendBytes s n r).2 m (sendRead sentBefore r n s) with
      dataOut := (sendRead sentBefore r n s).dataOut ++
        (sendRead [] (sendBytes s n r).2 m (sendRead sentBefore r n s)).dataOut } := by
  simp only [sendRead, sendBytes_add, sendBytes_congr, List.nil_append, List.append_assoc]

/-! ## The widths of the fields (2.7) -/

theorem fieldWidth_uniform {fields : List Field} {a width : Nat} (hsize : ∀ f ∈ fields, f.size = width)
    (hat : ∃ f ∈ fields, f.at_ = a) : fieldWidth fields a = width := by
  induction fields with
  | nil => simp at hat
  | cons f rest ih =>
    rw [fieldWidth]
    split
    · exact hsize f List.mem_cons_self
    · next hne =>
      obtain ⟨g, hg, hga⟩ := hat
      obtain rfl | hg := List.mem_cons.mp hg
      · exact absurd hga hne
      · exact ih (fun f hf => hsize f (List.mem_cons_of_mem _ hf)) ⟨g, hg, hga⟩

theorem statusFields_eq (s : State) : statusFields s = statusHead s ++ statusMoney s ++ statusLoad s ++ statusCold s ++
    ([⟨0x009A, 1, s.intake.length⟩] ++ vendQueueFields s ++ payQueueFields s) := by
  rw [statusFields, statusQueues_eq]
  rfl

theorem widthAt_spiralTable (s : State) (i : Fin 80) {a : Nat} (hlow : 0x2400 + 32 * i.val ≤ a)
    (hhigh : a < 0x2400 + 32 * i.val + 32) :
    s.widthAt a = fieldWidth (spiralFields (0x2400 + 32 * i.val) i s.spirals[i]) a := by
  have harea : areaOf a = .spiralTable := by simp (disch := omega) only [areaOf, if_neg, if_pos]
  have hplace : (a - 0x2400) / 32 = i.val := by omega
  simp only [State.widthAt, harea]
  rw [spiralTableFields, hplace, spiralOf_succ]

theorem fieldWidth_spiral (base : Nat) (i : Fin 80) (r : Spiral) :
    fieldWidth (spiralFields base i r) (base + 4) = 2 ∧ fieldWidth (spiralFields base i r) (base + 5) = 1 := by
  simp [spiralFields, layOut, fieldWidth, Nat.add_assoc]

theorem widthAt_spiral (s : State) (i : Fin 80) :
    s.widthAt (0x2404 + 32 * i.val) = 2 ∧ s.widthAt (0x2405 + 32 * i.val) = 1 := by
  obtain ⟨hprice, hhigh⟩ := fieldWidth_spiral (0x2400 + 32 * i.val) i s.spirals[i]
  rw [Nat.add_right_comm] at hprice hhigh
  rw [widthAt_spiralTable s i (by omega) (by omega), widthAt_spiralTable s i (by omega) (by omega)]
  exact ⟨hprice, hhigh⟩

theorem fieldWidth_counter (c : Counters) {base i : Nat} (hi : i < 26) :
    fieldWidth (counterFields base c) (base + 4 * i) = 4 := by
  have hlayout : counterFields base c = _ := (congrArg (layOut base) (List.map_map ..)).symm.trans
    (layOut_uniform 4 (c.toList.map BitVec.toNat) base)
  have hlength : (c.toList.map BitVec.toNat).length = 26 := by simp
  rw [hlayout]
  refine fieldWidth_uniform (fun f hf => ?_) ?_
  · obtain ⟨_, _, rfl⟩ := List.mem_map.mp hf
    rfl
  · exact ⟨_, List.mem_map_of_mem (List.mem_finRange ⟨i, hlength.symm ▸ hi⟩), rfl⟩

theorem widthAt_counter (s : State) {i : Nat} (hi : i < 26) :
    s.widthAt (0x2F00 + 4 * i) = 4 ∧ s.widthAt (0x2F80 + 4 * i) = 4 := by
  have harea (a : Nat) (hlow : 0x2F00 ≤ a) (hhigh : a < 0x3000) : s.widthAt a = fieldWidth (auditFields s a) a := by
    have harea : areaOf a = .auditBlock := by simp (disch := omega) only [areaOf, if_neg, if_pos]
    simp only [State.widthAt, harea]
  rw [harea _ (by omega) (by omega), harea _ (by omega) (by omega), auditFields, auditFields, if_pos (by omega),
    if_neg (by omega)]
  exact ⟨fieldWidth_counter s.live hi, fieldWidth_counter s.snap hi⟩

theorem widthAt_slot (s : State) {slot off : Nat} (hslot : slot < 128) (hoff : off < 64) :
    s.widthAt (slotAddr slot off) = cardFieldWidth (s.cardKind slot) off := by
  have harea : areaOf (slotAddr slot off) = .cardPool :=
    areaOf_cardPool (by simp only [slotAddr]; omega) (by simp only [slotAddr]; omega)
  have hplace : (slotAddr slot off - 0x0400) / 64 = slot ∧ slotAddr slot off % 64 = off := by simp only [slotAddr]; omega
  obtain ⟨hslot, hoff⟩ := hplace
  simp only [State.widthAt, harea, hslot, hoff]
  rfl

theorem execMemoryRead_some (addr : Half) (count : Nat) (s : State) :
    execMemoryRead (some addr) count s = .next (sendRead (List.replicate 4 0) (.bytes addr []) count s) := rfl

/-- Settles O4: a byte captured is the byte as it stands, so every byte that is sent is one that a read of its address shows. -/
theorem memoryReadSendsTheBytes : Obligations.MemoryReadSendsTheBytes := by
  refine ⟨fun addr count s => ?_, fun next captured s hready hreading => ?_, fun start n m s t u hopen ht hu => ?_,
    fun s => ?_⟩
  · refine ⟨_, execMemoryRead_some addr count s, rfl, ?_, fun i hi => ?_, fun i hi => ?_⟩
    · rw [sendRead, List.length_append, List.length_replicate, sendBytes_length]
    · rw [sendRead, List.getElem?_append_left (by simpa using hi)]
      rw [List.getElem?_replicate, if_pos hi]
    · rw [sendRead, List.getElem?_append_right (by simp), List.length_replicate, Nat.add_sub_cancel_left]
      exact sendBytes_getElem? hi (by simp [standing])
  · refine ⟨_, execMemoryRead_none hreading 1, rfl, ?_, ?_⟩
    · rintro b rest rfl
      have hbyte := sendByte_captured hready next b rest
      simp [sendRead, sendBytes, hbyte]
    · rintro rfl
      have hbyte := sendByte_opens hready next
      have hfield := readBytes_standing s (next + 1) (s.widthAt next.toNat - 1)
      refine ⟨by simp [sendRead, sendBytes, hbyte], readBytes (next + 1) (s.widthAt next.toNat - 1) s,
        by simp [sendRead, sendBytes, hbyte], ?_, fun k hk => ?_⟩
      · simp [readBytes, addresses]
      · rw [hfield k hk, next_place, Nat.add_assoc, Nat.add_comm 1 k]
  · have hadd (sentBefore : List Byte) (r : Reading) (ht : sendRead sentBefore r n s = t)
        (hu : execMemoryRead none m t = .next u) :
        sendRead sentBefore r (n + m) s = { u with dataOut := t.dataOut ++ u.dataOut } := by
      have hreading : t.reading = some (sendBytes s n r).2 := by rw [← ht]; rfl
      rw [execMemoryRead_none hreading] at hu
      obtain ⟨rfl⟩ := hu
      rw [sendRead_add, ht]
    cases start with
    | some addr =>
      obtain ⟨rfl⟩ := ht
      exact congrArg Host.Outcome.next (hadd _ _ rfl hu)
    | none =>
      obtain ⟨r, hreading⟩ : ∃ r, s.reading = some r := Option.isSome_iff_exists.mp (by simpa using hopen)
      obtain ⟨rfl⟩ := (execMemoryRead_none hreading n).symm.trans ht
      exact (execMemoryRead_none hreading (n + m)).trans (congrArg Host.Outcome.next (hadd _ _ rfl hu))
  · refine ⟨fun count hnone => ?_, fun count hreading => ?_, ?_, ?_, ?_, fun i hi => widthAt_spiral s ⟨i, hi⟩, fun i hi => ?_,
      fun i hi => widthAt_counter s hi, fun slot hslot => ⟨?_, ?_, fun hkind => ⟨?_, ?_⟩, fun hkind => ⟨?_, ?_⟩⟩⟩
    · change execMemoryRead none count s = _
      simp only [execMemoryRead, hnone]
    · refine (execMemoryRead_none hreading count).trans ?_
      rw [sendRead, sendBytes_discarded, List.nil_append, ← hreading]
    · simp only [List.forall_mem_cons, List.not_mem_nil, false_imp_iff, implies_true, and_true]
      refine ⟨rfl, rfl, rfl, rfl, rfl, rfl, rfl, ?_⟩
      rw [State.widthAt, mirrorFields, toList_vector4]
      rfl
    · simp only [List.forall_mem_cons, List.not_mem_nil, false_imp_iff, implies_true, and_true]
      exact ⟨rfl, rfl, rfl⟩
    · simp only [List.forall_mem_cons, List.not_mem_nil, false_imp_iff, implies_true, and_true]
      refine ⟨rfl, rfl, rfl, ?_, rfl⟩
      rw [State.widthAt, statusFields_eq]
      rfl
    · interval_cases i <;> rfl
    · rw [widthAt_slot s hslot (by decide)]
      rfl
    · rw [widthAt_slot s hslot (by decide)]
      rfl
    all_goals rw [widthAt_slot s hslot (by decide), hkind]; rfl

end Sys2Proof.Machine

/-! The request bodies of 2.7.8: the settings mirror shows the body of a card that has put its group in force, and the selectors
of SET_SPIRAL and SET_COIN. -/

namespace Sys2Proof.Machine

/-! ## A layout that spells the bytes of a request body -/

/-- A field of `size` bytes shows the bytes that stand from an offset of a slot onward. -/
def spellsAt (s : State) (slot off size value : Nat) : Prop :=
  ∀ k < size, BitVec.ofNat 8 (value / 256 ^ k) = readCell s.mem (slotAddr slot (off + k))

/-- A layout shows the bytes that stand from an offset of a slot onward. -/
def spells (s : State) (slot : Nat) : Nat → List (Nat × Nat) → Prop
  | _, [] => True
  | off, (size, value) :: rest => spellsAt s slot off size value ∧ spells s slot (off + size) rest

section
variable {s : State} {slot off : Nat}

theorem spellsAt_byte : spellsAt s slot off 1 (s.slotByte slot off) := by
  intro k hk
  obtain rfl : k = 0 := Nat.lt_one_iff.mp hk
  rw [pow_zero, Nat.div_one, State.slotByte, BitVec.ofNat_toNat, BitVec.setWidth_eq, Nat.add_zero]

theorem spellsAt_half : spellsAt s slot off 2 (s.slotHalf slot off) := by
  intro k hk
  have hlow := (readCell s.mem (slotAddr slot off)).isLt
  have hhigh := (readCell s.mem (slotAddr slot (off + 1))).isLt
  apply BitVec.eq_of_toNat_eq
  rw [BitVec.toNat_ofNat]
  interval_cases k
  · simp only [State.slotHalf, State.slotByte, pow_zero, Nat.div_one, Nat.add_zero]
    omega
  · simp only [State.slotHalf, State.slotByte, pow_one]
    omega

theorem slotHalf_lt : s.slotHalf slot off < 65536 := by
  have hlow := (readCell s.mem (slotAddr slot off)).isLt
  have hhigh := (readCell s.mem (slotAddr slot (off + 1))).isLt
  simp only [State.slotHalf, State.slotByte]
  omega

/-- The two's complement of a signed field spells the bytes it was read from (R40). -/
theorem spellsAt_signed : spellsAt s slot off 2 (unsigned16 (s.slotSigned slot off)) := by
  have hback : unsigned16 (s.slotSigned slot off) = s.slotHalf slot off := by
    have hlt := slotHalf_lt (s := s) (slot := slot) (off := off)
    unfold State.slotSigned signed16 unsigned16
    split <;> omega
  rw [hback]
  exact spellsAt_half

theorem spellsAt_byte_of_eq {value : Nat} (h : value = s.slotByte slot off) : spellsAt s slot off 1 value := by
  rw [h]
  exact spellsAt_byte

/-- A flag spells its byte, which is 0 or 1. -/
theorem spellsAt_flag (h : s.slotByte slot off ≤ 1) : spellsAt s slot off 1 (flag (s.slotByte slot off == 1)) := by
  refine spellsAt_byte_of_eq ?_
  generalize s.slotByte slot off = b at h
  interval_cases b <;> rfl

/-- A choice of two by a byte that is 0 or 1 has that byte for its code. -/
theorem spellsAt_choice {α : Type} {code : α → Nat} {x y : α} (hx : code x = 0) (hy : code y = 1)
    (h : s.slotByte slot off ≤ 1) : spellsAt s slot off 1 (code (if s.slotByte slot off = 0 then x else y)) := by
  refine spellsAt_byte_of_eq ?_
  split <;> omega

end

/-- Each byte of a layout is a byte of one of its fields. -/
theorem spells_cover {s : State} {slot : Nat} {l : List (Nat × Nat)} {base off j : Nat} (h : spells s slot off l)
    (hj : j < layoutSize l) : ∃ f ∈ layOut base l, ∃ k < f.size, f.at_ + k = base + j ∧
      BitVec.ofNat 8 (f.value / 256 ^ k) = readCell s.mem (slotAddr slot (off + j)) := by
  induction l generalizing base off j with
  | nil => simp [layoutSize] at hj
  | cons field rest ih =>
    obtain ⟨size, value⟩ := field
    obtain ⟨hfield, hrest⟩ := h
    rw [layoutSize_cons] at hj
    by_cases hin : j < size
    · exact ⟨_, List.mem_cons_self, j, hin, rfl, hfield j hin⟩
    · obtain ⟨f, hf, k, hk, hplace, hbyte⟩ := ih (base := base + size) (j := j - size) hrest (by dsimp only at hj; omega)
      refine ⟨f, List.mem_cons_of_mem _ hf, k, hk, by omega, ?_⟩
      rw [hbyte]
      congr 2
      omega

/-! ## The groups of the settings mirror (R40) -/

def moneyLayout (m : MoneySettings) : List (Nat × Nat) :=
  [(2, m.baseUnit), (2, m.maxCredit), (1, m.changeMode.code), (1, m.overpay.code), (2, m.guaranteeLimit)]

def vendLayout (v : VendSettings) : List (Nat × Nat) :=
  [(1, v.loadWait), (1, v.revolutionLimit), (1, v.extraTurns), (1, v.assurance.code), (2, v.jamLimit[0]), (2, v.jamLimit[1]),
    (2, v.jamLimit[2]), (2, v.jamLimit[3])]

def loadLayout (l : LoadSettings) : List (Nat × Nat) :=
  [(1, l.budget), (1, l.startSize), (1, l.runSize), (1, l.heaterSize), (1, l.singleSize), (1, l.payoutSize)]

def portLayout (p : PortSettings) : List (Nat × Nat) :=
  [(1, p.keepalivePeriod), (2, p.silentDelay), (2, p.maskDefault.toNat)]

def coolLayout (c : CoolingSettings) : List (Nat × Nat) :=
  [(2, unsigned16 c.setpoint), (1, c.differential), (2, c.minOff), (2, c.minOn), (1, c.startWindow), (1, c.fanMode.code),
    (1, flag c.cabBEnable), (2, unsigned16 c.trimA), (2, unsigned16 c.trimB), (2, unsigned16 c.trimEvap), (1, c.filterK),
    (1, c.spreadLimit), (1, c.defrostInterval), (1, c.defrostType.code), (2, unsigned16 c.termination), (1, c.maxDuration),
    (1, c.dripTime), (1, c.recoveryGrace), (2, unsigned16 c.safeLimit), (2, c.allowedExposure)]

theorem mirrorFields_eq (s : State) : mirrorFields s =
    layOut 0x0200 (moneyLayout s.moneySet) ++ layOut 0x0220 (vendLayout s.vendSet) ++ layOut 0x0240 (loadLayout s.loadSet) ++
      layOut 0x0260 (portLayout s.portSet) ++ layOut 0x0280 (coolLayout s.coolSet) := by
  rw [mirrorFields, toList_vector4]
  rfl

theorem coolLayout_size (c : CoolingSettings) : layoutSize (coolLayout c) = 29 := by
  simp [layoutSize, coolLayout]

/-- A group that spells the request body of a card is mirrored byte for byte (R40). -/
theorem mirror_shows {s t : State} {slot base size : Nat} {l : List (Nat × Nat)} (hready : t.ready = true)
    (hgroup : ∀ f ∈ layOut base l, f ∈ mirrorFields t) (hspells : spells s slot 8 l) (hsize : layoutSize l = size) :
    ∀ j < size, t.readByte (base + j) = readCell s.mem (slotAddr slot (8 + j)) := by
  intro j hj
  obtain ⟨f, hf, k, hk, hplace, hbyte⟩ := spells_cover (base := base) hspells (hsize.symm ▸ hj)
  rw [← hplace, ← hbyte]
  exact (reads_mirror hready).byte (hgroup f hf) hk

/-! ## The ranges that a valid card keeps -/

theorem ok_of_firstFailing {checks : List Check} (h : firstFailing checks = none) : ∀ c ∈ checks, c.ok = true := by
  induction checks with
  | nil => simp
  | cons c rest ih =>
    rw [firstFailing] at h
    split at h
    · next hok => simpa [hok] using ih h
    · simp at h

theorem State.validHead.ok {s : State} {k : CardKind} {slot : Nat} (h : s.validHead k slot) :
    ∀ c ∈ requestChecks k s slot, c.ok = true := by
  obtain ⟨⟨_, _, _, hkind⟩, hvalid⟩ := h
  rw [State.failing, hkind] at hvalid
  dsimp only at hvalid
  split at hvalid
  · exact ok_of_firstFailing hvalid
  · simp at hvalid

theorem State.validHead.byte {s : State} {k : CardKind} {slot off lo hi : Nat} (h : s.validHead k slot)
    (hcheck : byteIn s slot off lo hi ∈ requestChecks k s slot) : s.slotByte slot off ≤ hi := by
  have hok : within lo hi (s.slotByte slot off) = true := h.ok _ hcheck
  rw [within_natCast] at hok
  exact (of_decide_eq_true hok).2

theorem State.validHead.half {s : State} {k : CardKind} {slot off lo hi : Nat} (h : s.validHead k slot)
    (hcheck : halfIn s slot off lo hi ∈ requestChecks k s slot) : s.slotHalf slot off ≤ hi := by
  have hok : within lo hi (s.slotHalf slot off) = true := h.ok _ hcheck
  rw [within_natCast] at hok
  exact (of_decide_eq_true hok).2

/-! ## The request bodies -/

section
variable {s : State} {slot : Nat}

theorem spells_money (h : s.validHead .setMoney slot) : spells s slot 8 (moneyLayout (s.moneyRequest slot)) := by
  have hmode : s.slotByte slot 12 ≤ 1 := h.byte (lo := 0) (by simp [requestChecks])
  have hoverpay : s.slotByte slot 13 ≤ 1 := h.byte (lo := 0) (by simp [requestChecks])
  exact ⟨spellsAt_half, spellsAt_half, spellsAt_choice (code := ChangeMode.code) rfl rfl hmode,
    spellsAt_choice (code := OverpayRule.code) rfl rfl hoverpay, spellsAt_half, trivial⟩

theorem spells_vend (h : s.validHead .setVend slot) : spells s slot 8 (vendLayout (s.vendRequest slot)) := by
  have hassurance : s.slotByte slot 11 ≤ 2 := h.byte (lo := 0) (by simp [requestChecks])
  refine ⟨spellsAt_byte, spellsAt_byte, spellsAt_byte, spellsAt_byte_of_eq ?_, spellsAt_half, spellsAt_half, spellsAt_half,
    spellsAt_half, trivial⟩
  simp only [State.vendRequest]
  generalize s.slotByte slot 11 = b at hassurance
  interval_cases b <;> rfl

theorem spells_load (s : State) (slot : Nat) : spells s slot 8 (loadLayout (s.loadRequest slot)) :=
  ⟨spellsAt_byte, spellsAt_byte, spellsAt_byte, spellsAt_byte, spellsAt_byte, spellsAt_byte, trivial⟩

theorem spells_port (h : s.validHead .setPort slot) : spells s slot 8 (portLayout (s.portRequest slot)) := by
  have hmask : s.slotHalf slot 11 ≤ 0x1FF := h.half (lo := 0) (by simp [requestChecks])
  have hbits : (BitVec.ofNat 9 (s.slotHalf slot 11)).toNat = s.slotHalf slot 11 :=
    (BitVec.toNat_ofNat _ _).trans (Nat.mod_eq_of_lt (by omega))
  refine ⟨spellsAt_byte, spellsAt_half, ?_, trivial⟩
  rw [State.portRequest, hbits]
  exact spellsAt_half

theorem spells_cooling (h : s.validHead .setCooling slot) : spells s slot 8 (coolLayout (s.coolingRequest slot)) := by
  have hfan : s.slotByte slot 16 ≤ 1 := h.byte (lo := 0) (by simp [requestChecks])
  have hcabB : s.slotByte slot 17 ≤ 1 := h.byte (lo := 0) (by simp [requestChecks])
  have htype : s.slotByte slot 27 ≤ 1 := h.byte (lo := 0) (by simp [requestChecks])
  exact ⟨spellsAt_signed, spellsAt_byte, spellsAt_half, spellsAt_half, spellsAt_byte,
    spellsAt_choice (code := FanMode.code) rfl rfl hfan, spellsAt_flag hcabB, spellsAt_signed, spellsAt_signed, spellsAt_signed,
    spellsAt_byte, spellsAt_byte, spellsAt_byte, spellsAt_choice (code := DefrostType.code) rfl rfl htype, spellsAt_signed,
    spellsAt_byte, spellsAt_byte, spellsAt_byte, spellsAt_signed, spellsAt_half, trivial⟩

end

/-! ## The groups after a card -/

theorem complete_groups (slot : Nat) (o : CardOutcome) (s : State) : keepsGroups s (complete slot o s) := by
  simp [keepsGroups]

theorem completeOk_groups (slot : Nat) (s : State) : keepsGroups s (completeOk slot s) := by
  simp [keepsGroups]

theorem updateFallback_groups (s : State) : keepsGroups s (updateFallback s) := by
  unfold updateFallback
  split
  · simp [keepsGroups]
  · simp [keepsGroups]
  · exact .refl s

theorem switchCabB_groups (before : Bool) (s : State) : keepsGroups s (switchCabB before s) := by
  unfold switchCabB
  split
  · exact .refl s
  · exact .trans (by simp [keepsGroups]) (updateFallback_groups _)

theorem callDefrost_groups (s : State) : keepsGroups s (callDefrost s) := by
  unfold callDefrost
  split
  · exact .refl s
  · exact .refl s

section
variable {judge : State → State} (hj : ∀ s, keepsGroups s (judge s))
include hj

theorem giveUp_groups {s t : State} (h : keepsGroups s t) (c : Claimant) : keepsGroups s (giveUp judge c t) :=
  h.trans (hj { t with
    waiting := t.waiting.filter fun w => w.claimant != c, grants := t.grants.filter fun g => g.claimant != c })

theorem placeClaim_groups {s t : State} (h : keepsGroups s t) (c : Claimant) (size : Nat) :
    keepsGroups s (placeClaim judge c size t) :=
  h.trans (hj { t with waiting := t.waiting ++ [⟨c, size⟩] })

theorem startDefrost_groups (s : State) : keepsGroups s (startDefrost judge s) := by
  have hgiven : keepsGroups s (giveUp judge .compressor { s with
      comp := { state := .offResting, minOff := none, minOn := none, window := none }, runSecond := none }) :=
    giveUp_groups hj (by exact .refl s) .compressor
  unfold startDefrost
  dsimp only
  split
  · exact hgiven
  · exact placeClaim_groups hj (by exact hgiven) .heater _

theorem judgeDue_groups (s : State) : keepsGroups s (judgeDue judge s) := by
  unfold judgeDue becomeDue startIfOff
  split
  · split
    · exact (callDefrost_groups s).trans (startDefrost_groups hj _)
    · exact callDefrost_groups s
  · exact .refl s

end

/-- A SET_COOLING puts its group in force, whatever of the defrost falls due (R167, R168). -/
theorem applyCooling_coolSet (slot : Nat) (c : CoolingSettings) (s : State) :
    (applyCooling slot c s).coolSet = c ∧ (applyCooling slot c s).ready = s.ready := by
  obtain ⟨_, _, _, _, hput, hready⟩ := switchCabB_groups s.coolSet.cabBEnable { s with coolSet := c }
  obtain ⟨_, _, _, _, hdue, hdueReady⟩ := judgeDue_groups judgeLoad_groups (putCooling c s)
  unfold applyCooling
  dsimp only
  split
  · obtain ⟨_, _, _, _, hdone, hdoneReady⟩ := completeOk_groups slot (putCooling c s)
    exact ⟨hdone.trans hput, hdoneReady.trans hready⟩
  · obtain ⟨_, _, _, _, hdone, hdoneReady⟩ := completeOk_groups slot (judgeDue judgeLoad (putCooling c s))
    exact ⟨hdone.trans (hdue.trans hput), hdoneReady.trans (hdueReady.trans hready)⟩

theorem exec_setCooling {s : State} {slot : Nat} (hhead : s.validHead .setCooling slot) :
    exec .setCooling s = .next (applyCooling slot (s.coolingRequest slot) (takeHead slot s)) := by
  obtain ⟨_, _, _, _, hcooling⟩ := takeHead_requests hhead.wf slot
  change execSetCooling s = _
  rw [execSetCooling, dispatch_valid hhead, hcooling]

/-- A card that ends otherwise shows another outcome. -/
theorem not_ok_of_complete {s : State} {slot : Nat} (hm : Memory.wf s.mem = true) {o : CardOutcome}
    (ho : o.code ≠ CardOutcome.ok.code) :
    (complete slot o s).slotHalf slot 6 ≠ CardOutcome.ok.code := by
  obtain ⟨_, houtcome⟩ := complete_done hm slot o
  rwa [houtcome]

section
variable {t : State}

theorem money_mirrored {g : MoneySettings} (h : t.moneySet = g) : ∀ f ∈ layOut 0x0200 (moneyLayout g), f ∈ mirrorFields t := by
  intro f hf
  rw [mirrorFields_eq, h]
  simp only [List.mem_append, hf, true_or]

theorem vend_mirrored {g : VendSettings} (h : t.vendSet = g) : ∀ f ∈ layOut 0x0220 (vendLayout g), f ∈ mirrorFields t := by
  intro f hf
  rw [mirrorFields_eq, h]
  simp only [List.mem_append, hf, true_or, or_true]

theorem load_mirrored {g : LoadSettings} (h : t.loadSet = g) : ∀ f ∈ layOut 0x0240 (loadLayout g), f ∈ mirrorFields t := by
  intro f hf
  rw [mirrorFields_eq, h]
  simp only [List.mem_append, hf, true_or, or_true]

theorem port_mirrored {g : PortSettings} (h : t.portSet = g) : ∀ f ∈ layOut 0x0260 (portLayout g), f ∈ mirrorFields t := by
  intro f hf
  rw [mirrorFields_eq, h]
  simp only [List.mem_append, hf, true_or, or_true]

theorem cool_mirrored {g : CoolingSettings} (h : t.coolSet = g) : ∀ f ∈ layOut 0x0280 (coolLayout g), f ∈ mirrorFields t := by
  intro f hf
  rw [mirrorFields_eq, h]
  simp only [List.mem_append, hf, or_true]

end

/-- The mirror shows `size` bytes of a request body after the card, if it ends OK. -/
def mirroredAfter (s : State) (slot base size : Nat) (c : Instr) : Prop :=
  ∃ t, exec c s = .next t ∧ (t.slotHalf slot 6 = CardOutcome.ok.code →
    ∀ j < size, t.readByte (base + j) = readCell s.mem (slotAddr slot (8 + j)))

section
variable {s : State} {slot : Nat}

/-- What a card that completes OK leaves of the groups that its effect puts in force. -/
theorem completeOk_withResult_groups (u : State) : keepsGroups u (completeOk slot (withResult s slot [] u)) := by
  refine .trans ?_ (completeOk_groups slot (withResult s slot [] u))
  rw [withResult_nil]
  exact ⟨rfl, rfl, rfl, rfl, rfl, rfl⟩

theorem recomputeChange_groups (u : State) : keepsGroups u (recomputeChange u) := by
  simp [keepsGroups]

theorem setMoney_mirrored (h : s.validHead .setMoney slot) : mirroredAfter s slot 0x0200 8 .setMoney := by
  refine ⟨_, exec_setMoney h, fun hok => ?_⟩
  have hwf : Memory.wf (withResult s slot [] s).mem = true := takeHead_eq_withResult slot s ▸ takeHead_wf h.wf slot
  split at hok
  · exact absurd hok (not_ok_of_complete hwf (by decide))
  · next hfree =>
    rw [if_neg hfree]
    generalize hu : ({ s with moneySet := s.moneyRequest slot } : State) = u
    have hgroup : u.moneySet = s.moneyRequest slot ∧ u.ready = s.ready := by rw [← hu]; exact ⟨rfl, rfl⟩
    obtain ⟨hmoney, _, _, _, _, hready⟩ :=
      (recomputeChange_groups u).trans (completeOk_withResult_groups (s := s) (slot := slot) (recomputeChange u))
    exact mirror_shows (hready.trans (hgroup.2.trans h.ready)) (money_mirrored (hmoney.trans hgroup.1)) (spells_money h) rfl

theorem setVend_mirrored (h : s.validHead .setVend slot) : mirroredAfter s slot 0x0220 12 .setVend := by
  refine ⟨_, exec_setVend h, fun _ => ?_⟩
  obtain ⟨_, hvend, _, _, _, hready⟩ :=
    completeOk_withResult_groups (s := s) (slot := slot) { s with vendSet := s.vendRequest slot }
  exact mirror_shows (hready.trans h.ready) (vend_mirrored hvend) (spells_vend h) rfl

theorem loadPut_groups (l : LoadSettings) : (loadPut s slot l).loadSet = l ∧ (loadPut s slot l).ready = s.ready := by
  rw [loadPut]
  exact ⟨rfl, rfl⟩

theorem setLoad_mirrored (h : s.validHead .setLoad slot) : mirroredAfter s slot 0x0240 6 .setLoad := by
  refine ⟨_, exec_setLoad h, fun hok => ?_⟩
  have hwf : Memory.wf (withResult s slot [] s).mem = true := takeHead_eq_withResult slot s ▸ takeHead_wf h.wf slot
  split at hok
  · next hfits =>
    rw [if_pos hfits]
    obtain ⟨hput, hputReady⟩ := loadPut_groups (s := s) (slot := slot) (s.loadRequest slot)
    obtain ⟨_, _, hload, _, _, hready⟩ := (judgeLoad_groups (loadPut s slot (s.loadRequest slot))).trans
      (completeOk_groups slot (judgeLoad (loadPut s slot (s.loadRequest slot))))
    exact mirror_shows (hready.trans (hputReady.trans h.ready)) (load_mirrored (hload.trans hput)) (spells_load s slot) rfl
  · exact absurd hok (not_ok_of_complete hwf (by decide))

theorem setPort_mirrored (h : s.validHead .setPort slot) : mirroredAfter s slot 0x0260 5 .setPort := by
  refine ⟨_, exec_setPort h, fun _ => ?_⟩
  obtain ⟨_, _, _, hport, _, hready⟩ :=
    completeOk_withResult_groups (s := s) (slot := slot) (portApplied s (s.portRequest slot))
  exact mirror_shows (hready.trans h.ready) (port_mirrored hport) (spells_port h) rfl

theorem setCooling_mirrored (h : s.validHead .setCooling slot) : mirroredAfter s slot 0x0280 29 .setCooling := by
  refine ⟨_, exec_setCooling h, fun _ => ?_⟩
  obtain ⟨hcool, hready⟩ := applyCooling_coolSet slot (s.coolingRequest slot) (takeHead slot s)
  have htaken : (takeHead slot s).ready = s.ready := by simp only [takeHead_eq]
  exact mirror_shows (hready.trans (htaken.trans h.ready)) (cool_mirrored hcool) (spells_cooling h) (coolLayout_size _)

end

/-! ## The selectors -/

theorem ofCode_requested {b : Nat} (h : b ∈ [0, 1, 3]) : SpiralState.ofCode b =
    if b = 0 then .ready else if b = 1 then .soldOut else .disabled := by
  simp only [List.mem_cons, List.not_mem_nil, or_false] at h
  obtain rfl | rfl | rfl := h <;> rfl

theorem tubeOf_succ (t : Fin 4) : tubeOf (t.val + 1) = some t := by
  simp [tubeOf, t.isLt]

/-- Settles O13: each card leaves its group in force with the layout that spells its body, and each selector guards the field at
its offset. -/
theorem requestBodiesAreReadAtTheirOffsets : Obligations.RequestBodiesAreReadAtTheirOffsets := by
  refine ⟨fun s slot base size k c hcard hhead => ?_, fun s slot => ⟨⟨rfl, rfl, fun hb => ?_, rfl, rfl, fun c hb => ?_⟩,
    ⟨rfl, fun hb => ?_, fun t hb => ?_, rfl⟩, ⟨rfl, rfl, rfl, rfl⟩⟩⟩
  · simp only [List.mem_cons, Prod.mk.injEq, List.not_mem_nil, or_false] at hcard
    obtain ⟨rfl, rfl, rfl, rfl⟩ | ⟨rfl, rfl, rfl, rfl⟩ | ⟨rfl, rfl, rfl, rfl⟩ | ⟨rfl, rfl, rfl, rfl⟩ | ⟨rfl, rfl, rfl, rfl⟩ :=
      hcard
    · exact setMoney_mirrored hhead
    · exact setVend_mirrored hhead
    · exact setLoad_mirrored hhead
    · exact setPort_mirrored hhead
    · exact setCooling_mirrored hhead
  · simp only [State.spiralRequest, selected, State.slotBit, ofCode_requested hb]
  · simp only [State.spiralRequest, selected, State.slotBit, hb, Nat.add_sub_cancel]
    rw [Fin.ofNat_val_eq_self]
  · simp only [State.channelRequest, selected, State.slotBit, hb]
    rfl
  · simp only [State.channelRequest, selected, State.slotBit, hb, tubeOf_succ]

end Sys2Proof.Machine

/-! Notices and the port's registers (R24, R41 to R43, R46, R47). -/

namespace Sys2Proof.Machine

/-! ## The notice that a read returns (R41, R42) -/

/-- The code of class k is k + 1 and its flag bit k, counted from 0 (R41, R43). -/
theorem noticeClasses_codes_bits : noticeClasses.map (fun c => (c.1, c.2.bit)) =
    (List.range 9).map fun k => (k + 1, BitVec.twoPow 9 k) := by
  decide

theorem and_twoPow_bne_zero (flags : BitVec 9) {k : Nat} (hk : k < 9) :
    (flags &&& BitVec.twoPow 9 k != 0) = flags.getLsbD k := by
  have hflag : BitVec.twoPow 9 k ≠ 0#9 := by simp [← BitVec.toNat_inj, BitVec.toNat_twoPow_of_lt hk]
  rw [BitVec.and_twoPow]
  cases flags.getLsbD k <;> simp [hflag]

/-- The lowest bit that is pending and enabled names the class of highest priority (R41, R42). -/
theorem topNotice_codes_bits (s : State) : s.topNotice.map (fun c => (c.1, c.2.bit)) =
    ((List.range 9).find? (s.noticePending &&& s.noticeMask).getLsbD).map fun k => (k + 1, BitVec.twoPow 9 k) := by
  have hfind (flags : BitVec 9) : (noticeClasses.find? fun c => flags &&& c.2.bit != 0).map (fun c => (c.1, c.2.bit)) =
      (noticeClasses.map fun c => (c.1, c.2.bit)).find? fun c => flags &&& c.2 != 0 := by
    rw [List.find?_map]
    rfl
  have hbits (flags : BitVec 9) : ((List.range 9).find? fun k => flags &&& BitVec.twoPow 9 k != 0) =
      (List.range 9).find? flags.getLsbD :=
    List.find?_congr fun k hk => and_twoPow_bne_zero flags (List.mem_range.mp hk)
  rw [State.topNotice, hfind, noticeClasses_codes_bits, List.find?_map, ← hbits]
  rfl

theorem topNotice_of_lowest {s : State} {k : Nat} (hk : k < 9)
    (hset : (s.noticePending &&& s.noticeMask).getLsbD k = true)
    (hlowest : ∀ j < k, (s.noticePending &&& s.noticeMask).getLsbD j = false) :
    ∃ c, s.topNotice = some (k + 1, c) ∧ c.bit = BitVec.twoPow 9 k := by
  have hfind : (List.range 9).find? (s.noticePending &&& s.noticeMask).getLsbD = some k :=
    List.find?_range_eq_some.mpr ⟨hset, List.mem_range.mpr hk, fun j hj => by rw [hlowest j hj]; rfl⟩
  have htop := topNotice_codes_bits s
  rw [hfind, Option.map_some, Option.map_eq_some_iff] at htop
  obtain ⟨⟨code, c⟩, htop, hc⟩ := htop
  obtain ⟨rfl, hbit⟩ := Prod.mk.inj hc
  exact ⟨c, htop, hbit⟩

theorem topNotice_eq_none {s : State} (h : s.noticePending &&& s.noticeMask = 0) : s.topNotice = none := by
  simp [State.topNotice, h]

theorem clearNotice_frame (s : State) : clearNotice s = { s with noticePending := (clearNotice s).noticePending } := by
  unfold clearNotice
  split
  · rfl
  · split <;> rfl

theorem clearNotice_of_none {s : State} (h : s.topNotice = none) : clearNotice s = s := by
  simp only [clearNotice, h]

/-- Only the flag of the class that the read returned falls (R42). -/
theorem getLsbD_clearNotice {s : State} (hready : s.ready = true) {k code : Nat} {c : NoticeClass}
    (htop : s.topNotice = some (code, c)) (hbit : c.bit = BitVec.twoPow 9 k) {j : Nat} (hj : j < 9) :
    (clearNotice s).noticePending.getLsbD j = if j = k then false else s.noticePending.getLsbD j := by
  simp only [clearNotice, htop, hready, if_true, hbit, BitVec.getLsbD_and, BitVec.getLsbD_not, BitVec.getLsbD_twoPow]
  by_cases hjk : j = k
  · subst hjk
    simp [hj]
  · simp [hj, hjk, Ne.symm hjk]

/-! ## A register read (R24) -/

theorem sent_length (answer : List Byte) (n : Nat) : (sent answer n).length = n := by
  simp [sent]

theorem sent_getElem?_zero (b : Byte) (answer : List Byte) {n : Nat} (hn : 0 < n) :
    (sent (b :: answer) n)[0]? = some b := by
  simp [sent, hn]

/-- Behind a register's one byte the port sends 0x00 (R24). -/
theorem sent_getElem?_succ (b : Byte) {n i : Nat} (hi : i + 1 < n) : (sent [b] n)[i + 1]? = some 0 := by
  simp [sent, hi]

theorem leBytes_two (w : BitVec 9) :
    leBytes w.toNat 2 = [w.extractLsb' 0 8, (w.extractLsb' 8 1).zeroExtend 8] := by
  have hw := w.isLt
  simp only [leBytes, List.cons.injEq, and_true]
  constructor <;> apply BitVec.eq_of_toNat_eq
  · simp
  · simp
    omega

/-- A REGISTER READ of any number but NOTICE changes what the port sends and nothing else (R24). -/
theorem execNoticeRead_of_ne {register : Byte} (h : register ≠ 1) (count : Nat) (s : State) :
    execNoticeRead ⟨register, count⟩ s = .next { s with
      dataOut := [0, 0, 0] ++ sent (s.readRegister register) count, reading := none } := by
  simp only [execNoticeRead, readRegisterBytes, h, false_and, if_false]
  rfl

theorem readRegister_ready {s : State} (hready : s.ready = true) {register : Byte} (h : register ≠ 1) :
    s.readRegister register =
      if register = 2 then [s.noticeMask.extractLsb' 0 8, (s.noticeMask.extractLsb' 8 1).zeroExtend 8]
      else if register = 3 then [BitVec.ofNat 8 (1 + 2 * s.store.state.code), BitVec.ofNat 8 s.refused] else [] := by
  simp only [State.readRegister, State.portStatus, if_neg h, if_pos hready, leBytes_two]

/-- A read of NOTICE changes what the port sends and the pending flags (R42). -/
theorem noticeRead_answers (count : Nat) (s : State) : exec (.noticeRead ⟨1, count⟩) s = .next { s with
    dataOut := List.replicate 3 0 ++ sent [s.noticeByte] count, reading := none,
    noticePending := (if 0 < count then clearNotice s else s).noticePending } := by
  change execNoticeRead ⟨1, count⟩ s = _
  have hframe : (if 0 < count then clearNotice s else s) =
      { s with noticePending := (if 0 < count then clearNotice s else s).noticePending } := by
    split
    · exact clearNotice_frame s
    · rfl
  simp only [execNoticeRead, readRegisterBytes, true_and]
  rw [hframe]
  rfl

/-- The answer to a read of NOTICE: its byte, and 0x00 before and behind it (R24, R42). -/
theorem noticeAnswer_zero (b : Byte) {count i : Nat} (hi : i < 3 + count) (hne : i ≠ 3) :
    (List.replicate 3 0 ++ sent [b] count)[i]? = some 0 := by
  by_cases hfirst : i < 3
  · rw [List.getElem?_append_left (by simpa using hfirst), List.getElem?_replicate_of_lt hfirst]
  · obtain ⟨j, rfl⟩ := Nat.exists_eq_add_of_lt (show 3 < i by omega)
    rw [List.getElem?_append_right (by simp; omega)]
    have hj : 3 + j + 1 - (List.replicate 3 (0 : Byte)).length = j + 1 := by simp; omega
    rw [hj, sent_getElem?_succ b (by omega)]

theorem noticeAnswer_code (b : Byte) {count : Nat} (hcount : 0 < count) :
    (List.replicate 3 0 ++ sent [b] count)[3]? = some b := by
  rw [List.getElem?_append_right (by simp), List.length_replicate, Nat.sub_self, sent_getElem?_zero b [] hcount]

theorem noticeByte_of_lowest {s : State} (hready : s.ready = true) {k : Nat} {c : NoticeClass}
    (htop : s.topNotice = some (k + 1, c)) : s.noticeByte = BitVec.ofNat 8 (k + 1) := by
  simp [State.noticeByte, hready, htop]

/-! ## The mask and the port reset (R43, R47) -/

/-- The two data bytes of the mask, the low one first, hold the nine enable bits (R43). -/
theorem getLsbD_maskBytes (low high : Byte) {k : Nat} (hk : k < 9) :
    (BitVec.ofNat 9 (low.toNat + 256 * high.toNat)).getLsbD k = if k < 8 then low.getLsbD k else high.getLsbD (k - 8) := by
  have hjoin : low.toNat + 256 * high.toNat = (high ++ low).toNat := by
    rw [BitVec.toNat_append, ← Nat.shiftLeft_add_eq_or_of_lt low.isLt, Nat.shiftLeft_eq]
    omega
  rw [hjoin, BitVec.ofNat_toNat, BitVec.getLsbD_setWidth, BitVec.getLsbD_append]
  simp [hk]

theorem noticeMaskWrite_replaces {s : State} (hready : s.ready = true) (low high : Byte) (more : List Byte) :
    exec (.noticeMaskWrite (low :: high :: more)) s = .next { s with
      noticeMask := BitVec.ofNat 9 (low.toNat + 256 * high.toNat), dataOut := [0, 0], reading := none } := by
  change execNoticeMaskWrite (low :: high :: more) s = _
  simp only [execNoticeMaskWrite, if_pos hready, writeRegister]
  rfl

/-- A port reset of a ready port raises PORT and discards the transaction (R47). -/
theorem execPortReset_ready {s : State} (hready : s.ready = true) {released : Bool}
    (h : released = true ∨ s.reading ≠ some .discarded) : execPortReset s released = .next
      { s with noticePending := s.noticePending ||| NoticeClass.port.bit, reading := some .discarded } := by
  rw [execPortReset, if_pos h, raise, if_pos (by exact hready)]

/-- Settles O10: a read of NOTICE by the lowest bit that is pending and enabled, the other registers one by one. -/
theorem theRegistersAreReadAndWritten : Obligations.TheRegistersAreReadAndWritten := by
  refine ⟨fun count s hready => ⟨_, noticeRead_answers count s, rfl, ?_, fun i hi hne => noticeAnswer_zero _ hi hne,
    fun k hk hset hlowest => ?_, fun hnone => ?_⟩, fun register count s hready hregister => ?_,
    fun low high more s hready => ⟨⟨_, noticeMaskWrite_replaces hready low high more, rfl, fun k hk =>
      getLsbD_maskBytes low high hk⟩, fun released h => ?_, fun hdiscarded => ?_⟩⟩
  · rw [List.length_append, List.length_replicate, sent_length]
  · obtain ⟨c, htop, hbit⟩ := topNotice_of_lowest hk hset hlowest
    refine ⟨fun hcount => ?_, fun j hj => ?_⟩
    · rw [← noticeByte_of_lowest hready htop]
      exact noticeAnswer_code _ hcount
    · by_cases hcount : 0 < count
      · simpa [hcount] using getLsbD_clearNotice hready htop hbit hj
      · simp [hcount]
  · have htop := topNotice_eq_none hnone
    have hbyte : s.noticeByte = 0 := by simp [State.noticeByte, htop]
    refine ⟨fun hcount => ?_, ?_⟩
    · rw [← hbyte]
      exact noticeAnswer_code _ hcount
    · simp [clearNotice_of_none htop]
  · change execNoticeRead ⟨register, count⟩ s = _
    rw [execNoticeRead_of_ne hregister, readRegister_ready hready hregister]
    rfl
  · exact execPortReset_ready hready h
  · change execPortReset s false = _
    simp [execPortReset, hdiscarded]

end Sys2Proof.Machine

/-! Host supervision (R48, R50): the keepalive word at the end of a MEMORY WRITE, and the end of a period. -/

namespace Sys2Proof.Machine

/-! ## The keepalive word is written -/

theorem placed_any_iff (addr : Half) (data : List Byte) (p : Nat → Bool) :
    ((placed addr data).any fun b => p b.1) = true ↔ ∃ i < data.length, p (place addr i) = true := by
  simp only [List.any_eq_true, mem_placed]
  constructor
  · rintro ⟨b, ⟨i, hi, hplace⟩, hp⟩
    exact ⟨i, (List.getElem?_eq_some_iff.mp hi).1, hplace ▸ hp⟩
  · rintro ⟨i, hi, hp⟩
    exact ⟨(place addr i, data[i]), ⟨i, List.getElem?_eq_getElem hi, rfl⟩, hp⟩

/-- A state that keeps supervision, the clock and the PORT group of `s` is judged by them and by its own word (R48). -/
theorem judgeKeepalive_sup {s t : State} (hsup : t.sup = s.sup) (hperiod : t.periodFromNow = s.periodFromNow) :
    (judgeKeepalive t).sup = if s.sup.alive = false ∧ t.keepaliveWord ≠ s.sup.reference then
        { alive := true, reference := t.keepaliveWord, period := s.periodFromNow, silentReturn := none }
      else s.sup := by
  simp only [judgeKeepalive, hsup, hperiod, Bool.and_eq_true, Bool.not_eq_true', bne_iff_ne]
  split
  · rfl
  · exact hsup

theorem writeJudged_sup (addr : Half) (data : List Byte) (completed : List Nat) (s : State) :
    (writeJudged addr data completed s).sup =
      if (∃ i < data.length, place addr i = 0x0040 ∨ place addr i = 0x0041) ∧ s.sup.alive = false ∧
          (holdersMoved addr data completed s).keepaliveWord ≠ s.sup.reference then
        { alive := true, reference := (holdersMoved addr data completed s).keepaliveWord, period := s.periodFromNow,
          silentReturn := none }
      else s.sup := by
  have hreaches := placed_any_iff addr data fun a => a == 0x0040 || a == 0x0041
  simp only [Bool.or_eq_true, beq_iff_eq] at hreaches
  have hsup : (holdersMoved addr data completed s).sup = s.sup := by rw [holdersMoved_frame]
  have hperiod : (holdersMoved addr data completed s).periodFromNow = s.periodFromNow := by rw [holdersMoved_frame]; rfl
  simp only [writeJudged, hreaches]
  split
  · next h => simp only [h, true_and, judgeKeepalive_sup hsup hperiod]
  · next h => simp only [h, false_and, if_false, hsup]

/-- The count of a refusal leaves the stored bytes and supervision to what was judged before it (R23). -/
theorem applyWrite_mem_sup (addr : Half) (data : List Byte) (completed : List Nat) (s : State) :
    (applyWrite addr data completed s).mem = (holdersMoved addr data completed s).mem ∧
    (applyWrite addr data completed s).sup = (writeJudged addr data completed s).sup := by
  have hcounted : ∃ refused : Bool, applyWrite addr data completed s =
      if refused then countRefused (writeJudged addr data completed s) else writeJudged addr data completed s :=
    ⟨_, rfl⟩
  obtain ⟨refused, hwrite⟩ := hcounted
  have hmem : (writeJudged addr data completed s).mem = (holdersMoved addr data completed s).mem := by
    rw [writeJudged_frame]
  rw [hwrite, ← hmem]
  cases refused
  · exact ⟨rfl, rfl⟩
  · simp [countRefused_frame]

/-! ## The end of a period -/

theorem execKeepalivePeriodEnd_of_not {s : State} (h : s.sup.alive = false ∨ s.sup.period = none) :
    execKeepalivePeriodEnd s = .next s := by
  unfold execKeepalivePeriodEnd
  obtain halive | hperiod := h
  · split <;> simp [halive]
  · simp [hperiod]

theorem execKeepalivePeriodEnd_running {s : State} {moment : Nat} (hready : s.ready = true) (halive : s.sup.alive = true)
    (hperiod : s.sup.period = some moment) (hP : s.portSet.keepalivePeriod ≠ 0) :
    execKeepalivePeriodEnd s = .next { s with
      now := max s.now moment,
      sup := if s.keepaliveWord = s.sup.reference then
          { alive := false, reference := s.sup.reference, period := none,
            silentReturn := if s.portSet.silentDelay = 0 then none
              else some (max s.now moment + 1000 * s.portSet.silentDelay) }
        else { alive := true, reference := s.keepaliveWord, silentReturn := s.sup.silentReturn,
               period := some (max s.now moment + 1000 * s.portSet.keepalivePeriod) } } := by
  have hexec : execKeepalivePeriodEnd s = .next (periodEnds (s.reach moment)) := by
    simp only [execKeepalivePeriodEnd, hperiod, if_pos (And.intro hready halive)]
  have hnext : (s.reach moment).periodFromNow = some (max s.now moment + 1000 * s.portSet.keepalivePeriod) := if_neg hP
  rw [hexec]
  by_cases hsame : s.keepaliveWord = s.sup.reference
  · have hstands : (s.reach moment).keepaliveWord = (s.reach moment).sup.reference := hsame
    rw [periodEnds, if_pos hstands, if_pos hsame]
    rfl
  · have hstands : (s.reach moment).keepaliveWord ≠ (s.reach moment).sup.reference := hsame
    rw [periodEnds, if_neg hstands, if_neg hsame, hnext, ← halive]
    rfl

/-- Settles O8: the word is judged as the transaction leaves it, and the period's end on the word that stands then. -/
theorem supervisionFollowsTheKeepaliveWord : Obligations.SupervisionFollowsTheKeepaliveWord := by
  refine ⟨fun addr data completed s hready => ?_, fun s moment hready halive hperiod hP => ?_,
    fun s h => execKeepalivePeriodEnd_of_not h⟩
  · have hexec : exec (.memoryWrite addr data completed) s =
        .next (openTransaction 3 (applyWrite addr data completed s)) := by
      change execMemoryWrite addr data completed s = _
      rw [execMemoryWrite, if_pos hready]
    obtain ⟨hmem, hsup⟩ := applyWrite_mem_sup addr data completed s
    have hword : (openTransaction 3 (applyWrite addr data completed s)).keepaliveWord =
        (holdersMoved addr data completed s).keepaliveWord := by
      simp only [State.keepaliveWord, openTransaction, hmem]
    have hjudged := hsup.trans (writeJudged_sup addr data completed s)
    rw [← hword] at hjudged
    exact ⟨_, hexec, fun hchanges => hjudged.trans (if_pos hchanges), fun hnot => hjudged.trans (if_neg hnot)⟩
  · exact execKeepalivePeriodEnd_running hready halive hperiod hP

end Sys2Proof.Machine

/-! The outputs of the part (R44, R81, R102 to R104, R132, R157, R160, R163, R166). -/

namespace Sys2Proof.Machine

/-! ## The host -/

theorem ne_zero_iff_getLsbD (flags : BitVec 9) : flags ≠ 0 ↔ ∃ k < 9, flags.getLsbD k = true := by
  rw [← not_iff_not]
  push Not
  refine ⟨fun h k _ => by simp [h], fun h => BitVec.eq_of_getLsbD_eq fun k hk => ?_⟩
  simpa using h k hk

theorem attn_iff (s : State) : s.attn = true ↔
    s.ready = true ∧ ∃ k < 9, s.noticePending.getLsbD k = true ∧ s.noticeMask.getLsbD k = true := by
  simp only [State.attn, Bool.and_eq_true, bne_iff_ne, ne_zero_iff_getLsbD, BitVec.getLsbD_and]

/-! ## Coins -/

theorem Channel.enabled_eq_false (c : Channel) : c.enabled = false ↔ c.enable = false ∨ c.value = 0 := by
  simp only [Channel.enabled, Bool.and_eq_false_iff, bne_eq_false_iff_eq]

theorem channels_all_disabled (s : State) : (s.channels.toList.all fun c => !c.enabled) = true ↔
    ∀ c : Fin 6, s.channels[c].enable = false ∨ s.channels[c].value = 0 := by
  simp only [List.all_eq_true, Bool.not_eq_true', Channel.enabled_eq_false, Vector.mem_toList_iff]
  refine ⟨fun h c => h _ (Vector.getElem_mem c.isLt), fun h c hc => ?_⟩
  obtain ⟨i, hi, rfl⟩ := Vector.getElem_of_mem hc
  exact h ⟨i, hi⟩

theorem globalInhibit_iff (s : State) : s.globalInhibit = true ↔
    s.door = .opened ∨ s.sup.alive = false ∨ s.moneySet.maxCredit ≤ s.credit ∨
      (∀ c : Fin 6, s.channels[c].enable = false ∨ s.channels[c].value = 0) ∨ ¬ (s.ready = true ∧ s.pfail = .clear) := by
  simp only [State.globalInhibit, Bool.or_eq_true, beq_iff_eq, bne_iff_ne, decide_eq_true_eq, Bool.not_eq_true',
    channels_all_disabled, or_assoc, not_and_or, Bool.not_eq_true, or_comm (a := s.pfail ≠ .clear)]

theorem channelInhibit_iff (s : State) (c : Fin 6) : s.channelInhibit c = true ↔
    ¬ (s.ready = true ∧ s.pfail = .clear) ∨ s.channels[c].enable = false ∨ s.channels[c].value = 0 ∨
      s.moneySet.maxCredit < s.credit + s.channels[c].value := by
  simp only [State.channelInhibit, Bool.or_eq_true, bne_iff_ne, decide_eq_true_eq, Bool.not_eq_true',
    Channel.enabled_eq_false, or_assoc, not_and_or, Bool.not_eq_true]
  exact or_left_comm

/-! ## Spiral drive -/

theorem mem_turning {s : State} {i : Fin 80} :
    i ∈ s.turning ↔ ∃ r ∈ s.rev, ∃ c ∈ r.cams, c.spiral = i ∧ c.phase ≠ .home := by
  unfold State.turning
  split
  · next h => simp [h]
  · next r h => simp [h, and_assoc, and_comm (a := _ = i)]

theorem rowOn_iff (s : State) (r : Fin 8) : s.rowOn r = true ↔ ∃ i ∈ s.turning, i.val / 10 = r.val := by
  simp only [State.rowOn, List.any_eq_true, beq_iff_eq, Fin.ext_iff, rowOf]

theorem columnOn_iff (s : State) (c : Fin 10) : s.columnOn c = true ↔ ∃ i ∈ s.turning, i.val % 10 = c.val := by
  simp only [State.columnOn, List.any_eq_true, beq_iff_eq, Fin.ext_iff, columnOf]

/-! ## Cooling -/

theorem working_iff (s : State) : s.working = true ↔ s.ready = true ∧ s.pfail = .clear := by
  simp only [State.working, Bool.and_eq_true, beq_iff_eq]

theorem comp_runs_iff (s : State) : s.comp.state.runs = true ↔ s.compressorRuns := by
  unfold State.compressorRuns
  cases s.comp.state <;> simp [CompressorState.runs]

theorem fanOn_iff (s : State) : s.fanOn = true ↔ (s.ready = true ∧ s.pfail = .clear) ∧
    (s.compressorRuns ∨ s.coolSet.fanMode = .continuous) ∧ s.defrost.state ≠ .heating ∧ s.defrost.state ≠ .draining ∧
      s.door = .closed := by
  simp only [State.fanOn, Bool.and_eq_true, Bool.or_eq_true, working_iff, comp_runs_iff, beq_iff_eq, bne_iff_ne, and_assoc]

/-- Settles O57, output by output. -/
theorem theOutputsFollowTheirConditions : Obligations.TheOutputsFollowTheirConditions := by
  intro s
  refine ⟨attn_iff s, globalInhibit_iff s, channelInhibit_iff s, fun t => ⟨Option.isSome_iff_exists, Option.isSome_iff_exists⟩,
    fun r => ?_, fun c => ?_, ?_, ?_, fanOn_iff s⟩
  · simp only [rowOn_iff, mem_turning]
  · simp only [columnOn_iff, mem_turning]
  · simp only [State.compressorRelay, Bool.and_eq_true, working_iff, comp_runs_iff]
  · simp only [State.heaterRelay, Bool.and_eq_true, working_iff, beq_iff_eq]

end Sys2Proof.Machine

/-! The vend or test in flight past its claim: motor starts, the timers and limits of the drive, and the drop sensor (R62 to R66,
R71, R76, R77, R79, R82, R87 to R91). -/

namespace Sys2Proof.Machine

theorem raise_ready (c : NoticeClass) {s : State} (hready : s.ready = true) :
    raise c s = { s with noticePending := s.noticePending ||| c.bit } := if_pos hready

/-! ## Motor starts (R63, R82) -/

theorem zoneRefusal_eq (s : State) : zoneRefusal s.zone = zoneOutcome s := rfl

theorem zoneSells_iff (s : State) : s.zoneSells = true ↔ s.zone = .safe ∨ s.zone = .exposed := by
  simp [State.zoneSells]

/-- The condition under which a motor start turns a vend away is that the zone does not allow the start (R63). -/
theorem startAllowed_iff (s : State) (f : Flight) :
    startAllowed s f ↔ (!f.isTest && f.chilled && !s.zoneSells) = false := by
  simp only [startAllowed, ← zoneSells_iff]
  cases f.isTest <;> cases f.chilled <;> cases s.zoneSells <;> decide

theorem startCam_eq (s : State) (i : Fin 80) : startCam s i = camStarted s i := by
  unfold startCam camStarted
  split <;> simp [*]

theorem energise_eq (f : Flight) (s : State) : energise f s = motorsStarted s f := by
  have hcams : (selection f.spiral f.twin).map (startCam s) =
      camStarted s f.spiral :: (if f.twin then [camStarted s (nextSpiral f.spiral)] else []) := by
    unfold selection
    split <;> simp [startCam_eq]
  have hstart : (f.firstStart <|> some s.now) = some (f.firstStart.getD s.now) := by cases f.firstStart <;> rfl
  simp only [energise, motorsStarted, hcams, hstart, allOpened]

theorem motorStart_allowed {s : State} {f : Flight} (hflight : s.flight = some f) (hallowed : startAllowed s f)
    (judge : State → State) : motorStart judge s = motorsStarted s f := by
  simp only [motorStart, hflight, (startAllowed_iff s f).mp hallowed, energise_eq]
  rfl

theorem motorStart_refused {s : State} {f : Flight} (hflight : s.flight = some f) (hrefused : ¬ startAllowed s f)
    (judge : State → State) : motorStart judge s = verdict judge (zoneOutcome s) s := by
  rw [startAllowed_iff, Bool.not_eq_false] at hrefused
  simp only [motorStart, hflight, hrefused, if_true, zoneRefusal_eq]

theorem zoneOutcome_ne (s : State) : zoneOutcome s ≠ .homeOk ∧ zoneOutcome s ≠ .testJammed := by
  unfold zoneOutcome
  split <;> decide

/-- A vend that the zone turns away ends by its zone state (R63, R176). -/
theorem motorStart_ended {s : State} {f : Flight} (hm : Memory.wf s.mem = true) (hflight : s.flight = some f)
    (hrefused : ¬ startAllowed s f) : vendEnded s (motorStart judgeLoad s) f (zoneOutcome s) := by
  rw [motorStart_refused hflight hrefused]
  exact verdict_ended hm hflight (zoneOutcome_ne s).1 (zoneOutcome_ne s).2

/-! ## The grant of the drive claim (R62) -/

/-- Where nothing waits, every judgement that leaves an empty wait list alone makes the same verdict. -/
theorem verdict_of_empty {judge : State → State} (hjudge : ∀ s, s.waiting = [] → judge s = s) {s : State}
    (hwaiting : s.waiting = []) (o : CardOutcome) : verdict judge o s = verdict judgeLoad o s := by
  have hgiven : giveUp judge .drive { s with rev := none } = giveUp judgeLoad .drive { s with rev := none } := by
    have hempty : s.waiting.filter (fun w => w.claimant != .drive) = [] := by rw [hwaiting]; rfl
    exact (hjudge _ hempty).trans (judgeLoad_of_empty hempty).symm
  simp only [verdict, hgiven]

/-- The state in which the drive acts on its grant. -/
def driveGranted (s : State) (size : Nat) : State := { s with waiting := [], grants := s.grants ++ [⟨.drive, size⟩] }

theorem judgeLoad_grant {s : State} {size : Nat} (hpfail : s.pfail = .clear) (hwaiting : s.waiting = [⟨.drive, size⟩])
    (hfits : s.granted + size ≤ s.loadSet.budget) :
    judgeLoad s = motorStart (judgeHead 0) (driveGranted s size) := by
  simp only [judgeLoad, hwaiting, List.length_singleton, judgeHead]
  rw [if_pos ⟨hpfail, hfits⟩]
  rfl

theorem driveGranted_without {s : State} {size : Nat} (hwaiting : s.waiting = [⟨.drive, size⟩]) :
    (driveGranted s size).without .drive = s.without .drive := by
  simp [State.without, driveGranted, hwaiting]

/-- The end of a vend whose claim has just been granted is its end from the state in which that claim still waited. -/
theorem vendEnded_of_granted {s t : State} {f : Flight} {o : CardOutcome} {size : Nat}
    (hwaiting : s.waiting = [⟨.drive, size⟩]) (h : vendEnded (driveGranted s size) t f o) : vendEnded s t f o where
  idle := h.idle
  load := h.load
  credit := h.credit
  held := h.held
  record := h.record
  table := h.table
  audit := h.audit
  charged := h.charged
  revolutions := h.revolutions
  dropTime := h.dropTime
  queue := h.queue
  basket := h.basket
  total := h.total
  cards := h.cards
  waits := h.waits
  notices := h.notices
  raised := fun hready hstays => h.raised hready (by rwa [driveGranted_without hwaiting])
  frame := h.frame
  bytes := h.bytes
  alone := fun hstays => by
    have halone := h.alone (by rwa [driveGranted_without hwaiting])
    rw [driveGranted_without hwaiting] at halone
    exact halone

/-- Settles O30: the only claim that waits is granted, and its motor start is allowed or turned away. -/
theorem aGrantStartsTheMotors : Obligations.AGrantStartsTheMotors := by
  intro s f size hm hflight hpfail hwaiting hfits
  rw [judgeLoad_grant hpfail hwaiting hfits]
  refine ⟨fun hallowed => motorStart_allowed (s := driveGranted s size) hflight hallowed _, fun hrefused => ?_⟩
  rw [motorStart_refused (s := driveGranted s size) hflight hrefused, verdict_of_empty (judge := judgeHead 0) (fun _ _ => rfl) rfl]
  exact vendEnded_of_granted hwaiting
    (verdict_ended hm hflight (zoneOutcome_ne s).1 (zoneOutcome_ne s).2)

/-! ## The end of the drop wait (R66) -/

theorem exec_dropWaitExpiry {s : State} {f : Flight} {m : Nat} (hworking : s.working = true) (hflight : s.flight = some f)
    (hstage : f.stage = .dropWait) (htimer : f.dropTimer = some m) :
    exec .dropWaitExpiry s = .next (dropWaitEnds f (s.reach m)) := by
  change execDropWaitExpiry s = _
  simp [execDropWaitExpiry, hflight, htimer, hworking, hstage]

/-- Settles O35: while extra turns are left the motors start again, and then the vend ends. -/
theorem aDropWaitEndsInATurnOrNoDrop : Obligations.ADropWaitEndsInATurnOrNoDrop := by
  intro s f m hm hworking hflight hstage htimer
  refine ⟨_, exec_dropWaitExpiry hworking hflight hstage htimer, fun hleft hallowed => ?_, fun hleft hrefused => ?_,
    fun hnone => ?_⟩
  · rw [dropWaitEnds, if_pos (by omega)]
    exact motorStart_allowed (s := s.reach m) hflight hallowed _
  · rw [dropWaitEnds, if_pos (by omega)]
    exact motorStart_ended (s := s.reach m) hm hflight hrefused
  · rw [dropWaitEnds, if_neg (by omega)]
    exact verdict_ended (s := s.reach m) hm hflight (by decide) (by decide)

/-! ## Timers, limits and shorts (R62, R87 to R91) -/

theorem exec_loadWaitExpiry {s : State} {f : Flight} {m : Nat} (hworking : s.working = true) (hflight : s.flight = some f)
    (hstage : f.stage = .claiming) (htimer : f.loadTimer = some m) :
    exec .loadWaitExpiry s = .next (endFlight judgeLoad .loadTimeout .loadTimeout (s.reach m)) := by
  have hends : s.loadWaitEnds = some m := by simp [State.loadWaitEnds, hflight, hworking, hstage, htimer]
  change execLoadWaitExpiry s = _
  simp [execLoadWaitExpiry, hends]

theorem exec_jamTimerExpiry {s : State} {r : Revolution} {m : Nat} (hworking : s.working = true) (hrev : s.rev = some r)
    (hjam : r.jamSince = some m) : exec .jamTimerExpiry s = .next (jamReport judgeLoad (s.reach (m + 250))) := by
  change execJamTimerExpiry s = _
  simp [execJamTimerExpiry, hrev, hjam, hworking]

theorem exec_motorShort {s : State} {r : Revolution} {current : Nat} (hworking : s.working = true) (hrev : s.rev = some r)
    (hcurrent : 300 < current) : exec (.motorShort current) s = .next (shortReport judgeLoad s) := by
  change execMotorShort current s = _
  have hlimit : shortLimit < current := hcurrent
  simp [execMotorShort, hworking, hrev, hlimit]

/-- A short is a jam that leaves the drive FAULTED (R90, R91). -/
theorem shortReport_ended {s : State} {f : Flight} (hm : Memory.wf s.mem = true) (hready : s.ready = true)
    (hflight : s.flight = some f) : ∃ u, shortReport judgeLoad s = saveScheduled u ∧
      flightEnded { s with driveFaulted := true, noticePending := s.noticePending ||| NoticeClass.drive.bit } u f .jammed
        .testJammed := by
  have hraised : raise .drive { s with driveFaulted := true } =
      { s with driveFaulted := true, noticePending := s.noticePending ||| NoticeClass.drive.bit } :=
    raise_ready .drive (s := { s with driveFaulted := true }) hready
  refine ⟨jamReport judgeLoad (raise .drive { s with driveFaulted := true }), rfl, ?_⟩
  rw [hraised]
  have hjam := jamReport_ended
    (s := { s with driveFaulted := true, noticePending := s.noticePending ||| NoticeClass.drive.bit }) hm hready hflight
  rwa [show (s.noticePending ||| NoticeClass.drive.bit) ||| NoticeClass.drive.bit =
    s.noticePending ||| NoticeClass.drive.bit by rw [BitVec.or_assoc, BitVec.or_self]] at hjam

/-- A cam whose edge is not pending within a limit (R87). -/
theorem edgeWithin_eq_false (level : CamLevel) (limit : Nat) (c : Cam) : c.edgeWithin level limit = false ↔
    c.level ≠ level ∨ c.edge = none ∨ ∃ e, c.edge = some e ∧ limit < e := by
  unfold Cam.edgeWithin
  cases c.edge <;> simp [imp_iff_not_or]

theorem takeLimit_taken {judged waits : Cam → Bool} {r : Revolution} {s : State}
    (h : ∃ c ∈ r.cams, judged c = true ∧ waits c = false) : takeLimit judged waits r s = jamReport judgeLoad s := by
  rw [takeLimit, if_pos (by simpa using h)]

theorem takeLimit_waits {judged waits : Cam → Bool} {r : Revolution} {s : State}
    (h : ¬ ∃ c ∈ r.cams, judged c = true ∧ waits c = false) : takeLimit judged waits r s =
      { s with rev := some { r with cams := r.cams.map fun c => if judged c then { c with limitWaits := true } else c } } := by
  rw [takeLimit, if_neg (by simpa using h)]

theorem exec_camLeaveLimit {s : State} {r : Revolution} (hworking : s.working = true) (hrev : s.rev = some r) :
    exec .camLeaveLimit s = .next (takeLimit (fun c => c.phase == .awaitOpen) (Cam.edgeWithin .closed 1000) r
      (s.reach (r.started + 1000))) := by
  change execCamLeaveLimit s = _
  simp [execCamLeaveLimit, hrev, hworking]

theorem exec_revolutionLimit {s : State} {f : Flight} {r : Revolution} (hworking : s.working = true)
    (hflight : s.flight = some f) (hrev : s.rev = some r) :
    exec .revolutionLimit s = .next (takeLimit (fun c => c.phase != .home)
      (fun c => c.phase == .turningOpen && Cam.edgeWithin .opened (100 * f.revolutionLimit) c) r
      (s.reach (r.started + 100 * f.revolutionLimit))) := by
  change execRevolutionLimit s = _
  simp [execRevolutionLimit, State.revolutionLimit, hrev, hworking, hflight]

/-- Settles O31: each of the five commands reports its end, and a limit first asks which cams it finds late. -/
theorem timersLimitsAndShortsEndTheFlight : Obligations.TimersLimitsAndShortsEndTheFlight := by
  intro s f hm hworking hflight
  have hready := working_ready hworking
  have hjam (m : Nat) : flightEnded
      { s with now := max s.now m, noticePending := s.noticePending ||| NoticeClass.drive.bit }
      (jamReport judgeLoad (s.reach m)) f .jammed .testJammed := jamReport_ended (s := s.reach m) hm hready hflight
  refine ⟨fun m hstage htimer => ⟨_, exec_loadWaitExpiry hworking hflight hstage htimer,
    endFlight_ended (s := s.reach m) hm hflight (by decide) (by decide) (by decide)⟩, fun r hrev => ⟨?_, ?_, ?_⟩⟩
  · exact fun m hsince => ⟨_, exec_jamTimerExpiry hworking hrev hsince, hjam (m + 250)⟩
  · intro current hcurrent
    obtain ⟨u, hshort, hended⟩ := shortReport_ended hm hready hflight
    exact ⟨u, hshort ▸ exec_motorShort hworking hrev hcurrent, hended⟩
  · refine ⟨_, _, exec_camLeaveLimit hworking hrev, exec_revolutionLimit hworking hflight hrev, ?_⟩
    intro limit late leaveLate revolutionLate atLeave atLimit
    have hleave : leaveLate ↔ ∃ c ∈ r.cams, (c.phase == .awaitOpen) = true ∧ c.edgeWithin .closed 1000 = false := by
      simp only [edgeWithin_eq_false, beq_iff_eq, leaveLate, late]
      refine exists_congr fun c => and_congr_right fun _ => and_congr_right fun hphase => ?_
      simp [hphase]
    have hlimit : revolutionLate ↔ ∃ c ∈ r.cams, (c.phase != .home) = true ∧
        (c.phase == .turningOpen && c.edgeWithin .opened limit) = false := by
      simp only [edgeWithin_eq_false, Bool.and_eq_false_iff, beq_eq_false_iff_ne, bne_iff_ne, revolutionLate, late]
    refine ⟨fun hlate => ?_, fun hlate => ?_, fun hlate => ?_, fun hlate => ?_⟩
    · rw [takeLimit_taken (hleave.mp hlate)]
      exact hjam _
    · rw [takeLimit_waits (fun h => hlate (hleave.mpr h))]
      simp only [beq_iff_eq]
      rfl
    · rw [takeLimit_taken (hlimit.mp hlate)]
      exact hjam _
    · rw [takeLimit_waits (fun h => hlate (hlimit.mpr h))]
      simp only [bne_iff_ne]
      rfl

/-! ## The drop sensor (R76, R77) -/

theorem breakPending_iff (s : State) : s.breakPending = true ↔
    s.working = true ∧ s.drop.blocked = true ∧ s.drop.fault = false ∧ s.drop.latch = false := by
  simp [State.breakPending, and_assoc]

theorem exec_beamChange (after : Nat) (blocked : Bool) (s : State) : exec (.beamChange after blocked) s = .next { s with
    now := s.now + after,
    drop := if blocked = s.drop.blocked then s.drop
      else { s.drop with blocked := blocked, since := s.now + after, latch := s.drop.latch && blocked } } := by
  change Host.Outcome.next (setBeam blocked (s.wait after)) = _
  by_cases h : blocked = s.drop.blocked
  · have hsame : (s.wait after).drop.blocked = blocked := h.symm
    rw [setBeam, if_pos hsame, if_pos h]
    rfl
  · have hother : (s.wait after).drop.blocked ≠ blocked := Ne.symm h
    rw [setBeam, if_neg hother, if_neg h]
    rfl

/-- A break that has lasted 5 ms is latched as recognised (R76). -/
def dropLatched (s : State) : State :=
  { s with now := max s.now (s.drop.since + 5), drop := { s.drop with latch := true } }

theorem exec_dropRecognised {s : State} (hbreak : s.breakPending = true) :
    exec .dropRecognised s = .next (giveDrop (dropLatched s)) := by
  change execDropRecognised s = _
  rw [execDropRecognised, if_pos hbreak]
  rfl

/-- The vend or test that a drop goes to, with the time of the drop (R64). -/
def Flight.sawDrop (f : Flight) (time : Nat) : Flight := { f with dropSeen := some time }

/-- A drop in an open window that has seen none (R64, R66). -/
theorem giveDrop_open {s : State} {f : Flight} {start : Nat} (hflight : s.flight = some f) (hstart : f.firstStart = some start)
    (hseen : f.dropSeen = none) : giveDrop s =
      if f.stage = .dropWait then verdict judgeLoad .vended { s with flight := some (f.sawDrop (s.now - start)) }
      else { s with flight := some (f.sawDrop (s.now - start)) } := by
  unfold giveDrop
  rw [hflight]
  dsimp only
  split
  · next start' hstart' _ =>
    obtain rfl : start' = start := Option.some.inj (hstart'.symm.trans hstart)
    rfl
  · next hclosed => exact absurd hseen (hclosed start hstart)

/-- A drop that no open window waits for is stray (R77). -/
theorem giveDrop_stray {s : State} (h : ∀ f, s.flight = some f → f.firstStart = none ∨ f.dropSeen.isSome = true) :
    giveDrop s = { s with live := s.live.set 21 (s.live[21] + 1) } := by
  have hstray : giveDrop s = count .strayDrops 1 s := by
    unfold giveDrop
    split
    · next f hflight =>
      split
      · next hstart hseen =>
        have := h f hflight
        simp [hstart, hseen] at this
      · rfl
    · rfl
  rw [hstray]
  rfl

/-- A vend in DROP_WAIT that sees its drop ends VENDED (R66). -/
theorem giveDrop_ended {s : State} {f : Flight} {start : Nat} (hm : Memory.wf s.mem = true) (hflight : s.flight = some f)
    (hstart : f.firstStart = some start) (hseen : f.dropSeen = none) (hstage : f.stage = .dropWait) :
    vendEnded { s with flight := some (f.sawDrop (s.now - start)) } (giveDrop s) (f.sawDrop (s.now - start)) .vended := by
  rw [giveDrop_open hflight hstart hseen, if_pos hstage]
  exact verdict_ended (s := { s with flight := some (f.sawDrop (s.now - start)) }) hm rfl (by decide) (by decide)

/-- The sensor in FAULT, which raises DRIVE (R76). -/
def sensorFaulted (s : State) : State :=
  { s with now := max s.now (s.drop.since + 2001), drop := { s.drop with fault := true },
           noticePending := s.noticePending ||| NoticeClass.drive.bit }

theorem exec_dropSensorFault {s : State} (hready : s.ready = true) (hblocked : s.drop.blocked = true)
    (hfault : s.drop.fault = false) : exec .dropSensorFault s =
      .next (if s.working then faultVerdict (sensorFaulted s) else sensorFaulted s) := by
  have hraised : raise .drive { s.reach (s.drop.since + 2001) with drop := { s.drop with fault := true } } =
      sensorFaulted s :=
    raise_ready .drive (s := { s.reach (s.drop.since + 2001) with drop := { s.drop with fault := true } }) hready
  change execDropSensorFault s = _
  rw [execDropSensorFault, if_pos ⟨hready, hblocked, hfault⟩, sensorFails, hraised]

theorem faultVerdict_other {s : State} (h : ∀ f, s.flight = some f → f.stage ≠ .dropWait) : faultVerdict s = s := by
  unfold faultVerdict
  split
  · next f hflight => rw [if_neg (h f hflight)]
  · rfl

theorem faultVerdict_ended {s : State} {f : Flight} (hm : Memory.wf s.mem = true) (hflight : s.flight = some f)
    (hstage : f.stage = .dropWait) :
    vendEnded s (faultVerdict s) f (if f.assurance = .required then .dropSensorFault else .vendedUnconfirmed) := by
  simp only [faultVerdict, hflight, hstage, if_true]
  refine verdict_ended hm hflight ?_ ?_ <;> split <;> decide

theorem exec_dropSensorRecovery {s : State} (hready : s.ready = true) (hblocked : s.drop.blocked = false)
    (hfault : s.drop.fault = true) : exec .dropSensorRecovery s = .next { s with
      now := max s.now (s.drop.since + 1000), drop := { s.drop with fault := false },
      noticePending := s.noticePending ||| NoticeClass.drive.bit } := by
  change execDropSensorRecovery s = _
  rw [execDropSensorRecovery, if_pos ⟨hready, hfault, hblocked⟩]
  exact congrArg _
    (raise_ready .drive (s := { s.reach (s.drop.since + 1000) with drop := { s.drop with fault := false } }) hready)

/-- Settles O36: the beam, a recognised drop, and the sensor's own state. -/
theorem theDropSensorIsFollowedAndJudged : Obligations.TheDropSensorIsFollowedAndJudged := by
  refine ⟨fun s => ⟨fun after blocked => exec_beamChange after blocked s, fun hworking hblocked hfault hlatch => ?_⟩,
    fun s hready => ⟨fun hblocked hfault => ?_, fun hblocked hfault => exec_dropSensorRecovery hready hblocked hfault⟩⟩
  · have hbreak : s.breakPending = true := (breakPending_iff s).mpr ⟨hworking, hblocked, hfault, hlatch⟩
    refine ⟨_, exec_dropRecognised hbreak, fun f start hflight hstart hseen => ⟨fun hstage => ?_, fun hstage hm => ?_⟩,
      fun hstray => giveDrop_stray (s := dropLatched s) hstray⟩
    · rw [giveDrop_open (s := dropLatched s) hflight hstart hseen, if_neg hstage]
      rfl
    · exact giveDrop_ended (s := dropLatched s) hm hflight hstart hseen hstage
  · refine ⟨_, exec_dropSensorFault hready hblocked hfault, fun hkept => ?_, fun f hworking hflight hstage hm => ?_⟩
    · obtain hidle | hother := hkept
      · simp only [hidle]
        rfl
      · rw [faultVerdict_other (s := sensorFaulted s) hother, ite_self]
        rfl
    · rw [if_pos hworking]
      exact faultVerdict_ended (s := sensorFaulted s) hm hflight hstage

end Sys2Proof.Machine

/-! Cards that move in one step, one after the other (R29): what their slots read, which notices rise, and that nothing else
changes. -/

namespace Sys2Proof.Machine

/-! ## Slots that are written -/

/-- The slot reads the same in both states. -/
def sameSlot (s t : State) (slot : Nat) : Prop :=
  ∀ off < 64, readCell t.mem (slotAddr slot off) = readCell s.mem (slotAddr slot off)

/-- The bytes that the part never writes read the same in every slot: the header beside holder and outcome, and the request
body (R29). -/
def sameHeaders (s t : State) : Prop :=
  ∀ slot off, (1 ≤ off ∧ off < 6) ∨ (8 ≤ off ∧ off < 40) → t.slotByte slot off = s.slotByte slot off

theorem sameSlot.byte {s t : State} {slot off : Nat} (h : sameSlot s t slot) (hoff : off < 64) :
    t.slotByte slot off = s.slotByte slot off := by simp only [State.slotByte, h off hoff]

theorem sameSlot.holder {s t : State} {slot : Nat} (h : sameSlot s t slot) : t.holder slot = s.holder slot := by
  simp only [State.holder, h.byte (show 0 < 64 by omega)]

theorem sameSlot.half {s t : State} {slot off : Nat} (h : sameSlot s t slot) (hoff : off + 1 < 64) :
    t.slotHalf slot off = s.slotHalf slot off := by
  simp only [State.slotHalf, h.byte hoff, h.byte (show off < 64 by omega)]

theorem sameSlot.trans {s t u : State} {slot : Nat} (h : sameSlot s t slot) (h' : sameSlot t u slot) : sameSlot s u slot :=
  fun off hoff => (h' off hoff).trans (h off hoff)

theorem doneWith_of_sameSlot {s t : State} {slot : Nat} {o : CardOutcome} {result : List Byte} (h : sameSlot s t slot)
    (hdone : s.doneWith slot o result) : t.doneWith slot o result := by
  obtain ⟨hholder, hcode, hbody⟩ := hdone
  exact ⟨h.holder.trans hholder, (h.half (by omega)).trans hcode,
    fun i hi => (h (40 + i) (by omega)).trans (hbody i hi)⟩

theorem takenIn_of_sameSlot {s t : State} {slot : Nat} (h : sameSlot s t slot) (htaken : s.takenIn slot) :
    t.takenIn slot := by
  obtain ⟨hholder, hcode, hbody⟩ := htaken
  exact ⟨h.holder.trans hholder, (h.half (by omega)).trans hcode,
    fun i hi => (h (40 + i) (by omega)).trans (hbody i hi)⟩

theorem not_cardByte_of_ne {slot other off : Nat} (hne : other ≠ slot) (hoff : off < 64) :
    ¬ cardByte slot (slotAddr other off) := by
  simp only [cardByte, slotAddr]; omega

theorem cardByte_slotAddr {slot other : Nat} : cardByte slot (slotAddr other 0) ↔ other = slot := by
  simp only [cardByte, slotAddr]; omega

theorem keepsBytes.trans {s t u : State} {p : Nat → Prop} (h : keepsBytes s t p) (h' : keepsBytes t u p) : keepsBytes s u p :=
  fun a ha => (h' a ha).trans (h a ha)

/-- From `s` to `t` cards in the slots listed are written, and the notices `n` are raised. -/
structure SlotsWritten (s t : State) (slots : List Nat) (n : BitVec 9) : Prop where
  frame : t = { s with mem := t.mem, noticePending := s.noticePending ||| n }
  wf : Memory.wf t.mem = true
  bytes : keepsBytes s t (fun a => ∃ slot ∈ slots, cardByte slot a)

section
variable {s t u : State} {slots more : List Nat} {n m : BitVec 9}

theorem SlotsWritten.none (hm : Memory.wf s.mem = true) : SlotsWritten s s [] 0 :=
  ⟨by rw [show s.noticePending ||| 0 = s.noticePending from BitVec.or_zero], hm, fun _ _ => rfl⟩

theorem SlotsWritten.trans (h : SlotsWritten s t slots n) (h' : SlotsWritten t u more m) :
    SlotsWritten s u (slots ++ more) (n ||| m) where
  frame := by rw [h'.frame, h.frame, BitVec.or_assoc]
  wf := h'.wf
  bytes := fun a ha => by
    rw [h'.bytes a fun ⟨slot, hslot, hb⟩ => ha ⟨slot, List.mem_append_right _ hslot, hb⟩,
      h.bytes a fun ⟨slot, hslot, hb⟩ => ha ⟨slot, List.mem_append_left _ hslot, hb⟩]

theorem SlotsWritten.ready (h : SlotsWritten s t slots n) : t.ready = s.ready := by rw [h.frame]

theorem SlotsWritten.sameSlot (h : SlotsWritten s t slots n) {slot : Nat} (hslot : slot ∉ slots) :
    sameSlot s t slot := by
  refine fun off hoff => h.bytes _ ?_
  rintro ⟨other, hother, hb⟩
  have hne : slot ≠ other := fun e => hslot (by rwa [e])
  exact not_cardByte_of_ne hne hoff hb

theorem SlotsWritten.sameHeaders (h : SlotsWritten s t slots n) : sameHeaders s t := by
  intro slot off hoff
  have hkept : readCell t.mem (slotAddr slot off) = readCell s.mem (slotAddr slot off) := by
    refine h.bytes _ ?_
    rintro ⟨other, _, hb⟩
    simp only [cardByte, slotAddr] at hb
    omega
  simp only [State.slotByte, hkept]

theorem SlotsWritten.keeps {p : Nat → Prop} (h : SlotsWritten s t slots n)
    (hp : ∀ slot ∈ slots, ∀ a, cardByte slot a → p a) : keepsBytes s t p :=
  fun a ha => h.bytes a fun ⟨slot, hslot, hb⟩ => ha (hp slot hslot a hb)

theorem SlotsWritten.mono (h : SlotsWritten s t slots n) (hsub : ∀ slot ∈ slots, slot ∈ more) (hn : n = m) :
    SlotsWritten s t more m :=
  ⟨hn ▸ h.frame, h.wf, fun a ha => h.bytes a fun ⟨slot, hslot, hb⟩ => ha ⟨slot, hsub slot hslot, hb⟩⟩

end

theorem sameHeaders.trans {s t u : State} (h : sameHeaders s t) (h' : sameHeaders t u) : sameHeaders s u :=
  fun slot off hoff => (h' slot off hoff).trans (h slot off hoff)

theorem sameHeaders.cardsBit {s t : State} (h : sameHeaders s t) (slot : Nat) : t.cardsBit slot = s.cardsBit slot := by
  unfold State.cardsBit State.quiet
  rw [h slot 5 (by omega)]

theorem sameHeaders.cardsBits {s t : State} (h : sameHeaders s t) (slots : List Nat) : t.cardsBits slots = s.cardsBits slots := by
  simp only [State.cardsBits, h.cardsBit]

theorem sameHeaders.cardKind {s t : State} (h : sameHeaders s t) (slot : Nat) : t.cardKind slot = s.cardKind slot := by
  simp only [State.cardKind, h slot 1 (by omega)]

/-! ## The notice of several cards -/

theorem cardsBits_cons (s : State) (slot : Nat) (slots : List Nat) :
    s.cardsBits (slot :: slots) = s.cardsBit slot ||| s.cardsBits slots := rfl

/-- CARDS rises when one of the cards is not QUIET (R29). -/
theorem cardsBits_eq (s : State) (slots : List Nat) :
    s.cardsBits slots = if ∃ slot ∈ slots, s.quiet slot = false then NoticeClass.cards.bit else 0 := by
  induction slots with
  | nil => simp [State.cardsBits]
  | cons slot slots ih =>
    rw [cardsBits_cons, ih]
    cases hquiet : s.quiet slot <;> by_cases hrest : ∃ slot ∈ slots, s.quiet slot = false <;>
      simp [State.cardsBit, hquiet, hrest]

/-- The notice depends on which cards are listed, not on their order. -/
theorem cardsBits_congr_mem {s : State} {slots more : List Nat} (h : ∀ slot, slot ∈ slots ↔ slot ∈ more) :
    s.cardsBits slots = s.cardsBits more := by
  simp only [cardsBits_eq, h]

theorem cardsBits_append (s : State) (slots more : List Nat) :
    s.cardsBits (slots ++ more) = s.cardsBits slots ||| s.cardsBits more := by
  induction slots with
  | nil => exact (BitVec.zero_or).symm
  | cons slot slots ih => rw [List.cons_append, cardsBits_cons, cardsBits_cons, ih, BitVec.or_assoc]

/-! ## One card -/

theorem takeSlot_slots {s : State} (hm : Memory.wf s.mem = true) (slot : Nat) :
    SlotsWritten s (takeSlot slot s) [slot] 0 ∧ (takeSlot slot s).takenIn slot := by
  refine ⟨⟨?_, takeSlot_wf hm slot, fun a ha => ?_⟩, ?_⟩
  · rw [show s.noticePending ||| 0 = s.noticePending from BitVec.or_zero]
    simp [takeSlot, State.setHolder, State.putSlot]
  · have hb : ¬ cardByte slot a := fun hb => ha ⟨slot, List.mem_singleton_self slot, hb⟩
    rw [readCell_takeSlot hm, if_neg (fun e => hb (.inl e)), if_neg (fun e => hb (.inr e))]
  · exact takenIn_congr (takeHead_mem slot s).symm (takeHead_taken hm slot)

/-- The result body of the slot reads `result` (2.7.1). -/
def bodyReads (s : State) (slot : Nat) (result : List Byte) : Prop :=
  ∀ i < 24, readCell s.mem (slotAddr slot (40 + i)) = result.getD i 0

/-- A write into the result body touches no other byte. -/
theorem putSlot_slots {s : State} (hm : Memory.wf s.mem = true) {slot off : Nat} {bytes : List Byte} (hlow : 40 ≤ off)
    (hhigh : off + bytes.length ≤ 64) : SlotsWritten s (s.putSlot slot off bytes) [slot] 0 := by
  refine ⟨?_, putSlot_wf hm _ _ _, fun a ha => ?_⟩
  · rw [show s.noticePending ||| 0 = s.noticePending from BitVec.or_zero]
    rfl
  · exact readCell_putSlot_result hm hlow hhigh fun hb => ha ⟨slot, List.mem_singleton_self slot, hb⟩

/-- A completion writes the card and raises CARDS unless it is QUIET (R29). -/
theorem complete_slots {s : State} (hm : Memory.wf s.mem = true) (hready : s.ready = true) (slot : Nat) (o : CardOutcome) :
    SlotsWritten s (complete slot o s) [slot] (s.cardsBit slot) := by
  refine ⟨complete_eq hm hready slot o, complete_wf hm slot o, fun a ha => ?_⟩
  have hb : ¬ cardByte slot a := fun hb => ha ⟨slot, List.mem_singleton_self slot, hb⟩
  simp only [cardByte, slotAddr] at hb
  exact readCell_complete_of_ne hm o (by simp only [slotAddr]; omega) (by simp only [slotAddr]; omega)
    (by simp only [slotAddr]; omega)

/-- A card whose result is written completes. -/
theorem SlotsWritten.complete {s t : State} {slot : Nat} (h : SlotsWritten s t [slot] 0) (hready : s.ready = true)
    (o : CardOutcome) : SlotsWritten s (complete slot o t) [slot] (s.cardsBit slot) := by
  refine (h.trans (complete_slots h.wf (h.ready.trans hready) slot o)).mono (by simp) ?_
  rw [h.sameHeaders.cardsBit, show ∀ v : BitVec 9, 0 ||| v = v from fun _ => BitVec.zero_or]

theorem complete_doneWith {s : State} (hm : Memory.wf s.mem = true) {slot : Nat} {result : List Byte}
    (hbody : bodyReads s slot result) (o : CardOutcome) : (complete slot o s).doneWith slot o result := by
  obtain ⟨hholder, hcode⟩ := complete_done hm slot o
  refine ⟨hholder, hcode, fun i hi => ?_⟩
  rw [readCell_complete_of_ne hm o (by simp only [slotAddr]; omega) (by simp only [slotAddr]; omega)
    (by simp only [slotAddr]; omega)]
  exact hbody i hi

/-- A result that is written at the start of a body behind which nothing stands. -/
theorem bodyReads_putSlot {s : State} (hm : Memory.wf s.mem = true) {slot : Nat} {result : List Byte}
    (hrest : ∀ i < 24, result.length ≤ i → readCell s.mem (slotAddr slot (40 + i)) = 0) :
    bodyReads (s.putSlot slot 40 result) slot result := by
  intro i hi
  rw [readCell_putSlot hm]
  by_cases h : i < result.length
  · rw [if_pos (by simp only [slotAddr]; omega)]
    congr 1
    simp only [slotAddr]; omega
  · rw [if_neg (by simp only [slotAddr]; omega), hrest i hi (by omega), List.getD_eq_default _ _ (by omega)]

/-- Nothing stands behind the vend result. -/
def noTail (s : State) (slot : Nat) : Prop := ∀ i < 24, 6 ≤ i → readCell s.mem (slotAddr slot (40 + i)) = 0

theorem noTail_of_doneWith {s : State} {slot : Nat} {o : CardOutcome} {result : List Byte} (h : s.doneWith slot o result)
    (hlength : result.length ≤ 6) : noTail s slot := by
  obtain ⟨_, _, hbody⟩ := h
  intro i hi hlow
  rw [hbody i hi, List.getD_eq_default _ _ (by omega)]

theorem noTail_of_takenIn {s : State} {slot : Nat} (h : s.takenIn slot) : noTail s slot := fun i hi _ => h.2.2 i hi

theorem sameSlot.noTail {s t : State} {slot : Nat} (h : sameSlot s t slot) (htail : noTail s slot) : noTail t slot :=
  fun i hi hlow => (h _ (by omega)).trans (htail i hi hlow)

/-- A card that completes with a result written at the start of its body. -/
theorem complete_putSlot {s : State} (hm : Memory.wf s.mem = true) (hready : s.ready = true) {slot : Nat} {result : List Byte}
    (hlength : result.length ≤ 24) (hrest : ∀ i < 24, result.length ≤ i → readCell s.mem (slotAddr slot (40 + i)) = 0)
    (o : CardOutcome) :
    SlotsWritten s (complete slot o (s.putSlot slot 40 result)) [slot] (s.cardsBit slot) ∧
      (complete slot o (s.putSlot slot 40 result)).doneWith slot o result := by
  have hput := putSlot_slots hm (slot := slot) (off := 40) (bytes := result) (Nat.le_refl _) (by omega)
  exact ⟨hput.complete hready o, complete_doneWith hput.wf (bodyReads_putSlot hm hrest) o⟩

/-- A VEND that ends with nothing charged (R55). -/
theorem endVendAtIntake_slots {s : State} (hm : Memory.wf s.mem = true) (hready : s.ready = true) {slot : Nat}
    (htail : noTail s slot) (o : CardOutcome) :
    SlotsWritten s (endVendAtIntake slot o s) [slot] (s.cardsBit slot) ∧
      (endVendAtIntake slot o s).doneWith slot o noVend := by
  rw [endVendAtIntake, putVendResult_noVend]
  exact complete_putSlot (result := noVend) hm hready (by decide) htail o

/-! ## Several cards -/

/-- Cards that are written one after the other: each finds its slot as `pre` says and leaves it as `post` says, which a later
write of another card does not undo. A slot that is listed twice is written twice. -/
theorem forEach_slots {step : Nat → State → State} {bit : Nat → BitVec 9} {pre post : Nat → State → Prop}
    (hpre : ∀ {f s t}, sameSlot s t f → pre f s → pre f t) (hpost : ∀ {f s t}, sameSlot s t f → post f s → post f t)
    (hagain : ∀ {f s}, post f s → pre f s) :
    ∀ (l : List Nat) {s : State}, Memory.wf s.mem = true → s.ready = true → (∀ f ∈ l, pre f s) →
      (∀ f ∈ l, ∀ t, Memory.wf t.mem = true → t.ready = true → sameHeaders s t → pre f t →
        SlotsWritten t (step f t) [f] (bit f) ∧ post f (step f t)) →
      SlotsWritten s (forEach step l s) l (l.foldr (fun f n => bit f ||| n) 0) ∧ ∀ f ∈ l, post f (forEach step l s)
  | [], s, hm, _, _, _ => ⟨.none hm, fun _ h => nomatch h⟩
  | f :: rest, s, hm, hready, hall, hstep => by
    obtain ⟨hfirst, hdone⟩ := hstep f List.mem_cons_self s hm hready (fun _ _ _ => rfl) (hall f List.mem_cons_self)
    have hother {g : Nat} (hg : g ≠ f) : sameSlot s (step f s) g := hfirst.sameSlot (by simpa using hg)
    have hall' : ∀ g ∈ rest, pre g (step f s) := by
      intro g hg
      by_cases hgf : g = f
      · subst hgf
        exact hagain hdone
      · exact hpre (hother hgf) (hall g (List.mem_cons_of_mem _ hg))
    obtain ⟨hrest, hend⟩ := forEach_slots hpre hpost hagain rest hfirst.wf (hfirst.ready.trans hready) hall'
      fun g hg t hwt hrt hht => hstep g (List.mem_cons_of_mem _ hg) t hwt hrt (hfirst.sameHeaders.trans hht)
    refine ⟨hfirst.trans hrest, fun g hg => ?_⟩
    by_cases hgr : g ∈ rest
    · exact hend g hgr
    · obtain rfl : g = f := (List.mem_cons.mp hg).resolve_right hgr
      exact hpost (hrest.sameSlot hgr) hdone

/-- Cards that are taken one after the other (R29). -/
theorem forEach_take {l : List Nat} {s : State} (hm : Memory.wf s.mem = true) (hready : s.ready = true) :
    SlotsWritten s (forEach takeSlot l s) l 0 ∧ ∀ f ∈ l, (forEach takeSlot l s).takenIn f := by
  obtain ⟨hwritten, htaken⟩ := forEach_slots (step := takeSlot) (bit := fun _ => 0) (pre := fun _ _ => True)
    (post := fun f t => t.takenIn f) (fun _ h => h) takenIn_of_sameSlot (fun _ => trivial) l hm hready (fun _ _ => trivial)
    fun f _ t hwt _ _ _ => takeSlot_slots hwt f
  refine ⟨hwritten.mono (fun _ h => h) ?_, htaken⟩
  induction l with
  | nil => rfl
  | cons f l ih => simp

/-- Cards that end one after the other, each with its outcome and its result (R29). -/
theorem forEach_done {step : Nat → State → State} {o : CardOutcome} {result : Nat → List Byte} {pre : Nat → State → Prop}
    (hpre : ∀ {f s t}, sameSlot s t f → pre f s → pre f t) (hagain : ∀ {f s}, s.doneWith f o (result f) → pre f s)
    {l : List Nat} {s : State} (hm : Memory.wf s.mem = true) (hready : s.ready = true) (hall : ∀ f ∈ l, pre f s)
    (hstep : ∀ f ∈ l, ∀ t, Memory.wf t.mem = true → t.ready = true → sameHeaders s t → pre f t →
      SlotsWritten t (step f t) [f] (t.cardsBit f) ∧ (step f t).doneWith f o (result f)) :
    SlotsWritten s (forEach step l s) l (s.cardsBits l) ∧ ∀ f ∈ l, (forEach step l s).doneWith f o (result f) :=
  forEach_slots (bit := s.cardsBit) (post := fun f t => t.doneWith f o (result f)) hpre doneWith_of_sameSlot hagain l hm
    hready hall fun f hf t hwt hrt hht hp => by rw [← hht.cardsBit]; exact hstep f hf t hwt hrt hht hp

end Sys2Proof.Machine

/-! The basket in flight (R58): when it completes with its head, and the item that a recognised drop charges to it (R67). -/

namespace Sys2Proof.Machine

/-! ## The basket completes -/

/-- While a part of the basket is left, nothing happens. -/
theorem closeBasket_open {s : State} (h : s.overBasket = none) : closeBasket s = s := by
  unfold closeBasket
  split
  · next head remaining charged o hbasket =>
    rw [State.overBasket, hbasket, Option.filter_eq_none_iff] at h
    have hleft := h _ rfl
    rw [if_pos]
    simp only [Option.isSome_some, Bool.true_and, Bool.and_eq_true, Bool.not_eq_true', bne_iff_ne, not_and, ne_eq,
      Decidable.not_not] at hleft
    by_cases hqueued : s.vendQueue.any (fun e => e.basket == some head) = true
    · simp only [hqueued, Bool.true_or]
    · simp only [hleft (by simpa using hqueued), beq_self_eq_true, Bool.or_true]
  · rfl

/-- A basket of which nothing is left completes with its head's own outcome, behind the total charged. -/
theorem closeBasket_over {s : State} {b : Basket} (h : s.overBasket = some b) : ∃ o, b.headOutcome = some o ∧
    closeBasket s = complete b.head o (putHalf b.head 50 b.charged { s with basket := none }) := by
  obtain ⟨hbasket, hover⟩ := Option.filter_eq_some_iff.mp h
  obtain ⟨head, remaining, charged, headOutcome⟩ := b
  simp only [Bool.and_eq_true, bne_iff_ne, Bool.not_eq_true'] at hover
  obtain ⟨⟨hended, hqueue⟩, hflight⟩ := hover
  obtain ⟨o, rfl⟩ := Option.isSome_iff_exists.mp hended
  refine ⟨o, rfl, ?_⟩
  simp only [closeBasket, hbasket, hqueue, Bool.false_or, beq_iff_eq, if_neg hflight]

/-- The head of the basket that is over, and that basket's place in the state. -/
def basketLeft (s : State) : State := { s with basket := if s.overBasket.isSome then none else s.basket }

def overHeads (s : State) : List Nat := (s.overBasket.map Basket.head).toList

theorem mem_overHeads {s : State} {slot : Nat} : slot ∈ overHeads s ↔ ∃ b ∈ s.overBasket, b.head = slot := by
  simp only [overHeads, Option.mem_toList, Option.mem_def, Option.map_eq_some_iff]

/-- The head of a basket that completes is written, with the total at offset 50 of its slot (R58). -/
structure headEnded (s t : State) (b : Basket) : Prop where
  holder : t.holder b.head = .done
  outcome : ∀ o ∈ b.headOutcome, t.slotHalf b.head 6 = o.code
  body : ∀ i < 24, readCell t.mem (slotAddr b.head (40 + i)) =
    if i = 10 ∨ i = 11 then (leBytes (field16 b.charged) 2).getD (i - 10) 0 else readCell s.mem (slotAddr b.head (40 + i))

theorem headEnded.total {s t : State} {b : Basket} (h : headEnded s t b) : t.slotHalf b.head 50 = field16 b.charged :=
  slotHalf_of_bytes (field16_lt _) (h.body 10 (by omega)) (h.body 11 (by omega))

theorem headEnded.congr {s s' t : State} {b : Basket} (h : headEnded s t b) (hmem : s'.mem = s.mem) : headEnded s' t b :=
  ⟨h.holder, h.outcome, by rw [hmem]; exact h.body⟩

/-- A head that completes behind the total of its basket. -/
theorem complete_total {s : State} (hm : Memory.wf s.mem = true) (hready : s.ready = true) {b : Basket} {o : CardOutcome}
    (houtcome : b.headOutcome = some o) :
    SlotsWritten s (complete b.head o (putHalf b.head 50 b.charged s)) [b.head] (s.cardsBit b.head) ∧
      headEnded s (complete b.head o (putHalf b.head 50 b.charged s)) b := by
  have hput : SlotsWritten s (putHalf b.head 50 b.charged s) [b.head] 0 :=
    putSlot_slots hm (by omega) (by rw [leBytes_length]; omega)
  have hbody : ∀ i < 24, readCell (putHalf b.head 50 b.charged s).mem (slotAddr b.head (40 + i)) =
      if i = 10 ∨ i = 11 then (leBytes (field16 b.charged) 2).getD (i - 10) 0
      else readCell s.mem (slotAddr b.head (40 + i)) := by
    intro i hi
    rw [putHalf, readCell_putSlot hm, leBytes_length]
    by_cases htotal : i = 10 ∨ i = 11
    · rw [if_pos htotal, if_pos (by simp only [slotAddr]; omega),
        show slotAddr b.head (40 + i) - slotAddr b.head 50 = i - 10 by simp only [slotAddr]; omega]
    · rw [if_neg htotal, if_neg (by simp only [slotAddr]; omega)]
  obtain ⟨hholder, hcode⟩ := complete_done hput.wf b.head o
  refine ⟨hput.complete hready o, hholder, fun o' ho' => ?_, fun i hi => ?_⟩
  · obtain rfl : o = o' := Option.some.inj (houtcome.symm.trans ho')
    exact hcode
  · rw [readCell_complete_of_ne hput.wf o (by simp only [slotAddr]; omega) (by simp only [slotAddr]; omega)
      (by simp only [slotAddr]; omega)]
    exact hbody i hi

theorem closeBasket_slots {s : State} (hm : Memory.wf s.mem = true) (hready : s.ready = true) :
    SlotsWritten (basketLeft s) (closeBasket s) (overHeads s) (s.cardsBits (overHeads s)) ∧
      ∀ b ∈ s.overBasket, headEnded s (closeBasket s) b := by
  cases hover : s.overBasket with
  | none =>
    have hleft : basketLeft s = s := by simp only [basketLeft, hover, Option.isSome_none, Bool.false_eq_true, if_false]
    have hheads : overHeads s = [] := by simp only [overHeads, hover, Option.map_none, Option.toList_none]
    rw [closeBasket_open hover, hleft, hheads]
    exact ⟨.none hm, fun _ h => nomatch h⟩
  | some b =>
    obtain ⟨o, houtcome, hclose⟩ := closeBasket_over hover
    have hleft : basketLeft s = { s with basket := none } := by simp only [basketLeft, hover, Option.isSome_some, if_true]
    have hheads : overHeads s = [b.head] := by simp only [overHeads, hover, Option.map_some, Option.toList_some]
    have hbits : s.cardsBits [b.head] = s.cardsBit b.head := BitVec.or_zero
    obtain ⟨hwritten, hended⟩ := complete_total (s := { s with basket := none }) hm hready houtcome
    rw [hclose, hleft, hheads, hbits]
    refine ⟨hwritten, fun b' hb' => ?_⟩
    obtain rfl : b = b' := Option.some.inj hb'
    exact hended.congr rfl

/-! ## An item that sees its drop (R66, R67) -/

section
variable {s : State} {f : Flight} {o : CardOutcome}

/-- While the basket goes on and no other claim is let in, a verdict writes no card but its own. -/
theorem verdict_bytes (hm : Memory.wf s.mem = true) (hflight : s.flight = some f) (hstays : (s.without .drive).headStays)
    (hclosed : basketClosed s f o = none) : keepsBytes s (verdict judgeLoad o s) (cardByte f.slot) := by
  obtain ⟨_, _, _, _, _, _, _, halone⟩ := giveUp_rev s
  have hgiven := halone hstays
  rw [verdict_some hflight, hgiven]
  generalize hg : ({ s.without .drive with rev := none } : State) = g
  obtain ⟨hsettled, _⟩ := settleMoney_eq f o g
  obtain ⟨hrecorded, _⟩ := recordEnd_eq f.spiral f.twin o (settleMoney f o g)
  obtain ⟨haudited, _⟩ := auditVerdict_eq f o (recordEnd f.spiral f.twin o (settleMoney f o g))
  generalize hw : auditVerdict f o (recordEnd f.spiral f.twin o (settleMoney f o g)) = w at *
  have hmem : w.mem = s.mem := by rw [haudited, hrecorded, hsettled, ← hg]; rfl
  have hwf : Memory.wf w.mem = true := by rw [hmem]; exact hm
  obtain ⟨h1, h2, h3, h4, h5⟩ : w.moneySet = s.moneySet ∧ w.payQueue = s.payQueue ∧ w.returnMark = s.returnMark ∧
      w.vendQueue = s.vendQueue ∧ w.basket = chargedBasket f o s.basket := by
    rw [haudited, hrecorded, hsettled, ← hg]
    exact ⟨rfl, rfl, rfl, rfl, rfl⟩
  obtain ⟨_, _, _, _, e, hemem, _, _, hcompleted⟩ := afterVerdict_spec f o (s := s)
    (d := { putVendResult f.slot (if o.charges then f.price else 0) f.revolutions f.dropSeen w with flight := none })
    (putVendResult_wf hwf _ _ _ _) rfl h1 h2 h3 h4 h5
  intro a ha
  have hb := ha
  simp only [cardByte, slotAddr] at hb
  refine (hcompleted.bytes a (fun c hc => ?_) fun ⟨_, b, hb, _⟩ => ?_).trans ?_
  · obtain hslot | ⟨b, hb, _⟩ := cardsEnded_slot hc
    · rw [hslot]
      simp only [slotAddr]
      omega
    · rw [hclosed] at hb
      cases hb
  · rw [hclosed] at hb
    cases hb
  · rw [hemem]
    dsimp only
    rw [readCell_putVendResult hwf, if_neg (by simp only [slotAddr]; omega), hmem]

/-- The basket after the item `f` has been charged to it (R67). -/
def Basket.charge (f : Flight) (b : Basket) : Basket :=
  { b with remaining := b.remaining - f.price, charged := b.charged + f.price }

theorem basketCharged_item {b : Basket} (hcoin : f.coin = false) (hbasket : f.basket = some b.head) (hslot : f.slot ≠ b.head)
    (hinFlight : s.basket = some b) : basketCharged s f .vended = some (b.charge f) := by
  have hhead : b.head ≠ f.slot := Ne.symm hslot
  simp [basketCharged, hinFlight, hcoin, hbasket, hhead, CardOutcome.charges, Basket.charge]

/-- A VENDED item of a basket, not its head, is charged to the basket; its own card completes, and the head with it when
nothing else is left. -/
theorem verdict_item {b : Basket} (hm : Memory.wf s.mem = true) (hflight : s.flight = some f) (hcoin : f.coin = false)
    (hbasket : f.basket = some b.head) (hslot : f.slot ≠ b.head) (hinFlight : s.basket = some b) (hwaiting : s.waiting = []) :
    let more := s.vendQueue.any fun e => e.basket == some b.head
    let t := verdict judgeLoad .vended s
    t.flight = none ∧ t.credit = s.credit ∧ t.held = s.held ∧ t.holder f.slot = .done ∧
      t.slotHalf f.slot 6 = CardOutcome.vended.code ∧ t.slotHalf f.slot 40 = field16 f.price ∧
      recordEnded .vended s.spirals[f.spiral] t.spirals[f.spiral] ∧
      (b.headOutcome = none ∨ more = true → t.basket = some (b.charge f) ∧ keepsBytes s t (cardByte f.slot)) ∧
      (∀ o, b.headOutcome = some o → more = false →
        t.basket = none ∧ t.holder b.head = .done ∧ t.slotHalf b.head 6 = o.code ∧
        t.slotHalf b.head 50 = field16 (b.charged + f.price) ∧
        keepsBytes s t (fun a => cardByte f.slot a ∨ cardByte b.head a)) := by
  intro more t
  have hstays : (s.without .drive).headStays := by
    intro claim hclaim
    simp [State.without, hwaiting] at hclaim
  have hended : vendEnded s t f .vended := verdict_ended hm hflight (by decide) (by decide)
  have hbytes : basketClosed s f .vended = none → keepsBytes s t (cardByte f.slot) := verdict_bytes hm hflight hstays
  have hasks : asksChange s t f .vended = false := by simp [asksChange, hcoin]
  have hitem : f.basket ≠ some f.slot := by
    rw [hbasket]
    exact fun e => hslot (Option.some.inj e).symm
  have hclosed : basketClosed s f .vended = if b.headOutcome.isSome && !more then some (b.charge f) else none := by
    rw [basketClosed, if_neg (by simp [hbasket]), basketCharged_item hcoin hbasket hslot hinFlight]
    rfl
  have hcards : cardsEnded s t f .vended = (f.slot, .vended) ::
      ((basketClosed s f .vended).bind fun b => b.headOutcome.map fun own => (b.head, own)).toList := by
    rw [cardsEnded, hasks, if_neg (by decide), if_neg hitem]
    rfl
  have hafter := hended.basket
  rw [hasks, if_neg (by decide), if_neg (by simp [hbasket]), basketCharged_item hcoin hbasket hslot hinFlight] at hafter
  have halone : (f.slot, CardOutcome.vended) ∈ cardsEnded s t f .vended ∧
      ∀ d ∈ cardsEnded s t f .vended, d.1 = f.slot → d = (f.slot, .vended) := by
    rw [hcards, hclosed]
    refine ⟨List.mem_cons_self, fun d hd hdslot => (List.mem_cons.mp hd).resolve_right fun hrest => ?_⟩
    split at hrest
    · obtain ⟨own, _, rfl⟩ : ∃ own, b.headOutcome = some own ∧ (b.head, own) = d := by
        simpa [Basket.charge] using hrest
      exact hslot hdslot.symm
    · simp at hrest
  obtain ⟨hdone, hcode⟩ := hended.cards _ halone.1
  refine ⟨hended.idle.1, by simp [hended.credit, hcoin], by simp [hended.held, hcoin], hdone, hcode halone.2, hended.charged,
    hended.record, fun hopen => ?_, fun o houtcome hmore => ?_⟩
  · have hnone : basketClosed s f .vended = none := by
      rw [hclosed, if_neg]
      obtain h | h := hopen <;> simp [h]
    rw [hnone] at hafter
    exact ⟨hafter, hbytes hnone⟩
  · have hsome : basketClosed s f .vended = some (b.charge f) := by
      rw [hclosed, if_pos]
      simp [houtcome, hmore]
    rw [hsome] at hafter
    have hcardsBoth : cardsEnded s t f .vended = [(f.slot, .vended), (b.head, o)] := by
      rw [hcards, hsome]
      simp [Basket.charge, houtcome]
    obtain ⟨hheadDone, hheadCode⟩ := hended.cards (b.head, o) (by simp [hcardsBoth])
    refine ⟨hafter, hheadDone, hheadCode fun d hd hdslot => ?_, hended.total hasks _ hsome, fun a ha => ?_⟩
    · rw [hcardsBoth, List.mem_cons, List.mem_singleton] at hd
      obtain rfl | rfl := hd
      · exact absurd hdslot hslot
      · rfl
    · refine (hended.alone hstays).2.2 a fun h => ha (h.imp_right ?_)
      rintro ⟨_, b', hb', hb⟩
      obtain rfl : b = b' := Option.some.inj (hinFlight.symm.trans hb')
      exact hb

end

/-- Settles O38: the recognised drop ends the item VENDED. -/
theorem aBasketItemIsChargedToTheBasket : Obligations.ABasketItemIsChargedToTheBasket := by
  intro s f b start hm hbreak hflight _ hcoin hstage hstart hseen hbasket hslot hinFlight hwaiting more
  refine ⟨_, exec_dropRecognised hbreak, ?_⟩
  rw [giveDrop_open (s := dropLatched s) hflight hstart hseen, if_pos hstage]
  exact verdict_item (s := { dropLatched s with flight := some (f.sawDrop ((dropLatched s).now - start)) })
    (f := f.sawDrop ((dropLatched s).now - start)) hm rfl hcoin hbasket hslot hinFlight hwaiting

end Sys2Proof.Machine

/-! The check stage of the vend sequencer (R59 to R62, R78). -/

namespace Sys2Proof.Machine

/-! ## The table of the checks (R59) -/

/-- One row of the table: its outcome, if it fails, and otherwise the rows after it. -/
theorem firstRow_cons (fails : Bool) (o : CardOutcome) (rows : List (Bool × CardOutcome)) :
    (((fails, o) :: rows).find? Prod.fst).map Prod.snd = if fails then some o else (rows.find? Prod.fst).map Prod.snd := by
  cases fails <;> rfl

theorem stateRefusal_rows (state : SpiralState) (rest : Option CardOutcome) :
    (if state == .soldOut then some .soldOut else if state == .jammed then some .spiralJammed
      else if state == .disabled then some .disabled else rest) = (stateRefusal state).or rest := by
  cases state <;> rfl

theorem zone_rows (s : State) (zone : Zone) (rest : Option CardOutcome) :
    (if zone == .chilled && s.zone == .unverified then some .zoneUnverified
      else if zone == .chilled && s.zone == .locked then some .zoneLocked else rest) =
      if zone = .chilled ∧ s.zoneSells = false then some (zoneRefusal s.zone) else rest := by
  unfold State.zoneSells zoneRefusal
  cases zone <;> cases s.zone <;> rfl

theorem changeRefused_row (p : Payment) (price : Nat) (s : State) : changeRefused p price s =
    (p.coin && s.moneySet.changeMode == .immediate && s.moneySet.overpay == .refuse &&
      !payable s.tubes (fundsFor p s - price)) := by
  unfold changeRefused fundsFor
  cases p.coin
  · rfl
  · simp only [if_true, Bool.and_assoc, Bool.and_comm (!payable _ _)]

/-- The check stage follows the table of R59. -/
theorem vendCheck_eq (number : Nat) (p : Payment) (s : State) :
    vendCheck (spiralOf number) p s = checkTable s number p.coin (fundsFor p s) := by
  unfold checkTable vendCheck
  simp only [firstRow_cons, List.find?_nil, Option.map_none, beq_iff_eq]
  cases spiralOf number with
  | none => rfl
  | some i =>
    simp only [Option.map_some, Option.any_some, Option.isNone_some, Bool.false_eq_true, if_false]
    rw [stateRefusal_rows, zone_rows]
    simp only [changeRefused_row, beq_iff_eq, decide_eq_true_eq, Bool.and_eq_true]
    cases stateRefusal s.spirals[i].state <;> rfl

/-- A VEND that passes its checks names a spiral. -/
theorem spiralOf_of_passed {spiral : Option (Fin 80)} {p : Payment} {s : State} (h : vendCheck spiral p s = none) :
    ∃ i, spiral = some i := by
  cases spiral with
  | none =>
    unfold vendCheck at h
    repeat' split at h
    all_goals simp_all
  | some i => exact ⟨i, rfl⟩

theorem spiralOf_eq_some {number : Nat} {i : Fin 80} : spiralOf number = some i ↔ number = i.val + 1 := by
  unfold spiralOf
  constructor
  · intro h
    split at h
    · obtain rfl := Option.some.inj h
      simp only
      omega
    · simp at h
  · rintro rfl
    exact spiralOf_succ i

/-! ## The selection is committed (R61, R62) -/

/-- A write that leaves state and role as they are raises nothing (R9). -/
theorem putSpiral_quiet {i : Fin 80} {r : Spiral} {s : State} (hstate : r.state = s.spirals[i].state)
    (hrole : r.role = s.spirals[i].role) : putSpiral i r s = { s with spirals := s.spirals.set i r } := by
  simp only [putSpiral, hstate, hrole, and_self, if_true]

/-- The table with the flag of one record set. -/
def markOne (spirals : Vector Spiral 80) (i : Fin 80) : Vector Spiral 80 :=
  spirals.set i { spirals[i] with inFlight := true }

theorem markOne_getElem (spirals : Vector Spiral 80) (i j : Fin 80) :
    (markOne spirals i)[j] = { spirals[j] with inFlight := spirals[j].inFlight || j == i } := by
  by_cases h : j = i
  · subst h
    simp [markOne]
  · have hne : i.val ≠ j.val := fun e => h (Fin.ext e.symm)
    have hflag : (j == i) = false := beq_eq_false_iff_ne.mpr h
    simp [markOne, hflag, Vector.getElem_set_ne _ _ hne]

theorem vector_ext {v w : Vector Spiral 80} (h : ∀ j : Fin 80, v[j] = w[j]) : v = w :=
  Vector.ext fun j hj => h ⟨j, hj⟩

theorem markedInFlight_single (spirals : Vector Spiral 80) (i : Fin 80) :
    markedInFlight spirals i false = markOne spirals i := by
  refine vector_ext fun j => ?_
  rw [markOne_getElem]
  simp [markedInFlight]

theorem markedInFlight_twin (spirals : Vector Spiral 80) (i : Fin 80) :
    markedInFlight spirals i true = markOne (markOne spirals i) (nextSpiral i) := by
  refine vector_ext fun j => ?_
  rw [markOne_getElem, markOne_getElem]
  simp [markedInFlight]

theorem putSpiral_markOne (i : Fin 80) (s : State) :
    putSpiral i { s.spirals[i] with inFlight := true } s = { s with spirals := markOne s.spirals i } :=
  putSpiral_quiet rfl rfl

/-- The flags of a selection are set, and nothing is raised (R13). -/
theorem setInFlight_selection (s : State) (i : Fin 80) (twin : Bool) :
    setInFlight true (selection i twin) s = { s with spirals := markedInFlight s.spirals i twin } := by
  cases twin
  · rw [markedInFlight_single, ← putSpiral_markOne]
    rfl
  · rw [markedInFlight_twin]
    show putSpiral (nextSpiral i) _ (putSpiral i _ s) = _
    rw [putSpiral_markOne i s]
    exact putSpiral_markOne (nextSpiral i) { s with spirals := markOne s.spirals i }

theorem enterClaiming_eq (judge : State → State) (f : Flight) (s : State) :
    enterClaiming judge f s = judge (committed s f s.held s.noticePending) := by
  rw [enterClaiming, setInFlight_selection]
  rfl

/-! ## A TEST_SPIRAL (R78) -/

theorem exec_testCheckStage {s : State} {e : QueueEntry} {rest : List QueueEntry} (hworking : s.working = true)
    (hflight : s.flight = none) (hqueue : s.vendQueue = e :: rest) (hkind : s.cardKind e.slot = some .testSpiral) :
    exec .testCheckStage s = .next (checkTest judgeLoad e { s with vendQueue := rest }) := by
  change Host.Outcome.next (takeQueueHead .testSpiral (checkTest judgeLoad) s) = _
  unfold takeQueueHead
  rw [hqueue, hflight]
  dsimp only
  rw [if_pos ⟨hworking, hkind⟩]

theorem checkTest_passed {s : State} {e : QueueEntry} {i : Fin 80} (hdoor : s.door = .opened) (hdrive : s.driveFaulted = false)
    (hnumber : s.slotByte e.slot 8 = i.val + 1) (hrole : s.spirals[i].role ≠ .follower) (judge : State → State) :
    checkTest judge e s = enterClaiming judge (captured s e.slot e.basket i true false) s := by
  have hspiral := spiralOf_eq_some.mpr hnumber
  have hpasses : testCheck (some i) s = none := by simpa [testCheck, hdoor, hdrive] using hrole
  simp only [checkTest, hspiral, hpasses]
  rfl

theorem checkTest_refused {s : State} {e : QueueEntry} {o : CardOutcome}
    (h : testCheck (spiralOf (s.slotByte e.slot 8)) s = some o) (judge : State → State) :
    checkTest judge e s = complete e.slot o (s.putSlot e.slot 42 (leBytes 65535 2)) := by
  simp only [checkTest, h, Option.getD_some]

/-- The three refusals of a TEST_SPIRAL, in their order (R78). -/
theorem testCheck_refusal {s : State} {number : Nat} {o : CardOutcome}
    (h : (s.door = .closed ∧ o = .serviceOnly) ∨ (s.door = .opened ∧ s.driveFaulted = true ∧ o = .driveFaulted) ∨
      ((s.door = .opened ∧ s.driveFaulted = false) ∧ (∀ i : Fin 80, ¬ (number = i.val + 1 ∧ s.spirals[i].role ≠ .follower)) ∧
        o = .notSelectable)) :
    testCheck (spiralOf number) s = some o := by
  obtain ⟨hdoor, rfl⟩ | ⟨hdoor, hdrive, rfl⟩ | ⟨⟨hdoor, hdrive⟩, hnone, rfl⟩ := h
  · simp [testCheck, hdoor]
  · simp [testCheck, hdoor, hdrive]
  · cases hspiral : spiralOf number with
    | none => simp [testCheck, hdoor, hdrive]
    | some i =>
      have hfollower : s.spirals[i].role = .follower := by
        have := hnone i
        simpa [spiralOf_eq_some.mp hspiral] using this
      simpa [testCheck, hdoor, hdrive] using hfollower

/-- A refused test shows the drop seen time 65,535 behind the revolution time 0 (notes/assumptions/16.md). -/
theorem bodyReads_refusedTest {s : State} (hm : Memory.wf s.mem = true) {slot : Nat} (htaken : s.takenIn slot) :
    bodyReads (s.putSlot slot 42 (leBytes 65535 2)) slot [0, 0, 0xFF, 0xFF] := by
  intro i hi
  have hzero := htaken.2.2 i hi
  rw [readCell_putSlot hm, leBytes_length]
  by_cases hdrop : i = 2 ∨ i = 3
  · rw [if_pos (by simp only [slotAddr]; omega),
      show slotAddr slot (40 + i) - slotAddr slot 42 = i - 2 by simp only [slotAddr]; omega]
    obtain rfl | rfl := hdrop <;> rfl
  · rw [if_neg (by simp only [slotAddr]; omega), hzero]
    by_cases hlow : i < 2
    · obtain rfl | rfl : i = 0 ∨ i = 1 := by omega
      all_goals rfl
    · rw [List.getD_eq_default _ _ (by simp; omega)]

theorem refusedTest_slots {s : State} (hm : Memory.wf s.mem = true) (hready : s.ready = true) {slot : Nat}
    (htaken : s.takenIn slot) (o : CardOutcome) :
    SlotsWritten s (complete slot o (s.putSlot slot 42 (leBytes 65535 2))) [slot] (s.cardsBit slot) ∧
      (complete slot o (s.putSlot slot 42 (leBytes 65535 2))).doneWith slot o [0, 0, 0xFF, 0xFF] := by
  have hput := putSlot_slots hm (slot := slot) (off := 42) (bytes := leBytes 65535 2) (by omega) (by rw [leBytes_length]; omega)
  exact ⟨hput.complete hready o, complete_doneWith hput.wf (bodyReads_refusedTest hm htaken) o⟩

/-- Settles O29: the three refusals in their order, and a test that passes them. -/
theorem theCheckStageDecidesATest : Obligations.TheCheckStageDecidesATest := by
  intro s e rest hm hworking hflight hqueue hkind ready selectable
  refine ⟨_, exec_testCheckStage hworking hflight hqueue hkind, fun o ho htaken => ?_, fun i hpass hselectable => ?_⟩
  · rw [checkTest_refused (s := { s with vendQueue := rest }) (testCheck_refusal ho)]
    obtain ⟨hwritten, hdone⟩ := refusedTest_slots (s := { s with vendQueue := rest }) hm (working_ready hworking) htaken o
    exact ⟨hwritten.frame, hdone, fun a ha => hwritten.bytes a (by simpa using ha)⟩
  · rw [checkTest_passed (s := { s with vendQueue := rest }) hpass.1 hpass.2 hselectable.1 hselectable.2, enterClaiming_eq]
    rfl

end Sys2Proof.Machine

/-! The check stage of a VEND, alone or in a basket (R58 to R62): the end of a vend that is refused, and the commit of one that
passes. -/

namespace Sys2Proof.Machine

/-! ## A VEND that its checks refuse (R55, R58, R59) -/

/-- With no vend in flight, a basket is over when its head's own item has ended and no item of it is queued. -/
theorem overBasket_idle {s : State} (hflight : s.flight = none) : s.overBasket = s.basket.filter s.basketEnds := by
  unfold State.overBasket State.basketEnds
  congr 1
  funext b
  simp [hflight]

/-- The vend `e` is refused with `o` from `u` on, `left` is the basket that it leaves and `closed` the one that completes with
it. -/
structure vendRefused (u t : State) (e : QueueEntry) (o : CardOutcome) (left closed : Option Basket) : Prop where
  frame : t = { u with
    mem := t.mem, basket := if closed.isSome then none else left,
    noticePending := u.noticePending |||
      u.cardsBits ((if e.basket = some e.slot then [] else [e.slot]) ++ (closed.map Basket.head).toList) }
  done : ¬ e.basket = some e.slot ∨ closed.isSome = true → t.doneWith e.slot o noVend
  waits : e.basket = some e.slot → closed = none → t.holder e.slot = .taken ∧
    ∀ i < 24, readCell t.mem (slotAddr e.slot (40 + i)) = noVend.getD i 0
  head : ∀ b ∈ closed, ¬ e.basket = some e.slot → t.holder b.head = .done ∧
    (∀ own ∈ b.headOutcome, t.slotHalf b.head 6 = own.code) ∧ t.slotHalf b.head 50 = field16 b.charged
  bytes : keepsBytes u t (fun a => cardByte e.slot a ∨ ∃ b ∈ closed, cardByte b.head a)

section
variable {u : State} {e : QueueEntry} {o : CardOutcome}

/-- The end of the vend behind its result. -/
def refusedVend (e : QueueEntry) (o : CardOutcome) (u : State) : State :=
  endItem e.slot e.basket o (putVendResult e.slot 0 0 none u)

theorem refusedVend_alone (hm : Memory.wf u.mem = true) (hready : u.ready = true) (htaken : u.takenIn e.slot)
    (hbasket : e.basket = none) : vendRefused u (refusedVend e o u) e o u.basket none := by
  have heq : refusedVend e o u = endVendAtIntake e.slot o u := by simp only [refusedVend, hbasket, endItem, endVendAtIntake]
  obtain ⟨hwritten, hdone⟩ := endVendAtIntake_slots hm hready (noTail_of_takenIn htaken) o
  rw [heq]
  have hitem : ¬ e.basket = some e.slot := by simp [hbasket]
  exact {
    frame := by
      rw [if_neg hitem]
      exact hwritten.frame.trans (by simp [State.cardsBits])
    done := fun _ => hdone
    waits := fun h => absurd h hitem
    head := fun _ h => nomatch h
    bytes := hwritten.keeps fun slot hslot a hb => .inl (List.mem_singleton.mp hslot ▸ hb) }

theorem refusedVend_item {head : Nat} (hm : Memory.wf u.mem = true) (hready : u.ready = true) (hflight : u.flight = none)
    (htaken : u.takenIn e.slot) (hbasket : e.basket = some head) (hslot : e.slot ≠ head)
    (hother : ∀ b ∈ u.basket, b.head ≠ e.slot) :
    vendRefused u (refusedVend e o u) e o u.basket (u.basket.filter u.basketEnds) := by
  have heq : refusedVend e o u = closeBasket (endVendAtIntake e.slot o u) := by
    simp only [refusedVend, hbasket, endItem, if_neg hslot, endVendAtIntake]
  obtain ⟨hwritten, hdone⟩ := endVendAtIntake_slots hm hready (noTail_of_takenIn htaken) o
  rw [heq]
  generalize endVendAtIntake e.slot o u = w at *
  have hover : w.overBasket = u.basket.filter u.basketEnds := by
    rw [overBasket_idle (by rw [hwritten.frame]; exact hflight), hwritten.frame]
    rfl
  obtain ⟨hclosed, hended⟩ := closeBasket_slots hwritten.wf (hwritten.ready.trans hready)
  rw [hover] at hended
  have hne : ∀ b ∈ u.basket.filter u.basketEnds, e.slot ≠ b.head := fun b hb => (hother b (Option.mem_filter_iff.mp hb).1).symm
  have hitem : ¬ e.basket = some e.slot := by
    rw [hbasket]
    exact fun h => hslot (Option.some.inj h).symm
  have hkept : sameSlot w (closeBasket w) e.slot := hclosed.sameSlot fun h => by
    obtain ⟨b, hb, hhead⟩ := mem_overHeads.mp h
    exact hne b (hover ▸ hb) hhead.symm
  have hbytes : keepsBytes w (closeBasket w) (fun a => cardByte e.slot a ∨ ∃ b ∈ u.basket.filter u.basketEnds, cardByte b.head a) :=
    hclosed.keeps fun slot hslot a ha => by
      obtain ⟨b, hb, rfl⟩ := mem_overHeads.mp hslot
      exact .inr ⟨b, hover ▸ hb, ha⟩
  generalize closeBasket w = t at *
  exact {
    frame := by
      rw [if_neg hitem]
      refine hclosed.frame.trans ?_
      rw [hwritten.sameHeaders.cardsBits, basketLeft, overHeads, hover, hwritten.frame]
      simp only [List.singleton_append, cardsBits_cons, BitVec.or_assoc]
    done := fun _ => doneWith_of_sameSlot hkept hdone
    waits := fun h => absurd h hitem
    head := fun b hb _ => ⟨(hended b hb).holder, (hended b hb).outcome, (hended b hb).total⟩
    bytes := .trans (hwritten.keeps fun slot hslot a hb => .inl (List.mem_singleton.mp hslot ▸ hb)) hbytes }

/-- The head's own item waits for its basket, which is over at once when it has no other item. -/
theorem refusedVend_head {amount : Nat} (hm : Memory.wf u.mem = true) (hready : u.ready = true) (hflight : u.flight = none)
    (htaken : u.takenIn e.slot) (hbasket : e.basket = some e.slot) (hopened : u.basket = some ⟨e.slot, amount, 0, none⟩) :
    vendRefused u (refusedVend e o u) e o (some ⟨e.slot, amount, 0, some o⟩)
      ((some ⟨e.slot, amount, 0, some o⟩ : Option Basket).filter u.basketEnds) := by
  generalize hleft : (⟨e.slot, amount, 0, some o⟩ : Basket) = left
  obtain ⟨hhead, hcharged, houtcome⟩ : left.head = e.slot ∧ left.charged = 0 ∧ left.headOutcome = some o := by
    rw [← hleft]
    exact ⟨rfl, rfl, rfl⟩
  have heq : refusedVend e o u = closeBasket { u.putSlot e.slot 40 noVend with basket := some left } := by
    simp only [refusedVend, hbasket, endItem, if_true, putVendResult_noVend, putSlot_frame, hopened, Option.map_some, hleft]
  have hput := putSlot_slots hm (slot := e.slot) (off := 40) (bytes := noVend) (Nat.le_refl _) (by decide)
  have hbody := bodyReads_putSlot hm (slot := e.slot) (result := noVend) (noTail_of_takenIn htaken)
  have hholder : (u.putSlot e.slot 40 noVend).holder e.slot = .taken := by
    have hkept : readCell (u.putSlot e.slot 40 noVend).mem (slotAddr e.slot 0) = readCell u.mem (slotAddr e.slot 0) := by
      rw [readCell_putSlot hm, if_neg (by simp only [slotAddr]; omega)]
    simp only [State.holder, State.slotByte, hkept]
    exact htaken.1
  rw [heq]
  generalize u.putSlot e.slot 40 noVend = w at *
  generalize hx : ({ w with basket := some left } : State) = x
  obtain ⟨hxm, hxready, hxflight, hxbasket⟩ : x.mem = w.mem ∧ x.ready = true ∧ x.flight = none ∧ x.basket = some left := by
    rw [← hx, hput.frame]
    exact ⟨rfl, hready, hflight, rfl⟩
  have hover : x.overBasket = (some left).filter u.basketEnds := by
    rw [overBasket_idle hxflight, hxbasket, ← hx, hput.frame]
    rfl
  obtain ⟨hclosed, hended⟩ := closeBasket_slots (s := x) (by rw [hxm]; exact hput.wf) hxready
  rw [hover] at hended
  have hheads {slot : Nat} (h : slot ∈ overHeads x) : slot = e.slot := by
    obtain ⟨b, hb, rfl⟩ := mem_overHeads.mp h
    rw [hover] at hb
    obtain rfl := Option.some.inj (Option.mem_filter_iff.mp hb).1
    exact hhead
  have hbytes : keepsBytes x (closeBasket x) (cardByte e.slot) := hclosed.keeps fun slot hslot a ha => hheads hslot ▸ ha
  have hopen : (some left).filter u.basketEnds = none → closeBasket x = x := fun h => closeBasket_open (hover.trans h)
  generalize closeBasket x = t at *
  have hitem : e.basket = some e.slot := hbasket
  refine {
    frame := ?_
    done := fun h => ?_
    waits := fun _ h => ?_
    head := fun _ _ h => absurd hitem h
    bytes := ?_ }
  · rw [if_pos hitem]
    refine hclosed.frame.trans ?_
    have hbits : x.cardsBits (overHeads x) = u.cardsBits (overHeads x) := by
      rw [← hput.sameHeaders.cardsBits, ← hx]
      rfl
    rw [hbits, basketLeft, overHeads, hover, hxbasket, ← hx, hput.frame]
    simp only [List.nil_append, show u.noticePending ||| 0 = u.noticePending from BitVec.or_zero]
  · have hsome := h.resolve_left (fun h => h hitem)
    obtain ⟨b, hb⟩ := Option.isSome_iff_exists.mp hsome
    obtain rfl : left = b := Option.some.inj (Option.mem_filter_iff.mp hb).1
    have hend := hended _ hb
    refine ⟨hhead ▸ hend.holder, hhead ▸ hend.outcome o houtcome, fun i hi => ?_⟩
    rw [← hhead, hend.body i hi, hxm, hhead]
    split
    · next htotal =>
      rw [hcharged]
      obtain rfl | rfl := htotal <;> rfl
    · exact hbody i hi
  · rw [hopen h]
    exact ⟨by rw [← hholder, State.holder, State.slotByte, hxm]; rfl, by rw [hxm]; exact hbody⟩
  · refine .trans (hput.keeps fun slot hslot a hb => .inl (List.mem_singleton.mp hslot ▸ hb)) fun a ha => ?_
    rw [← hxm]
    exact hbytes a fun hb => ha (.inl hb)

end

/-! ## The check stage of a VEND (R59 to R62) -/

theorem exec_vendCheckStage {s : State} {e : QueueEntry} {rest : List QueueEntry} (hworking : s.working = true)
    (hflight : s.flight = none) (hqueue : s.vendQueue = e :: rest) (hkind : s.cardKind e.slot = some .vend) :
    exec .vendCheckStage s = .next (checkVend judgeLoad e { s with vendQueue := rest }) := by
  change Host.Outcome.next (takeQueueHead .vend (checkVend judgeLoad) s) = _
  unfold takeQueueHead
  rw [hqueue, hflight]
  dsimp only
  rw [if_pos ⟨hworking, hkind⟩]

/-- The basket that stands as the vend `e` is checked (R58). -/
def openedBasket (e : QueueEntry) (s : State) : Option Basket :=
  if e.basket = some e.slot then some ⟨e.slot, s.slotHalf e.slot 10, 0, none⟩ else s.basket

theorem openBasket_eq (e : QueueEntry) (s : State) : openBasket e s = { s with basket := openedBasket e s } := by
  unfold openBasket openedBasket
  split <;> rfl

theorem paymentOf_coin (e : QueueEntry) (s : State) :
    (paymentOf e s).coin = decide (e.basket = none ∧ s.slotByte e.slot 9 = 0) := by
  unfold paymentOf
  cases e.basket with
  | none => simp only [true_and]; rfl
  | some head => simp

/-- What must cover the price (R60): the available credit, the authorised amount, or what remains of it. -/
theorem fundsFor_paymentOf (e : QueueEntry) (s t : State) (ht : t.available = s.credit - s.held) :
    fundsFor (paymentOf e s) t = if decide (e.basket = none ∧ s.slotByte e.slot 9 = 0) then s.credit - s.held
      else if e.basket = none ∨ e.basket = some e.slot then s.slotHalf e.slot 10
      else (s.basket.map Basket.remaining).getD 0 := by
  rw [fundsFor, paymentOf_coin, ht]
  split
  · rfl
  · unfold paymentOf
    cases e.basket with
    | none => simp
    | some head =>
      by_cases h : e.slot = head
      · subst h; simp
      · simp [h, Ne.symm h]

theorem checkVend_refused {s : State} {e : QueueEntry} {o : CardOutcome}
    (h : vendCheck (spiralOf (s.slotByte e.slot 8)) (paymentOf e s) (openBasket e s) = some o) (judge : State → State) :
    checkVend judge e s = refusedVend e o (openBasket e s) := by
  simp only [checkVend, h, Option.getD_some]
  rfl

theorem putCredit_ready {c h : Nat} {s : State} (hready : s.ready = true) : putCredit c h s =
    { s with credit := c, held := h, noticePending := s.noticePending ||| NoticeClass.money.bit } :=
  raise_ready .money (s := { s with credit := c, held := h }) hready

/-- All checks pass: the price of a COIN_CREDIT vend is held, and the claim is placed (R61, R62). -/
theorem checkVend_passed {s : State} {e : QueueEntry} {i : Fin 80} {coin : Bool} (hready : s.ready = true)
    (hcoin : (paymentOf e s).coin = coin) (h : vendCheck (some i) (paymentOf e s) (openBasket e s) = none)
    (hspiral : spiralOf (s.slotByte e.slot 8) = some i) (judge : State → State) :
    checkVend judge e s = judge (committed (openBasket e s) (captured s e.slot e.basket i false coin)
      (if coin then s.held + s.spirals[i].price else s.held) (s.noticePending ||| moneyIf coin)) := by
  have hflight : newFlight e false i coin (openBasket e s) = captured s e.slot e.basket i false coin := by
    rw [openBasket_eq]
    rfl
  simp only [checkVend, hspiral, h]
  rw [hcoin, enterClaiming_eq, hflight, openBasket_eq]
  cases coin
  · simp only [Bool.false_eq_true, if_false, moneyIf, show s.noticePending ||| 0 = s.noticePending from BitVec.or_zero]
  · simp only [if_true]
    rw [putCredit_ready (s := { s with basket := openedBasket e s }) hready]
    rfl

/-- The checks of the model are those of the table, on the queue without its head and with the basket in flight. -/
theorem vendCheck_table (e : QueueEntry) (s : State) :
    vendCheck (spiralOf (s.slotByte e.slot 8)) (paymentOf e s) (openBasket e s) =
      checkTable s (s.slotByte e.slot 8) (decide (e.basket = none ∧ s.slotByte e.slot 9 = 0))
        (if decide (e.basket = none ∧ s.slotByte e.slot 9 = 0) then s.credit - s.held
          else if e.basket = none ∨ e.basket = some e.slot then s.slotHalf e.slot 10
          else (s.basket.map Basket.remaining).getD 0) := by
  rw [vendCheck_eq, paymentOf_coin, fundsFor_paymentOf e s _ (by rw [openBasket_eq]; rfl), openBasket_eq]
  rfl

/-- The refused vend `e`, alone, at the head of its basket, or an item of it. -/
theorem refusedVend_refused {u : State} {e : QueueEntry} {o : CardOutcome} {amount : Nat} (hm : Memory.wf u.mem = true)
    (hready : u.ready = true) (hflight : u.flight = none) (htaken : u.takenIn e.slot)
    (hopened : e.basket = some e.slot → u.basket = some ⟨e.slot, amount, 0, none⟩)
    (hother : e.basket ≠ some e.slot → ∀ b ∈ u.basket, b.head ≠ e.slot) :
    let left := if e.basket = some e.slot then u.basket.map fun b => { b with headOutcome := some o } else u.basket
    vendRefused u (refusedVend e o u) e o left (if e.basket = none then none else left.filter u.basketEnds) := by
  intro left
  cases hbasket : e.basket with
  | none =>
    have hleft : left = u.basket := if_neg (by simp [hbasket])
    rw [hleft, if_pos rfl]
    exact refusedVend_alone hm hready htaken hbasket
  | some head =>
    rw [if_neg (by simp)]
    by_cases hslot : e.slot = head
    · have hhead : e.basket = some e.slot := by rw [hbasket, hslot]
      have hleft : left = some ⟨e.slot, amount, 0, some o⟩ := by
        simp only [left, if_pos hhead, hopened hhead, Option.map_some]
      rw [hleft]
      exact refusedVend_head hm hready hflight htaken hhead (hopened hhead)
    · have hitem : e.basket ≠ some e.slot := by
        rw [hbasket]
        exact fun h => hslot (Option.some.inj h).symm
      have hleft : left = u.basket := if_neg hitem
      rw [hleft]
      exact refusedVend_item hm hready hflight htaken hbasket hslot (hother hitem)

/-- Settles O28: the table decides; a refusal ends the card or leaves its outcome with the basket, and a pass commits. -/
theorem theCheckStageDecidesAVend : Obligations.TheCheckStageDecidesAVend := by
  intro s e rest hm hworking hflight hqueue hkind hother isHead opened coin funds u refusal
  have hready := working_ready hworking
  have hu : openBasket e { s with vendQueue := rest } = u := openBasket_eq e { s with vendQueue := rest }
  have hcheck := vendCheck_table e { s with vendQueue := rest }
  refine ⟨_, exec_vendCheckStage hworking hflight hqueue hkind, fun o ho htaken => ?_, fun hpass => ?_⟩
  · rw [checkVend_refused (hcheck.trans ho), hu]
    have hrefused := refusedVend_refused (u := u) (e := e) (o := o) (amount := s.slotHalf e.slot 10) hm hready hflight htaken
      (fun h => if_pos h) fun h b hb => hother h b (by rwa [show u.basket = s.basket from if_neg h] at hb)
    exact ⟨hrefused.frame, hrefused.done, hrefused.waits, hrefused.head, hrefused.bytes⟩
  · obtain ⟨i, hspiral⟩ := spiralOf_of_passed (hcheck.trans hpass)
    rw [hspiral] at hcheck
    refine ⟨i, spiralOf_eq_some.mp hspiral, ?_⟩
    rw [checkVend_passed (s := { s with vendQueue := rest }) hready (paymentOf_coin e _) (hcheck.trans hpass) hspiral, hu]
    rfl

end Sys2Proof.Machine

/-! The chain of a basket, from the VEND at the head of the intake list on (R56, R57). -/

namespace Sys2Proof.Machine

/-! ## The chain that the link fields name (R56) -/

section
variable {s : State} {link next left : Nat} {followers seen : List Nat}

theorem linkedVends_cons {f : Nat} {rest : List Nat} : s.linkedVends link (f :: rest) next ↔
    link = f ∧ f < 128 ∧ s.holder f = .linked ∧ s.cardKind f = some .vend ∧ s.failing f = none ∧
      s.linkedVends (s.slotByte f 4) rest next := Iff.rfl

/-- A link that leads to a follower, or on to no 255, is not 255 itself. -/
theorem State.linkedVends.link_ne (h : s.linkedVends link followers next) (hne : followers ≠ [] ∨ next ≠ 255) : link ≠ 255 := by
  cases followers with
  | nil =>
    have hnext : link = next := h
    rw [hnext]
    exact hne.resolve_left (fun h => h rfl)
  | cons f rest =>
    obtain ⟨rfl, hslot, _⟩ := linkedVends_cons.mp h
    omega

/-- The followers of a chain that ends are determined by its first link. -/
theorem State.linkedVends.unique {others : List Nat} (h : s.linkedVends link followers 255) (h' : s.linkedVends link others 255) :
    followers = others := by
  induction followers generalizing link others with
  | nil =>
    cases others with
    | nil => rfl
    | cons f rest => exact absurd h (h'.link_ne (.inl (List.cons_ne_nil f rest)))
  | cons f rest ih =>
    cases others with
    | nil => exact absurd h' (h.link_ne (.inl (List.cons_ne_nil f rest)))
    | cons g more =>
      obtain ⟨rfl, _, _, _, _, hrest⟩ := linkedVends_cons.mp h
      obtain ⟨rfl, _, _, _, _, hmore⟩ := linkedVends_cons.mp h'
      rw [ih hrest hmore]

/-- From each of its followers on the chain is a chain. -/
theorem State.linkedVends.from {f : Nat} {before after : List Nat} (h : s.linkedVends link (before ++ f :: after) next) :
    s.linkedVends f (f :: after) next := by
  induction before generalizing link with
  | nil =>
    obtain ⟨rfl, hrest⟩ := linkedVends_cons.mp h
    exact ⟨rfl, hrest⟩
  | cons g rest ih =>
    obtain ⟨_, _, _, _, _, hrest⟩ := linkedVends_cons.mp h
    exact ih hrest

/-- A chain that ends visits no slot twice. -/
theorem State.linkedVends.nodup (h : s.linkedVends link followers 255) : followers.Nodup := by
  induction followers generalizing link with
  | nil => exact List.nodup_nil
  | cons f rest ih =>
    obtain ⟨rfl, _, _, _, _, hrest⟩ := linkedVends_cons.mp h
    refine List.nodup_cons.mpr ⟨fun hf => ?_, ih hrest⟩
    obtain ⟨before, after, rfl⟩ := List.append_of_mem hf
    have hsame := congrArg List.length (h.unique hrest.from)
    simp at hsame
    omega

/-! ## The walk (R56) -/

/-- The slots that a walk records, behind those it has seen. -/
def visits (followers seen : List Nat) : List Nat := followers.foldl (fun seen f => visit f seen) seen

theorem mem_visit {f g : Nat} : g ∈ visit f seen ↔ g ∈ seen ∨ g = f := by
  unfold visit
  split
  · next h =>
    have hf : f ∈ seen := by simpa using h
    exact ⟨.inl, fun hg => hg.elim id fun e => e ▸ hf⟩
  · simp

theorem mem_visits {g : Nat} : g ∈ visits followers seen ↔ g ∈ seen ∨ g ∈ followers := by
  induction followers generalizing seen with
  | nil => simp [visits]
  | cons f rest ih =>
    have hrest : g ∈ visits rest (visit f seen) ↔ g ∈ visit f seen ∨ g ∈ rest := ih
    change g ∈ visits rest (visit f seen) ↔ _
    rw [hrest, mem_visit, List.mem_cons, or_assoc]

theorem visits_of_nodup (h : (seen ++ followers).Nodup) : visits followers seen = seen ++ followers := by
  induction followers generalizing seen with
  | nil => simp [visits]
  | cons f rest ih =>
    have hnew : f ∉ seen := fun hf => (List.nodup_append.mp h).2.2 f hf f List.mem_cons_self rfl
    have hvisit : visit f seen = seen ++ [f] := by simp [visit, hnew]
    have hassoc : seen ++ f :: rest = (seen ++ [f]) ++ rest := by simp
    change visits rest (visit f seen) = _
    rw [hvisit, ih (hassoc ▸ h), hassoc]

/-- A valid follower is recorded, and the walk goes on at its link. -/
theorem walkChain_follower {f : Nat} (hholder : s.holder f = .linked) (hkind : s.cardKind f = some .vend)
    (hvalid : s.failing f = none) (hlink : s.slotByte f 4 ≠ 255) :
    walkChain s (left + 1) f seen = walkChain s left (s.slotByte f 4) (visit f seen) := by
  rw [walkChain, if_neg (by simp [hholder]), if_neg (by simp [hkind, hvalid]), if_neg hlink]

/-- The walk along valid followers. -/
theorem walkChain_along (h : s.linkedVends link followers next) (hnext : next ≠ 255) (hleft : followers.length ≤ left) :
    walkChain s left link seen = walkChain s (left - followers.length) next (visits followers seen) := by
  induction followers generalizing link left seen with
  | nil =>
    have hlink : link = next := h
    rw [hlink]
    rfl
  | cons f rest ih =>
    obtain ⟨rfl, _, hholder, hkind, hvalid, hrest⟩ := linkedVends_cons.mp h
    obtain ⟨left, rfl⟩ : ∃ n, left = n + 1 := ⟨left - 1, by simp at hleft; omega⟩
    rw [walkChain_follower hholder hkind hvalid (hrest.link_ne (.inr hnext)),
      ih hrest (by simpa using hleft), List.length_cons, Nat.add_sub_add_right]
    rfl

/-- The walk of a chain that ends at a link of 255. -/
theorem walkChain_good (h : s.linkedVends link followers 255) (hne : followers ≠ []) (hleft : followers.length ≤ left) :
    walkChain s left link seen = (visits followers seen, true) := by
  induction followers generalizing link left seen with
  | nil => exact absurd rfl hne
  | cons f rest ih =>
    obtain ⟨rfl, _, hholder, hkind, hvalid, hrest⟩ := linkedVends_cons.mp h
    obtain ⟨left, rfl⟩ : ∃ n, left = n + 1 := ⟨left - 1, by simp at hleft; omega⟩
    by_cases hlast : rest = []
    · subst hlast
      have hend : s.slotByte link 4 = 255 := hrest
      rw [walkChain, if_neg (by simp [hholder]), if_neg (by simp [hkind, hvalid]), if_pos hend]
      rfl
    · rw [walkChain_follower hholder hkind hvalid (hrest.link_ne (.inl hlast)), ih hrest hlast (by simpa using hleft)]
      rfl

end

/-! ## The walk after the take of the head -/

theorem failing_vend {s t : State} (h : sameHeaders s t) {slot : Nat} (hkind : s.cardKind slot = some .vend) :
    t.failing slot = s.failing slot := by
  have hkind' : t.cardKind slot = some .vend := (h.cardKind slot).trans hkind
  simp only [State.failing, hkind, hkind', requestChecks, byteIn, h slot 4 (by omega), h slot 5 (by omega),
    h slot 9 (by omega)]

theorem State.linkedVends.congr {s t : State} (hheaders : sameHeaders s t) {followers : List Nat} {link next : Nat}
    (hholders : ∀ f ∈ followers, t.holder f = s.holder f) (h : s.linkedVends link followers next) :
    t.linkedVends link followers next := by
  induction followers generalizing link with
  | nil => exact h
  | cons f rest ih =>
    obtain ⟨hlink, hslot, hholder, hkind, hvalid, hrest⟩ := linkedVends_cons.mp h
    refine ⟨hlink, hslot, (hholders f List.mem_cons_self).trans hholder, (hheaders.cardKind f).trans hkind,
      (failing_vend hheaders hkind).trans hvalid, ?_⟩
    rw [hheaders f 4 (by omega)]
    exact ih (fun g hg => hholders g (List.mem_cons_of_mem _ hg)) hrest

/-- The take of the head of the intake list writes its card alone (R29). -/
theorem takeHead_slots {s : State} (hm : Memory.wf s.mem = true) (slot : Nat) :
    SlotsWritten { s with intake := s.intake.tail } (takeHead slot s) [slot] 0 := by
  refine ⟨?_, takeHead_wf hm slot, fun a ha => ?_⟩
  · rw [takeHead_eq, List.drop_one, show ∀ v : BitVec 9, v ||| 0 = v from fun _ => BitVec.or_zero]
  · exact readCell_takeHead_kept hm fun hb => ha ⟨slot, List.mem_singleton_self slot, hb⟩

theorem takeHead_headers {s : State} (hm : Memory.wf s.mem = true) (slot : Nat) : sameHeaders s (takeHead slot s) :=
  (takeHead_slots hm slot).sameHeaders

theorem takeHead_other {s : State} (hm : Memory.wf s.mem = true) {slot other : Nat} (h : other ≠ slot) :
    sameSlot s (takeHead slot s) other := (takeHead_slots hm slot).sameSlot (by simpa using h)

theorem exec_basket {s : State} {head : Nat} (hhead : s.validHead .vend head) (hlink : s.slotByte head 4 ≠ 255) :
    exec .vend s = .next (takeBasket head (takeHead head s)) := by
  change Host.Outcome.next (dispatch .vend takeVend s) = _
  rw [dispatch_valid hhead, takeVend, if_neg]
  rwa [slotByte_takeHead hhead.wf (by omega)]

theorem chainOf_takeHead {s : State} {head : Nat} (hm : Memory.wf s.mem = true) (hpaid : s.slotByte head 9 ≠ 0) :
    chainOf head (takeHead head s) = walkChain (takeHead head s) 7 (s.slotByte head 4) [] := by
  rw [chainOf, slotByte_takeHead hm (by omega), if_neg hpaid, slotByte_takeHead hm (by omega)]

theorem State.linkedVends.afterTake {s : State} {head link next : Nat} {followers : List Nat} (hm : Memory.wf s.mem = true)
    (hhead : head ∉ followers) (h : s.linkedVends link followers next) :
    (takeHead head s).linkedVends link followers next :=
  h.congr (takeHead_headers hm head) fun f hf => (takeHead_other hm (other := f) (ne_of_mem_of_not_mem hf hhead)).holder

/-! ## The cards of a chain end with their head (R56, R57) -/

/-- A card that is taken and ends at once with nothing charged. -/
theorem takeAndEnd_slots {s : State} (hm : Memory.wf s.mem = true) (hready : s.ready = true) (slot : Nat) (o : CardOutcome) :
    SlotsWritten s (endVendAtIntake slot o (takeSlot slot s)) [slot] (s.cardsBit slot) ∧
      (endVendAtIntake slot o (takeSlot slot s)).doneWith slot o noVend := by
  obtain ⟨htake, htaken⟩ := takeSlot_slots hm slot
  obtain ⟨hend, hdone⟩ := endVendAtIntake_slots htake.wf (htake.ready.trans hready) (noTail_of_takenIn htaken) o
  refine ⟨(htake.trans hend).mono (by simp) ?_, hdone⟩
  rw [htake.sameHeaders.cardsBit, show ∀ v : BitVec 9, 0 ||| v = v from fun _ => BitVec.zero_or]

/-- A follower of a bad chain ends CHAIN_ABORTED, with a vend result if it is a VEND (R56). -/
theorem abortFollower_slots {s : State} (hm : Memory.wf s.mem = true) (hready : s.ready = true) (slot : Nat) :
    SlotsWritten s (abortFollower slot s) [slot] (s.cardsBit slot) ∧
      (abortFollower slot s).doneWith slot .chainAborted (if s.cardKind slot = some .vend then noVend else []) := by
  obtain ⟨htake, htaken⟩ := takeSlot_slots hm slot
  unfold abortFollower
  dsimp only
  rw [htake.sameHeaders.cardKind]
  split
  · exact takeAndEnd_slots hm hready slot .chainAborted
  · exact ⟨htake.complete hready .chainAborted, complete_doneWith htake.wf (fun i hi => htaken.2.2 i hi) .chainAborted⟩

/-- The head ends behind its followers: `w` is the state in which those have ended. -/
theorem endHead_slots {s w : State} {head : Nat} {l : List Nat} (hm : Memory.wf s.mem = true) (hready : s.ready = true)
    (hl : SlotsWritten (takeHead head s) w l ((takeHead head s).cardsBits l)) (hhead : head ∉ l) (o : CardOutcome) :
    SlotsWritten { s with intake := s.intake.tail } (endVendAtIntake head o w) (head :: l) (s.cardsBits (head :: l)) ∧
      (endVendAtIntake head o w).doneWith head o noVend ∧ ∀ f ∈ l, sameSlot w (endVendAtIntake head o w) f := by
  have htake := takeHead_slots hm head
  have htail : noTail w head := (hl.sameSlot hhead).noTail (noTail_of_takenIn (takeHead_taken hm head))
  have hwready : w.ready = true := hl.ready.trans (htake.ready.trans hready)
  obtain ⟨hend, hdone⟩ := endVendAtIntake_slots hl.wf hwready htail o
  refine ⟨(htake.trans (hl.trans hend)).mono ?_ ?_, hdone, fun f hf => hend.sameSlot ?_⟩
  · intro slot hslot
    simp only [List.mem_append, List.mem_cons] at hslot ⊢
    tauto
  · rw [(hl.sameHeaders).cardsBit, (takeHead_headers hm head).cardsBit, (takeHead_headers hm head).cardsBits, cardsBits_cons,
      show ∀ v : BitVec 9, 0 ||| v = v from fun _ => BitVec.zero_or, BitVec.or_comm]
  · exact fun h => hhead (List.mem_singleton.mp h ▸ hf)

/-- The chain joins the queue: its followers are taken, and the entries stand behind those that waited (R57). -/
theorem placeChain_slots {s : State} {head : Nat} {followers : List Nat} (hm : Memory.wf s.mem = true)
    (hready : s.ready = true) (hhead : head ∉ followers) :
    let t := placeChain head followers (takeHead head s)
    t = { s with intake := s.intake.tail, mem := t.mem,
                 vendQueue := s.vendQueue ++ (head :: followers).map fun slot => ⟨slot, some head⟩ } ∧
      keepsBytes s t (fun a => ∃ slot ∈ head :: followers, cardByte slot a) ∧
      ∀ slot ∈ head :: followers, t.takenIn slot := by
  intro t
  have htake := takeHead_slots hm head
  obtain ⟨hforEach, htaken⟩ := forEach_take (l := followers) htake.wf (htake.ready.trans hready)
  have hkept : sameSlot (takeHead head s) (forEach takeSlot followers (takeHead head s)) head := hforEach.sameSlot hhead
  have hframe := (htake.trans hforEach).frame
  have hbytes := (htake.trans hforEach).bytes
  refine ⟨?_, hbytes, fun slot hslot => ?_⟩
  · simp only [t, placeChain]
    rw [hframe]
    simp
  · obtain rfl | hf := List.mem_cons.mp hslot
    · exact takenIn_congr (by rfl) (takenIn_of_sameSlot hkept (takeHead_taken hm slot))
    · exact takenIn_congr (by rfl) (htaken slot hf)

/-- Settles O15: the walk finds the whole chain, and the free entries decide. -/
theorem aGoodChainIsPlacedWholeOrNotAtAll : Obligations.AGoodChainIsPlacedWholeOrNotAtAll := by
  intro s head followers hhead hlink hpaid hchain hlength hnot
  have hm := hhead.wf
  have hready := hhead.ready
  have hne : followers ≠ [] := by
    rintro rfl
    exact hlink hchain
  have hwalk : chainOf head (takeHead head s) = (followers, true) := by
    rw [chainOf_takeHead hm hpaid, walkChain_good (hchain.afterTake hm hnot) hne hlength,
      visits_of_nodup (by simpa using hchain.nodup), List.nil_append]
  have hroom : (takeHead head s).vendRoom = 16 - s.vendQueue.length := by
    rw [takeHead_eq]
    rfl
  refine ⟨_, exec_basket hhead hlink, ?_⟩
  rw [takeBasket, hwalk]
  dsimp only
  rw [hroom]
  by_cases hfits : followers.length + 1 + s.vendQueue.length ≤ 16
  · rw [if_pos (by omega)]
    obtain ⟨hframe, hbytes, htaken⟩ := placeChain_slots hm hready hnot
    exact ⟨hbytes, fun _ => ⟨hframe, htaken⟩, fun h => by omega⟩
  · rw [if_neg (by omega)]
    have htake := takeHead_slots hm head
    obtain ⟨hall, hdone⟩ := forEach_done (step := fun slot s => endVendAtIntake slot .queueFull (takeSlot slot s))
      (o := .queueFull) (result := fun _ => noVend) (pre := fun _ _ => True) (fun _ h => h) (fun _ => trivial) (l := followers)
      htake.wf (htake.ready.trans hready) (fun _ _ => trivial) fun f _ t hwt hrt _ _ => takeAndEnd_slots hwt hrt f .queueFull
    obtain ⟨hwritten, hheadDone, hkept⟩ := endHead_slots hm hready hall hnot .queueFull
    refine ⟨hwritten.bytes, fun h => absurd h hfits, fun _ => ⟨hwritten.frame, fun slot hslot => ?_⟩⟩
    obtain rfl | hf := List.mem_cons.mp hslot
    · exact hheadDone
    · exact doneWith_of_sameSlot (hkept slot hf) (hdone slot hf)

/-! ## A bad chain (R56) -/

/-- What makes a chain bad, behind the followers `visited`, and the slots that are aborted for it. -/
def badBehind (s : State) (head next : Nat) (visited aborted : List Nat) : Prop :=
  (visited.length ≤ 7 ∧ (next = head ∨ s.holder next ≠ .linked) ∧ aborted = visited) ∨
  (visited.length = 7 ∧ aborted = visited) ∨
  (visited.length < 7 ∧ next ≠ head ∧ s.holder next = .linked ∧
    (s.cardKind next ≠ some .vend ∨ s.failing next ≠ none) ∧ aborted = visited ++ [next])

/-- A walk that meets a slot which is no LINKED one ends bad there. -/
theorem walkChain_notLinked {s : State} {slot : Nat} (h : s.holder slot ≠ .linked) (left : Nat) (seen : List Nat) :
    walkChain s left slot seen = (seen, false) := by
  cases left with
  | zero => rfl
  | succ left => rw [walkChain, if_pos h]

/-- The walk of a bad chain records exactly the slots that are aborted. -/
theorem walkChain_bad {s : State} {head next : Nat} {visited aborted : List Nat} (hm : Memory.wf s.mem = true)
    (hchain : s.linkedVends (s.slotByte head 4) visited next) (hnot : head ∉ visited) (hnext : next ≠ 255)
    (hbad : badBehind s head next visited aborted) :
    head ∉ aborted ∧ ∃ seen, walkChain (takeHead head s) 7 (s.slotByte head 4) [] = (seen, false) ∧
      ∀ f, f ∈ seen ↔ f ∈ aborted := by
  have hlength : visited.length ≤ 7 := by
    obtain ⟨h, _⟩ | ⟨h, _⟩ | ⟨h, _⟩ := hbad <;> omega
  rw [walkChain_along (hchain.afterTake hm hnot) hnext hlength]
  have hmem (f : Nat) : f ∈ visits visited [] ↔ f ∈ visited := by simp [mem_visits]
  obtain ⟨_, hunlinked, rfl⟩ | ⟨hfull, rfl⟩ | ⟨hshort, hother, hholder, hinvalid, rfl⟩ := hbad
  · refine ⟨hnot, _, walkChain_notLinked ?_ _ _, hmem⟩
    obtain rfl | hunlinked := hunlinked
    · rw [(takeHead_taken hm next).1]
      decide
    · by_cases hhead : next = head
      · subst hhead
        rw [(takeHead_taken hm next).1]
        decide
      · rwa [(takeHead_other hm hhead).holder]
  · refine ⟨hnot, _, ?_, hmem⟩
    rw [hfull]
    rfl
  · refine ⟨by simp [hnot, Ne.symm hother], visit next (visits visited []), ?_, fun f => by
      rw [mem_visit, hmem, List.mem_append, List.mem_singleton]⟩
    obtain ⟨left, hleft⟩ : ∃ left, 7 - visited.length = left + 1 := ⟨6 - visited.length, by omega⟩
    have hheaders := takeHead_headers hm head
    rw [hleft, walkChain, if_neg (by rw [(takeHead_other hm hother).holder]; simp [hholder]), if_pos]
    by_cases hkind : s.cardKind next = some .vend
    · right
      rw [failing_vend hheaders hkind]
      exact Option.isSome_iff_ne_none.mpr (hinvalid.resolve_left fun h => h hkind)
    · left
      rwa [hheaders.cardKind]

/-- Settles O16: the walk says what it visited, and each of those ends before the head does. -/
theorem aBadChainAbortsWhatItVisited : Obligations.ABadChainAbortsWhatItVisited := by
  intro s head next visited aborted hhead hlink hbad
  have hm := hhead.wf
  have hready := hhead.ready
  obtain ⟨hnot, seen, hwalk, hseen⟩ : head ∉ aborted ∧ ∃ seen, chainOf head (takeHead head s) = (seen, false) ∧
      ∀ f, f ∈ seen ↔ f ∈ aborted := by
    obtain ⟨hcoin, rfl⟩ | ⟨hpaid, hchain, hvisited, hnext, hbehind⟩ := hbad
    · refine ⟨List.not_mem_nil, [], ?_, fun _ => Iff.rfl⟩
      rw [chainOf, slotByte_takeHead hm (by omega), if_pos hcoin]
    · rw [chainOf_takeHead hm hpaid]
      exact walkChain_bad hm hchain hvisited hnext hbehind
  have hheaders := takeHead_headers hm head
  have htake := takeHead_slots hm head
  obtain ⟨hall, hdone⟩ := forEach_done (step := abortFollower) (o := .chainAborted)
    (result := fun f => if s.cardKind f = some .vend then noVend else []) (pre := fun _ _ => True) (fun _ h => h)
    (fun _ => trivial) (l := seen) htake.wf (htake.ready.trans hready) (fun _ _ => trivial) fun f _ t hwt hrt hht _ => by
      rw [← (hheaders.trans hht).cardKind]
      exact abortFollower_slots hwt hrt f
  obtain ⟨hwritten, hheadDone, hkept⟩ := endHead_slots hm hready hall (fun h => hnot ((hseen head).mp h)) .badChain
  have hsame (slot : Nat) : slot ∈ head :: seen ↔ slot ∈ head :: aborted := by simp [hseen]
  have hresult := hwritten.mono (fun slot h => (hsame slot).mp h) (cardsBits_congr_mem hsame)
  refine ⟨_, exec_basket hhead hlink, ?_⟩
  rw [takeBasket, hwalk]
  exact ⟨hresult.frame, hheadDone,
    fun f hf => doneWith_of_sameSlot (hkept f ((hseen f).mpr hf)) (hdone f ((hseen f).mpr hf)), hresult.bytes⟩

end Sys2Proof.Machine

/-! The CANCEL of a vend (R73 to R75): the cards that it takes out of the queue, the basket that nothing is left of, and its own
card behind them. -/

namespace Sys2Proof.Machine

/-! ## Cards that are cancelled (R75) -/

/-- The basket in flight is judged by fields that no written card changes. -/
theorem SlotsWritten.overBasket {s t : State} {slots : List Nat} {n : BitVec 9} (h : SlotsWritten s t slots n) :
    t.overBasket = s.overBasket := by
  rw [h.frame]
  rfl

theorem basketLeft_slots {s t : State} {slots : List Nat} {n : BitVec 9} (h : SlotsWritten s t slots n) :
    SlotsWritten (basketLeft s) (basketLeft t) slots n := by
  refine ⟨?_, h.wf, h.bytes⟩
  unfold basketLeft
  rw [h.overBasket]
  conv_lhs => rw [h.frame]

/-- The cards listed leave the vend queue. -/
def leaveQueue (items : List Nat) (s : State) : State :=
  { s with vendQueue := s.vendQueue.filter fun e => !items.contains e.slot }

theorem leaveQueue_congr {items l : List Nat} (hl : ∀ f, f ∈ l ↔ f ∈ items) (s : State) :
    leaveQueue l s = leaveQueue items s := by
  have hsame (e : QueueEntry) : l.contains e.slot = items.contains e.slot := by
    rw [Bool.eq_iff_iff, List.contains_iff_mem, List.contains_iff_mem, hl]
  simp only [leaveQueue, hsame]

section
variable {s t : State} {items l : List Nat}

/-- The cards that leave the queue end CANCELLED with nothing charged. -/
theorem cancelQueued_slots (hm : Memory.wf s.mem = true) (hready : s.ready = true) (hl : ∀ f, f ∈ l ↔ f ∈ items)
    (htail : ∀ f ∈ items, noTail s f) :
    SlotsWritten (leaveQueue items s) (cancelQueued l s) items (s.cardsBits items) ∧
      ∀ f ∈ items, (cancelQueued l s).doneWith f .cancelled noVend := by
  obtain ⟨hwritten, hdone⟩ := forEach_done (step := fun slot s => endVendAtIntake slot .cancelled s) (o := .cancelled)
    (result := fun _ => noVend) (pre := fun f t => noTail t f) (l := l) (s := leaveQueue l s) sameSlot.noTail
    (fun h => noTail_of_doneWith h (by decide)) hm hready (fun f hf => htail f ((hl f).mp hf))
    fun f _ t hwt hrt _ hft => endVendAtIntake_slots hwt hrt hft .cancelled
  exact ⟨leaveQueue_congr hl s ▸ hwritten.mono (fun f hf => (hl f).mp hf) (cardsBits_congr_mem hl),
    fun f hf => hdone f ((hl f).mpr hf)⟩

/-- Behind cards that are written, the basket in flight completes if nothing of it is left. -/
theorem closeBasket_behind (h : SlotsWritten s t l (s.cardsBits l)) (hready : s.ready = true) :
    SlotsWritten (basketLeft s) (closeBasket t) (l ++ overHeads s) (s.cardsBits (l ++ overHeads s)) ∧
      (∀ b ∈ s.overBasket, headEnded t (closeBasket t) b) ∧
      ∀ f ∉ overHeads s, sameSlot t (closeBasket t) f := by
  obtain ⟨hclose, hended⟩ := closeBasket_slots h.wf (h.ready.trans hready)
  have hheads : overHeads t = overHeads s := by rw [overHeads, h.overBasket]; rfl
  rw [hheads] at hclose
  rw [h.overBasket] at hended
  refine ⟨((basketLeft_slots h).trans hclose).mono (fun _ hf => hf) ?_, hended, fun _ hf => hclose.sameSlot hf⟩
  rw [h.sameHeaders.cardsBits, cardsBits_append]

/-- A CANCEL answers with the number of cards it moved (R73). -/
theorem endCancel_slots (hm : Memory.wf s.mem = true) (hready : s.ready = true) {slot : Nat} (hbody : bodyReads s slot [])
    (n : Nat) (o : CardOutcome) :
    SlotsWritten s (endCancel slot n o s) [slot] (s.cardsBit slot) ∧
      (endCancel slot n o s).doneWith slot o [BitVec.ofNat 8 n] :=
  complete_putSlot hm hready (by simp) (fun i hi _ => hbody i hi) o

end

/-- The cards in `l` leave the queue and end, the basket in flight completes if nothing of it is left, and the CANCEL in `slot`
answers with `n`. -/
theorem cancelled_cards {u : State} (hm : Memory.wf u.mem = true) (hready : u.ready = true) {slot : Nat} (n : Nat)
    {items l : List Nat} (hl : ∀ f, f ∈ l ↔ f ∈ items)
    (hitems : ∀ f ∈ items, f ≠ slot ∧ noTail u f ∧ ∀ b ∈ u.basket, b.head ≠ f) (hslot : bodyReads u slot [])
    (hheads : ∀ b ∈ u.basket, b.head ≠ slot) :
    cardsCancelled u (endCancel slot n .ok (closeBasket (cancelQueued l u))) slot items n := by
  obtain ⟨hqueued, hdone⟩ := cancelQueued_slots hm hready hl fun f hf => (hitems f hf).2.1
  obtain ⟨hclosed, hended, hbeside⟩ := closeBasket_behind hqueued hready
  have hinFlight {b : Basket} (hb : b ∈ (leaveQueue items u).overBasket) : b ∈ u.basket :=
    (Option.filter_eq_some_iff.mp hb).1
  have hnotOver {f : Nat} (hf : ∀ b ∈ u.basket, b.head ≠ f) : f ∉ overHeads (leaveQueue items u) := fun h => by
    obtain ⟨b, hb, hbf⟩ := mem_overHeads.mp h
    exact hf b (hinFlight hb) hbf
  have hkept : sameSlot u (closeBasket (cancelQueued l u)) slot := hclosed.sameSlot fun h =>
    (List.mem_append.mp h).elim (fun hf => (hitems slot hf).1 rfl) (hnotOver hheads)
  obtain ⟨hown, hanswered⟩ := endCancel_slots hclosed.wf (hclosed.ready.trans hready)
    (fun i hi => (hkept _ (by omega)).trans (hslot i hi)) n .ok
  have hother {f : Nat} (hf : f ≠ slot) := hown.sameSlot (slot := f) (by simpa using hf)
  have hwritten : SlotsWritten (basketLeft (leaveQueue items u)) (endCancel slot n .ok (closeBasket (cancelQueued l u)))
      (items ++ overHeads (leaveQueue items u) ++ [slot]) (u.cardsBits (items ++ overHeads (leaveQueue items u) ++ [slot])) := by
    refine (hclosed.trans hown).mono (fun _ hf => hf) ?_
    rw [hclosed.sameHeaders.cardsBit, cardsBits_append u, cardsBits_cons u slot []]
    exact congrArg _ BitVec.or_zero.symm
  refine ⟨fun f hf => ?_, hanswered, ⟨fun b hb => ?_, hwritten.frame⟩, hwritten.keeps fun f hf a ha => ?_⟩
  · obtain ⟨hne, _, hnoHead⟩ := hitems f hf
    exact doneWith_of_sameSlot ((hbeside f (hnotOver hnoHead)).trans (hother hne)) (hdone f hf)
  · have hend := hended b hb
    have hsame := hother (hheads b (hinFlight hb))
    exact ⟨hsame.holder.trans hend.holder, fun o ho => (hsame.half (by omega)).trans (hend.outcome o ho),
      (hsame.half (by omega)).trans hend.total⟩
  · obtain hf | rfl := (List.mem_append.mp hf).imp_right List.mem_singleton.mp
    · obtain hf | hf := List.mem_append.mp hf
      · exact .inl ⟨f, hf, ha⟩
      · obtain ⟨b, hb, rfl⟩ := mem_overHeads.mp hf
        exact .inr (.inr ⟨b, hinFlight hb, ha⟩)
    · exact .inr (.inl ha)

/-! ## A CANCEL is judged (R73) -/

theorem exec_cancel {s : State} {slot : Nat} (h : s.validHead .cancel slot) :
    exec .cancel s = .next (applyCancel slot (takeHead slot s)) := by
  change Host.Outcome.next (dispatch .cancel applyCancel s) = _
  rw [dispatch_valid h]

theorem State.validHead.cardKind {s : State} {k : CardKind} {slot : Nat} (h : s.validHead k slot) :
    s.cardKind slot = some k := by
  obtain ⟨⟨_, _, _, hkind⟩, _⟩ := h
  exact hkind

section
variable {s : State} {target : Nat}

theorem cancelTarget_notCancellable (h : s.holder target ≠ .taken ∨ s.cardKind target ≠ some .vend) :
    cancelTarget target s = .notCancellable := if_pos h

theorem cancelTarget_queued {e : QueueEntry} (hholder : s.holder target = .taken) (hkind : s.cardKind target = some .vend)
    (hqueued : s.vendQueue.find? (fun e => e.slot == target) = some e) : cancelTarget target s = .queued e.basket := by
  rw [cancelTarget, if_neg (by simp [hholder, hkind]), hqueued]

theorem cancelTarget_claiming {f : Flight} (hholder : s.holder target = .taken) (hkind : s.cardKind target = some .vend)
    (hqueued : s.vendQueue.find? (fun e => e.slot == target) = none) (hflight : s.flight = some f) (hslot : f.slot = target)
    (hstage : f.stage = .claiming) : cancelTarget target s = .claiming f.basket := by
  rw [cancelTarget, if_neg (by simp [hholder, hkind]), hqueued, hflight]
  exact if_pos ⟨hslot, hstage⟩

theorem cancelTarget_tooLate (hholder : s.holder target = .taken) (hkind : s.cardKind target = some .vend)
    (hqueued : s.vendQueue.find? (fun e => e.slot == target) = none)
    (hflight : ∀ f ∈ s.flight, f.slot = target → f.stage ≠ .claiming) : cancelTarget target s = .tooLate := by
  rw [cancelTarget, if_neg (by simp [hholder, hkind]), hqueued]
  cases hf : s.flight with
  | none => rfl
  | some f => exact if_neg fun ⟨hslot, hstage⟩ => hflight f hf hslot hstage

/-! What a CANCEL does with each of them. -/

section
variable {slot : Nat} {basket : Option Nat} (htarget : s.slotByte slot 8 = target)
include htarget

theorem applyCancel_notCancellable (h : cancelTarget target s = .notCancellable) :
    applyCancel slot s = endCancel slot 0 .notCancellable s := by
  simp only [applyCancel, htarget, h]

theorem applyCancel_tooLate (h : cancelTarget target s = .tooLate) : applyCancel slot s = endCancel slot 0 .tooLate s := by
  simp only [applyCancel, htarget, h]

theorem applyCancel_queued (h : cancelTarget target s = .queued basket) :
    applyCancel slot s = endCancel slot (basketItems target basket s).length .ok
      (closeBasket (cancelQueued (headLast target basket (basketItems target basket s)) s)) := by
  simp only [applyCancel, htarget, h]

theorem applyCancel_claiming (h : cancelTarget target s = .claiming basket) :
    applyCancel slot s = endCancel slot ((basketItems target basket s).length + 1) .ok
      (closeBasket (cancelQueued (basketItems target basket s) (verdict judgeLoad .cancelled s))) := by
  simp only [applyCancel, htarget, h]

end

/-- From a queued target on, the items of its basket. -/
theorem basketItems_queued {e : QueueEntry} (hqueued : s.vendQueue.find? (fun e => e.slot == target) = some e) :
    basketItems target e.basket s = s.cancelItems e := by
  have hslot : e.slot = target := by simpa using List.find?_some hqueued
  have hany : (s.vendQueue.any fun e => e.slot == target) = true :=
    List.any_eq_true.mpr ⟨e, List.mem_of_find?_eq_some hqueued, by simp [hslot]⟩
  unfold basketItems State.cancelItems
  rw [hany, hslot]
  cases e.basket <;> rfl

/-- The items of a basket whose target is not queued. -/
theorem basketItems_unqueued (hqueued : s.vendQueue.find? (fun e => e.slot == target) = none) (basket : Option Nat) :
    basketItems target basket s = match basket with
      | none => []
      | some head => (s.vendQueue.filter fun e => e.basket == some head).map QueueEntry.slot := by
  have hany : (s.vendQueue.any fun e => e.slot == target) = false := by
    rw [List.find?_eq_none] at hqueued
    exact List.any_eq_false.mpr hqueued
  unfold basketItems
  rw [hany]
  cases basket with
  | none => rfl
  | some head =>
    rw [List.dropWhile_eq_self_iff]
    simp

theorem mem_headLast {l : List Nat} {basket : Option Nat} {f : Nat} : f ∈ headLast target basket l ↔ f ∈ l := by
  unfold headLast
  split
  · next h =>
    have hmem : target ∈ l := by simpa using h.2
    by_cases hf : f = target
    · simp [hf, hmem]
    · simp [hf]
  · rfl

end

/-! ## The take of the CANCEL touches its own card alone -/

theorem cancelTarget_takeHead {s : State} {slot target : Nat} (hm : Memory.wf s.mem = true) (hne : target ≠ slot) :
    cancelTarget target (takeHead slot s) = cancelTarget target s := by
  unfold cancelTarget
  rw [(takeHead_other hm hne).holder, (takeHead_headers hm slot).cardKind, takeHead_eq]

theorem basketItems_takeHead (target slot : Nat) (basket : Option Nat) (s : State) :
    basketItems target basket (takeHead slot s) = basketItems target basket s := by
  unfold basketItems
  rw [takeHead_eq]

theorem takeHead_frame (slot : Nat) (s : State) :
    takeHead slot s = { s with intake := s.intake.tail, mem := (takeHead slot s).mem } := by
  rw [takeHead_eq, List.drop_one]

theorem takeHead_basket (slot : Nat) (s : State) : (takeHead slot s).basket = s.basket := by rw [takeHead_eq]

theorem payoutByte_takeHead (slot a : Nat) (s : State) : payoutByte (takeHead slot s) a ↔ payoutByte s a := by
  have hpayout : (takeHead slot s).payout = s.payout := by rw [takeHead_eq]
  unfold payoutByte
  rw [hpayout]

theorem cancelTarget_self {s : State} {slot : Nat} (h : s.validHead .cancel slot) :
    cancelTarget slot (takeHead slot s) = .notCancellable := by
  refine cancelTarget_notCancellable (.inr ?_)
  rw [(takeHead_headers h.wf slot).cardKind, h.cardKind]
  decide

/-! ## The cancels of R73 -/

/-- A CANCEL that is refused changes nothing but its own card. -/
theorem endCancel_answered {s : State} {slot : Nat} (h : s.validHead .cancel slot) (o : CardOutcome) :
    answered s (endCancel slot 0 o (takeHead slot s)) slot o [] s := by
  obtain ⟨⟨hholder, hcode, hbody⟩, hkept, heq⟩ := complete_answered (u := s) (result := [0]) h.wf h.ready (by decide) o
  rw [endCancel, putSlot_takeHead]
  refine ⟨⟨hholder, hcode, fun i hi => (hbody i hi).trans ?_⟩, hkept, heq⟩
  cases i <;> rfl

/-- Settles O17, by the first line of R73 that applies. -/
theorem aCancelIsJudgedByItsTarget : Obligations.ACancelIsJudgedByItsTarget := by
  intro s slot target hhead htarget
  have hm := hhead.wf
  have hread : (takeHead slot s).slotByte slot 8 = target := (slotByte_takeHead hm (by omega)).trans htarget
  refine ⟨_, exec_cancel hhead, fun hrefused => ?_, fun hother htaken hvend => ⟨fun hunqueued hstage => ?_, ?_⟩⟩
  · have hjudged : cancelTarget target (takeHead slot s) = .notCancellable := by
      by_cases hown : target = slot
      · rw [hown]
        exact cancelTarget_self hhead
      · exact (cancelTarget_takeHead hm hown).trans (cancelTarget_notCancellable (hrefused.resolve_left hown))
    rw [applyCancel_notCancellable hread hjudged]
    exact endCancel_answered hhead .notCancellable
  · rw [applyCancel_tooLate hread ((cancelTarget_takeHead hm hother).trans (cancelTarget_tooLate htaken hvend hunqueued hstage))]
    exact endCancel_answered hhead .tooLate
  · intro e hqueued items hitems hheads
    rw [applyCancel_queued hread ((cancelTarget_takeHead hm hother).trans (cancelTarget_queued htaken hvend hqueued)),
      basketItems_takeHead, basketItems_queued hqueued, ← takeHead_frame]
    refine cancelled_cards (takeHead_wf hm slot) ((takeHead_ready slot s).trans hhead.ready) items.length
      (fun f => mem_headLast) (fun f hf => ?_) (takeHead_taken hm slot).2.2 (by rwa [takeHead_basket])
    obtain ⟨hne, hftaken, hnoHead⟩ := hitems f hf
    exact ⟨hne, (takeHead_other hm hne).noTail (noTail_of_takenIn hftaken), by rwa [takeHead_basket]⟩

/-- The end of a vend touches no slot but its own, that of the payout's card and the head of its basket. -/
theorem vendEnded.sameSlot {s t : State} {f : Flight} {o : CardOutcome} (h : vendEnded s t f o) {slot : Nat}
    (hne : slot ≠ f.slot) (hpayout : ¬ payoutByte s (slotAddr slot 0)) (hheads : ∀ b ∈ s.basket, b.head ≠ slot) :
    sameSlot s t slot := by
  refine fun off hoff => h.bytes _ ?_
  rintro (hb | ⟨p, hp, c, hc, hb⟩ | ⟨_, b, hb, hbyte⟩)
  · exact not_cardByte_of_ne hne hoff hb
  · by_cases hcard : slot = c.slot
    · exact hpayout ⟨p, hp, c, hc, cardByte_slotAddr.mpr hcard⟩
    · exact not_cardByte_of_ne hcard hoff hb
  · exact not_cardByte_of_ne (Ne.symm (hheads b hb)) hoff hbyte

/-- The basket that is left keeps its head. -/
theorem vendEnded.head {s t : State} {f : Flight} {o : CardOutcome} (h : vendEnded s t f o) {b : Basket} (hb : b ∈ t.basket) :
    ∃ b' ∈ s.basket, b'.head = b.head := by
  have hcharged {b : Basket} (hb : b ∈ basketCharged s f o) : ∃ b' ∈ s.basket, b'.head = b.head := by
    obtain ⟨b', hb', rfl⟩ := Option.map_eq_some_iff.mp hb
    exact ⟨b', hb', rfl⟩
  rw [h.basket] at hb
  split at hb
  · exact ⟨b, hb, rfl⟩
  · split at hb
    · exact ⟨b, hb, rfl⟩
    · split at hb
      · cases hb
      · exact hcharged hb

/-- Settles O18: the verdict ends the vend, and the cards it does not touch are cancelled behind it. -/
theorem aCancelInClaimingEndsTheVend : Obligations.ACancelInClaimingEndsTheVend := by
  intro s slot f hhead htarget hne htaken hvend hunqueued hflight hstage items hitems hpayout hheads
  have hm := hhead.wf
  have hread : (takeHead slot s).slotByte slot 8 = f.slot := (slotByte_takeHead hm (by omega)).trans htarget
  have hjudged : cancelTarget f.slot (takeHead slot s) = .claiming f.basket :=
    (cancelTarget_takeHead hm hne).trans (cancelTarget_claiming htaken hvend hunqueued hflight rfl hstage)
  have hended : vendEnded (takeHead slot s) (verdict judgeLoad .cancelled (takeHead slot s)) f .cancelled :=
    verdict_ended (takeHead_wf hm slot) (by rw [takeHead_eq]; exact hflight) (by decide) (by decide)
  refine ⟨_, verdict judgeLoad .cancelled (takeHead slot s), exec_cancel hhead, by rwa [← takeHead_frame], ?_⟩
  rw [applyCancel_claiming hread hjudged, basketItems_takeHead, basketItems_unqueued hunqueued]
  have hwf : Memory.wf (verdict judgeLoad .cancelled (takeHead slot s)).mem = true :=
    (verdict_written judgeLoad_writesCards .none).wf (takeHead_wf hm slot)
  generalize verdict judgeLoad .cancelled (takeHead slot s) = u at *
  have hready : u.ready = true := by
    rw [hended.frame]
    exact (takeHead_ready slot s).trans hhead.ready
  have hkept {k : Nat} (hk : k ≠ f.slot) (hpay : ¬ payoutByte s (slotAddr k 0)) (hhead : ∀ b ∈ s.basket, b.head ≠ k) :
      sameSlot (takeHead slot s) u k :=
    hended.sameSlot hk (by rwa [payoutByte_takeHead]) (by rwa [takeHead_basket])
  have hnoHead {k : Nat} (hk : ∀ b ∈ s.basket, b.head ≠ k) : ∀ b ∈ u.basket, b.head ≠ k := fun b hb => by
    obtain ⟨b', hb', hsame⟩ := hended.head hb
    rw [takeHead_basket] at hb'
    exact hsame ▸ hk b' hb'
  refine cancelled_cards hwf hready (items.length + 1) (fun _ => Iff.rfl) (fun i hi => ?_) (fun i hi => ?_) (hnoHead hheads)
  · obtain ⟨hslot, hother, hitaken, hipay, hihead⟩ := hitems i hi
    exact ⟨hslot, (hkept hother hipay hihead).noTail ((takeHead_other hm hslot).noTail (noTail_of_takenIn hitaken)),
      hnoHead hihead⟩
  · exact (hkept (Ne.symm hne) hpayout hheads _ (by omega)).trans ((takeHead_taken hm slot).2.2 i hi)

end Sys2Proof.Machine

/-! The RESUME_DRIVE and the off-current check that answers it (R92). -/

namespace Sys2Proof.Machine

/-! ## The card (R92) -/

/-- The RESUME_DRIVE in `slot` is held for the off-current check of 100 ms (R92). -/
def checkStarted (s : State) (slot : Nat) : State := { s with offCheck := some ⟨slot, some (s.now + 100)⟩ }

theorem takeResumeDrive_eq (slot : Nat) (s : State) : takeResumeDrive slot s =
    if s.offCheck.isSome then complete slot .busy s
    else if s.driveFaulted then checkStarted s slot
    else completeOk slot s := rfl

theorem checkStarted_takeHead (s : State) (slot : Nat) :
    checkStarted (takeHead slot s) slot = withResult s slot [] (checkStarted s slot) := by
  simp only [withResult_nil, checkStarted, takeHead_eq, List.drop_one]

theorem exec_resumeDrive {s : State} {slot : Nat} (hhead : s.validHead .resumeDrive slot) :
    exec .resumeDrive s = .next (if s.offCheck.isSome then complete slot .busy (withResult s slot [] s)
      else if s.driveFaulted then withResult s slot [] (checkStarted s slot)
      else completeOk slot (withResult s slot [] s)) := by
  have hcheck : (takeHead slot s).offCheck = s.offCheck := by rw [takeHead_eq]
  have hdrive : (takeHead slot s).driveFaulted = s.driveFaulted := by rw [takeHead_eq]
  change Host.Outcome.next (dispatch .resumeDrive takeResumeDrive s) = _
  rw [dispatch_valid hhead, takeResumeDrive_eq, hcheck, hdrive, checkStarted_takeHead, ← takeHead_eq_withResult]

/-! ## The check (R92) -/

/-- The result body of a RESUME_DRIVE whose check has ended (R92). -/
def offCurrentResult (highest : Nat) : List Byte :=
  [BitVec.ofNat 8 (min 500 highest), BitVec.ofNat 8 (min 500 highest / 256)]

theorem putOffCurrent_eq (slot highest : Nat) (s : State) :
    putOffCurrent slot highest s = s.putSlot slot 40 (offCurrentResult highest) := by
  have hfield : field16 (min 500 highest) = min 500 highest := if_pos (by omega)
  rw [putOffCurrent, putHalf, hfield]
  rfl

/-- A held card that completes with the current of its check (R92, R29). -/
theorem complete_offCurrent {s : State} {slot : Nat} (hm : Memory.wf s.mem = true) (hready : s.ready = true)
    (htaken : s.takenIn slot) (highest : Nat) (o : CardOutcome) :
    SlotsWritten s (complete slot o (putOffCurrent slot highest s)) [slot] (s.cardsBit slot) ∧
      (complete slot o (putOffCurrent slot highest s)).doneWith slot o (offCurrentResult highest) := by
  rw [putOffCurrent_eq]
  exact complete_putSlot hm hready (by simp [offCurrentResult]) (fun i hi _ => htaken.2.2 i hi) o

/-- A check that has passed: the drive is OK and DRIVE is raised (R92). -/
def drivePassed (s : State) (ends : Nat) : State :=
  { s with now := max s.now ends, driveFaulted := false, offCheck := none,
           noticePending := s.noticePending ||| NoticeClass.drive.bit }

section
variable {s : State} {slot ends highest : Nat} (hworking : s.working = true) (hcheck : s.offCheck = some ⟨slot, some ends⟩)
include hworking hcheck

theorem exec_offCurrentCheckPass (hlow : highest < 5) : exec (.offCurrentCheckPass highest) s =
    .next (completeOk slot (putOffCurrent slot highest (drivePassed s ends))) := by
  have hpass : s.working = true ∧ highest < offLimit := ⟨hworking, hlow⟩
  change execOffCurrentCheckPass highest s = _
  simp only [execOffCurrentCheckPass, hcheck, if_pos hpass]
  rw [raise_ready .drive (s := { s.reach ends with driveFaulted := false, offCheck := none }) (working_ready hworking)]
  rfl

theorem exec_offCurrentCheckFail (hhigh : 5 ≤ highest) : exec (.offCurrentCheckFail highest) s =
    .next (complete slot .stillFaulted (putOffCurrent slot highest { s with offCheck := none })) := by
  have hfail : s.working = true ∧ offLimit ≤ highest := ⟨hworking, hhigh⟩
  change execOffCurrentCheckFail highest s = _
  simp only [execOffCurrentCheckFail, hcheck, if_pos hfail]

end

/-- Settles O26: the card by the check and the drive state that it finds, and each end of its check. -/
theorem aResumeDriveRunsTheOffCurrentCheck : Obligations.AResumeDriveRunsTheOffCurrentCheck := by
  refine ⟨?_, ?_⟩
  · intro s slot hhead
    refine ⟨_, exec_resumeDrive hhead, fun hnone hfaulted => ?_, fun hnone hok => ?_, fun hsome => ?_⟩
    · rw [if_neg (by simp [hnone]), if_pos hfaulted, withResult_nil]
      exact takeHead_keptTaken hhead.wf slot (checkStarted s slot)
    · rw [if_neg (by simp [hnone]), if_neg (by simp [hok])]
      exact completeOk_applied hhead.wf hhead.ready (by simp)
    · rw [if_pos (Option.isSome_iff_ne_none.mpr hsome)]
      exact complete_answered hhead.wf hhead.ready (by simp) .busy
  · intro s slot ends highest hm hworking hcheck htaken shown
    refine ⟨fun hlow => ⟨_, exec_offCurrentCheckPass hworking hcheck hlow, ?_⟩,
      fun hhigh => ⟨_, exec_offCurrentCheckFail hworking hcheck hhigh, ?_⟩⟩
    · obtain ⟨hwritten, hdone⟩ := complete_offCurrent (s := drivePassed s ends) hm (working_ready hworking)
        (takenIn_congr (s := s) rfl htaken) highest .ok
      rw [completeOk]
      generalize complete slot .ok (putOffCurrent slot highest (drivePassed s ends)) = u at *
      have hmem : (requestSave u).mem = u.mem := by simp
      refine ⟨doneWith_congr hmem hdone, fun a ha => ?_, ?_⟩
      · rw [hmem]
        exact hwritten.bytes a (by simpa using ha)
      · rw [hmem]
        exact congrArg saveScheduled hwritten.frame
    · obtain ⟨hwritten, hdone⟩ := complete_offCurrent (s := { s with offCheck := none }) hm (working_ready hworking)
        (takenIn_congr (s := s) rfl htaken) highest .stillFaulted
      exact ⟨hdone, fun a ha => hwritten.bytes a (by simpa using ha), hwritten.frame⟩

end Sys2Proof.Machine

/-! The revolution: cam lines and motor current are followed (R82, R84, R87 to R90), pending edges are consumed (R85), and the
last close edge completes it and decides the vend or test (R63, R65, R79, R86). -/

namespace Sys2Proof.Machine

/-! ## Cam lines (R84) -/

/-- A line that takes a level makes of the cam what R84 says. -/
theorem Cam.line_eq (time : Nat) (level : CamLevel) (c : Cam) : c.line time level = camFollowed time level c := by
  obtain ⟨spiral, level', edge, phase, openTime, closeTime, limitWaits⟩ := c
  by_cases hlevel : level = level' <;> cases edge with
  | none => simp [Cam.line, camFollowed, hlevel]
  | some e =>
    by_cases hbounce : time < e + 20 <;> simp [Cam.line, camFollowed, hlevel, hbounce, Option.filter]

/-- The revolution with the cam of `spiral` following its line (R84). -/
def Revolution.followed (r : Revolution) (time : Nat) (spiral : Fin 80) (level : CamLevel) : Revolution :=
  { r with cams := r.cams.map fun c => if c.spiral = spiral ∧ c.phase ≠ .home then camFollowed time level c else c }

/-- A pending edge for which a limit waited is dropped (R84, R87). -/
def Revolution.dropsEdge (r : Revolution) (time : Nat) (spiral : Fin 80) (level : CamLevel) : Prop :=
  ∃ c ∈ r.cams, (c.spiral = spiral ∧ c.phase ≠ .home) ∧ c.limitWaits = true ∧ c.edge.isSome = true ∧
    (camFollowed time level c).edge = none

theorem limitTaken_iff (old new : Cam) :
    limitTaken old new = true ↔ old.limitWaits = true ∧ old.edge.isSome = true ∧ new.edge = none := by
  simp [limitTaken, and_assoc]

theorem limitTaken_self (c : Cam) : limitTaken c c = false := by
  unfold limitTaken
  cases c.edge <;> simp

theorem changeLine_cams (time : Nat) (spiral : Fin 80) (level : CamLevel) (r : Revolution) :
    (changeLine time spiral level r.cams).1 = (r.followed time spiral level).cams := by
  simp only [changeLine, Revolution.followed, Cam.line_eq]

/-- Only a cam that follows the line can have its edge dropped. -/
theorem changeLine_taken (time : Nat) (spiral : Fin 80) (level : CamLevel) (r : Revolution) :
    (changeLine time spiral level r.cams).2 = true ↔ r.dropsEdge time spiral level := by
  simp only [changeLine, Cam.line_eq, List.any_eq_true, Revolution.dropsEdge]
  refine exists_congr fun c => and_congr_right fun _ => ?_
  by_cases hfollows : c.spiral = spiral ∧ c.phase ≠ .home
  · rw [if_pos hfollows, limitTaken_iff, and_iff_right hfollows]
  · rw [if_neg hfollows, limitTaken_self]
    simp [hfollows]

section
variable {s : State} {spiral : Fin 80} {level : CamLevel} {r : Revolution}

/-- The level of a cam is what its next motor start finds (R82). -/
theorem camLine_idle (h : s.rev = none ∨ s.working = false) :
    camLine spiral level s = { s with camLevel := s.camLevel.set spiral level } := by
  unfold camLine
  dsimp only
  split
  · rfl
  · next hrev => exact if_neg (by simpa [hrev, State.working] using h)

theorem camLine_energised (hworking : s.working = true) (hrev : s.rev = some r) :
    camLine spiral level s =
      let u := { s with camLevel := s.camLevel.set spiral level, rev := some (r.followed (s.now - r.started) spiral level) }
      if (changeLine (s.now - r.started) spiral level r.cams).2 then jamReport judgeLoad u else u := by
  simp only [camLine, hrev]
  exact (if_pos hworking).trans (by rw [changeLine_cams]; rfl)

theorem camLine_followed (hworking : s.working = true) (hrev : s.rev = some r)
    (hkept : ¬ r.dropsEdge (s.now - r.started) spiral level) : camLine spiral level s =
      { s with camLevel := s.camLevel.set spiral level, rev := some (r.followed (s.now - r.started) spiral level) } := by
  rw [camLine_energised hworking hrev]
  exact if_neg (mt (changeLine_taken _ _ _ _).mp hkept)

theorem camLine_dropped (hworking : s.working = true) (hrev : s.rev = some r)
    (hdropped : r.dropsEdge (s.now - r.started) spiral level) : camLine spiral level s = jamReport judgeLoad
      { s with camLevel := s.camLevel.set spiral level, rev := some (r.followed (s.now - r.started) spiral level) } := by
  rw [camLine_energised hworking hrev]
  exact if_pos ((changeLine_taken _ _ _ _).mpr hdropped)

end

/-! ## Motor current (R88 to R90) -/

theorem judgeCurrent_eq (now : Nat) (r : Revolution) : r.judgeCurrent now = { r with jamSince := jamTimer r now } := by
  have hstart : (r.jamSince <|> some now) = some (r.jamSince.getD now) := by cases r.jamSince <;> rfl
  rw [Revolution.judgeCurrent, hstart]
  rfl

section
variable {s : State} {current : Nat} {r : Revolution}

theorem setCurrent_idle (h : s.rev = none ∨ s.working = false) : setCurrent current s = s := by
  unfold setCurrent
  split
  · rfl
  · next hrev => exact if_neg (by simpa [hrev] using h)

theorem setCurrent_measured (hworking : s.working = true) (hrev : s.rev = some r) (hlow : current ≤ 300) :
    setCurrent current s =
      { s with rev := some { r with current := current, jamSince := jamTimer { r with current := current } s.now } } := by
  have hlimit : ¬ shortLimit < current := Nat.not_lt.mpr hlow
  simp only [setCurrent, hrev, hworking, if_true, if_neg hlimit, judgeCurrent_eq]

theorem setCurrent_short (hworking : s.working = true) (hrev : s.rev = some r) (hhigh : 300 < current) :
    setCurrent current s = shortReport judgeLoad s := by
  have hlimit : shortLimit < current := hhigh
  simp only [setCurrent, hrev, hworking, if_true, if_pos hlimit]

end

/-- Settles O32: a cam line and a measured current, each without an energised selection, within its limits and beyond them. -/
theorem senseLinesAndCurrentsAreFollowed : Obligations.SenseLinesAndCurrentsAreFollowed := by
  refine ⟨fun after spiral level s => ⟨_, rfl, fun hidle => ?_, fun r hrev hworking => ⟨fun hkept => ?_, ?_⟩⟩,
    fun after current s => ⟨_, rfl, fun hidle => ?_, fun r hrev hworking => ⟨fun hlow => ?_, ?_⟩⟩⟩
  · exact camLine_idle (s := s.wait after) hidle
  · exact camLine_followed (s := s.wait after) hworking hrev hkept
  · intro f hdropped hm hflight
    rw [camLine_dropped (s := s.wait after) hworking hrev hdropped]
    exact jamReport_ended (s := { s.wait after with
      camLevel := s.camLevel.set spiral level, rev := some (r.followed (s.now + after - r.started) spiral level) })
      hm (working_ready hworking) hflight
  · exact setCurrent_idle (s := s.wait after) hidle
  · exact setCurrent_measured (s := s.wait after) hworking hrev hlow
  · intro f hhigh hm hflight
    rw [setCurrent_short (s := s.wait after) hworking hrev hhigh]
    exact shortReport_ended (s := s.wait after) hm (working_ready hworking) hflight

/-! ## A pending edge is consumed (R85) -/

/-- The cam turns in this column: its sense line is the one whose edge is consumed (R84, R86). -/
def Cam.turnsIn (column : Fin 10) (c : Cam) : Prop := columnOf c.spiral = column ∧ c.phase ≠ .home

/-- A cam that has not reached HOME moves as R85 says. -/
theorem Cam.consume_eq {c : Cam} (h : c.phase ≠ .home) (e : Nat) : c.consume e = camConsumed e c := by
  obtain ⟨spiral, level, edge, phase, openTime, closeTime, limitWaits⟩ := c
  cases phase with
  | home => exact absurd rfl h
  | awaitOpen => cases level <;> rfl
  | turningOpen => cases level <;> rfl

/-- What the consumed edge of time `e` in a column makes of a cam (R84, R85). -/
def consumeIn (column : Fin 10) (e : Nat) (c : Cam) : Cam :=
  if columnOf c.spiral = column ∧ c.phase ≠ .home ∧ c.edge = some e then c.consume e else c

theorem consumeIn_other {column : Fin 10} {c : Cam} (h : ¬ c.turnsIn column) (e : Nat) : consumeIn column e c = c :=
  if_neg fun ⟨hcolumn, hphase, _⟩ => h ⟨hcolumn, hphase⟩

theorem consumeIn_turning {column : Fin 10} {c : Cam} {e : Nat} (h : c.turnsIn column) (hedge : c.edge = some e) :
    consumeIn column e c = camConsumed e c := by
  obtain ⟨hcolumn, hphase⟩ := h
  rw [consumeIn, if_pos ⟨hcolumn, hphase, hedge⟩, Cam.consume_eq hphase]

theorem consumeEdge_eq (column : Fin 10) (e : Nat) (r : Revolution) (s : State) : consumeEdge column e r s =
    let cams := r.cams.map (consumeIn column e)
    if cams.all (fun x => x.phase == .home) then revolutionComplete judgeLoad e s
    else reportOpened cams { s with rev := some (Revolution.judgeCurrent s.now { r with cams := cams }) } := rfl

section
variable {column : Fin 10} {before after : List Cam} {c : Cam} {e : Nat}
  (hother : ∀ x ∈ before ++ after, ¬ x.turnsIn column) (hturns : c.turnsIn column) (hedge : c.edge = some e)
include hother hturns hedge

/-- The one cam that turns in the column is found with its edge. -/
theorem pendingEdge_split : pendingEdge column (before ++ c :: after) = some (c, e) := by
  have hnone : before.findSome? (fun x =>
      if columnOf x.spiral = column ∧ x.phase ≠ .home then x.edge.map fun t => (x, t) else none) = none :=
    List.findSome?_eq_none_iff.mpr fun x hx => if_neg (hother x (List.mem_append_left _ hx))
  rw [pendingEdge, List.findSome?_append, hnone, Option.none_or, List.findSome?_cons,
    if_pos (show columnOf c.spiral = column ∧ c.phase ≠ .home from hturns), hedge]
  rfl

/-- Only the cam that turns in the column consumes the edge. -/
theorem map_consumeIn_split :
    (before ++ c :: after).map (consumeIn column e) = before ++ camConsumed e c :: after := by
  have hkept {l : List Cam} (hl : ∀ x ∈ l, ¬ x.turnsIn column) : l.map (consumeIn column e) = l :=
    (List.map_congr_left fun x hx => consumeIn_other (hl x hx) e).trans (List.map_id' l)
  rw [List.map_append, List.map_cons, consumeIn_turning hturns hedge,
    hkept fun x hx => hother x (List.mem_append_left _ hx), hkept fun x hx => hother x (List.mem_append_right _ hx)]

theorem exec_camEdgeConsumed {s : State} {r : Revolution} (hworking : s.working = true) (hrev : s.rev = some r)
    (hcams : r.cams = before ++ c :: after) :
    exec (.camEdgeConsumed column) s = .next (
      let u := s.reach (r.started + e + 20)
      let cams := before ++ camConsumed e c :: after
      if cams.all (fun x => x.phase == .home) then revolutionComplete judgeLoad e u
      else reportOpened cams { u with rev := some (Revolution.judgeCurrent u.now { r with cams := cams }) }) := by
  change execCamEdgeConsumed column s = _
  simp only [execCamEdgeConsumed, hrev, hcams, pendingEdge_split hother hturns hedge, hworking, if_true, consumeEdge_eq,
    map_consumeIn_split hother hturns hedge]

end

/-- When every cam has opened, a vend or test in LEAVING_HOME moves to TURNING (R63, R85). -/
theorem reportOpened_eq (cams : List Cam) (s : State) : reportOpened cams s = { s with
    flight := s.flight.map fun f =>
      if (cams.all fun x => x.phase != .awaitOpen) = true ∧ f.stage = .leavingHome then { f with stage := .turning } else f } := by
  unfold reportOpened allOpened
  by_cases hopened : (cams.all fun x => x.phase != .awaitOpen) = true
  · simp only [hopened, if_true, true_and]
  · simp [hopened]

/-- Settles O33: the edge of the one cam that turns in the column, while another motor still turns. -/
theorem aConsumedEdgeMovesItsCam : Obligations.AConsumedEdgeMovesItsCam := by
  intro column s r before after c e hworking hrev hcams hother hcolumn hphase hedge cams now opened hturning
  rw [exec_camEdgeConsumed (fun x hx h => hother x hx h.1) ⟨hcolumn, hphase⟩ hedge hworking hrev hcams]
  have hrest : ¬ (cams.all fun x => x.phase == .home) = true := by simpa using hturning
  dsimp only
  rw [if_neg hrest, reportOpened_eq, judgeCurrent_eq]
  rfl

/-! ## The revolution is complete (R65, R79, R86) -/

/-- The matrix has stopped after one revolution more, of `time` milliseconds, which the record of the selection shows (R86). -/
def revolutionRecorded (s : State) (f : Flight) (time : Nat) : State :=
  { s with rev := none, flight := some { f with revolutions := f.revolutions + 1 },
           spirals := s.spirals.set f.spiral { s.spirals[f.spiral] with lastRevolution := time } }

/-- The write of a revolution time changes neither state nor role, so that it raises nothing (R9). -/
theorem putSpiral_lastRevolution (s : State) (f : Flight) (time : Nat) :
    putSpiral f.spiral { s.spirals[f.spiral] with lastRevolution := time }
        { s with rev := none, flight := some { f with revolutions := f.revolutions + 1 } } =
      revolutionRecorded s f time := if_pos ⟨rfl, rfl⟩

/-- A vend in DROP_WAIT for 1.5 s (R65). -/
def dropAwaited (s : State) (f : Flight) : State :=
  { s with flight := some { f with
      revolutions := f.revolutions + 1, stage := .dropWait, dropTimer := some (s.now + 1500) } }

/-- A test ends, and a vend takes its course by its drop assurance, the drop seen and the drop sensor (R65, R79). -/
theorem revolutionComplete_eq {s : State} {f : Flight} (hflight : s.flight = some f) (judge : State → State) (time : Nat) :
    revolutionComplete judge time s =
      let u := revolutionRecorded s f time
      if f.isTest then testEnd judge .homeOk time u
      else if f.assurance = .off then verdict judge .vendedUnconfirmed u
      else if f.dropSeen.isSome then verdict judge .vended u
      else if s.drop.fault then verdict judge (if f.assurance = .required then .dropSensorFault else .vendedUnconfirmed) u
      else dropAwaited u f := by
  simp only [revolutionComplete, hflight]
  rw [putSpiral_lastRevolution]
  refine if_congr Iff.rfl rfl ?_
  split
  · next hoff => exact (if_pos hoff).symm
  · next hon => exact (if_neg hon).symm

/-- The close edge of the last cam completes the revolution (R86). -/
theorem exec_lastCloseEdge {s : State} {r : Revolution} {before after : List Cam} {c : Cam} {e : Nat}
    (hworking : s.working = true) (hrev : s.rev = some r) (hcams : r.cams = before ++ c :: after)
    (hhome : ∀ x ∈ before ++ after, x.phase = .home) (hphase : c.phase = .turningOpen) (hlevel : c.level = .opened)
    (hedge : c.edge = some e) : exec (.camEdgeConsumed (columnOf c.spiral)) s =
      .next (revolutionComplete judgeLoad e (s.reach (r.started + e + 20))) := by
  have hlast : (camConsumed e c).phase = .home := by simp [camConsumed, hphase, hlevel]
  have hall : ((before ++ camConsumed e c :: after).all fun x => x.phase == .home) = true := by
    simp only [List.mem_append] at hhome
    simpa [hlast] using ⟨fun x hx => hhome x (.inl hx), fun x hx => hhome x (.inr hx)⟩
  rw [exec_camEdgeConsumed (fun x hx h => h.2 (hhome x hx)) ⟨rfl, by simp [hphase]⟩ hedge hworking hrev hcams]
  exact congrArg _ (if_pos hall)

/-- Settles O34: a test ends, and a vend takes the first branch of R65 that applies. -/
theorem aCompletedRevolutionDecidesTheVend : Obligations.ACompletedRevolutionDecidesTheVend := by
  intro s f r before after c e hm hworking hflight hrev hcams hhome hphase hlevel hedge f' w unseen
  have hverdict {o : CardOutcome} (hhomeOk : o ≠ .homeOk) (htestJammed : o ≠ .testJammed) :
      vendEnded w (verdict judgeLoad o w) f' o := verdict_ended (s := w) hm rfl hhomeOk htestJammed
  have hcourse := revolutionComplete_eq (s := s.reach (r.started + e + 20)) hflight judgeLoad e
  have hdrop : (s.reach (r.started + e + 20)).drop = s.drop := rfl
  have hvends (hvend : f.isTest = false) : ¬ f.isTest = true := by simp [hvend]
  have hseen : ¬ unseen ↔ f.dropSeen.isSome = true := Option.isSome_iff_ne_none.symm
  have hunmet (h : unseen) : ¬ f.dropSeen.isSome = true := mt hseen.mpr (not_not.mpr h)
  rw [hdrop] at hcourse
  refine ⟨_, exec_lastCloseEdge hworking hrev hcams hhome hphase hlevel hedge, fun htest => ?_, fun hvend hoff => ?_,
    fun hvend hon hdropped => ?_, fun hvend hrequired hunseen hfault => ?_,
    fun hvend hpreferred hunseen hfault => ?_, fun hvend hon hunseen hclear => ?_⟩
  · rw [hcourse, if_pos htest]
    exact testEnd_ended (s := w) hm rfl (.inl rfl) e
  · rw [hcourse, if_neg (hvends hvend), if_pos hoff]
    exact hverdict (by decide) (by decide)
  · rw [hcourse, if_neg (hvends hvend), if_neg hon, if_pos (hseen.mp hdropped)]
    exact hverdict (by decide) (by decide)
  · rw [hcourse, if_neg (hvends hvend), if_neg (by simp [hrequired]), if_neg (hunmet hunseen), if_pos hfault,
      if_pos hrequired]
    exact hverdict (by decide) (by decide)
  · rw [hcourse, if_neg (hvends hvend), if_neg (by simp [hpreferred]), if_neg (hunmet hunseen), if_pos hfault,
      if_neg (by simp [hpreferred])]
    exact hverdict (by decide) (by decide)
  · rw [hcourse, if_neg (hvends hvend), if_neg hon, if_neg (hunmet hunseen), if_neg (by simp [hclear])]
    rfl

end Sys2Proof.Machine

/-! The records of the money, of the spirals and of the zone, with their images: which operations write them, and that every
command keeps them sound (R12, R97, R98, R105, R172, R173). -/

namespace Sys2Proof.Machine

/-! ## The books -/

/-- The records that the part and its image hold in common and of which the invariants speak (R178). -/
structure Records where
  credit : Nat
  channels : Vector Channel 6
  tubes : Vector SavedTube 4
  spirals : Vector Spiral 80
  zone : ZoneState
  exposure : Nat

def Image.records (i : Image) : Records := ⟨i.credit, i.channels, i.tubes, i.spirals, i.zone, i.exposure⟩

/-- The records as they stand, the held amount, and the images that a restart may take. -/
structure Books where
  records : Records
  held : Nat
  stored : Option Image
  capture : Option Image

def State.books (s : State) : Books :=
  { records := s.image.records, held := s.held, stored := s.store.image, capture := s.store.capture }

/-- The two halves of the books, each with an invariant of its own: money with coins, and spirals with the zone. -/
inductive Ledger where
  | money | goods

def Records.sound (r : Records) : Ledger → Prop
  | .money => r.credit ≤ 65535 ∧ (∀ t : Fin 4, tubeOk r.tubes[t].count r.tubes[t].reserve r.tubes[t].capacity) ∧
      routesOk r.channels fun t => r.tubes[t].value
  | .goods => stocksOk r.spirals ∧ zoneOk r.zone r.exposure

/-- The records and their images are sound, and H does not exceed C (R105). -/
structure Books.sound (b : Books) (l : Ledger) : Prop where
  records : b.records.sound l
  stored : ∀ i ∈ b.stored, i.records.sound l
  capture : ∀ i ∈ b.capture, i.records.sound l
  held : l = .money → b.held ≤ b.records.credit

theorem forall_mem_images {s : State} {P : Image → Prop} :
    (∀ i ∈ s.images, P i) ↔ (∀ i ∈ s.store.image, P i) ∧ ∀ i ∈ s.store.capture, P i := by
  simp only [State.images, List.mem_append, Option.mem_toList, Option.mem_def, or_imp, forall_and]

theorem money_sound_iff {s : State} : s.books.sound .money ↔ s.moneyOk ∧ s.coinsOk := by
  have hrecords : s.image.records.sound .money ↔ s.credit ≤ 65535 ∧
      (∀ t : Fin 4, tubeOk s.tubes[t].count s.tubes[t].reserve s.tubes[t].capacity) ∧
      routesOk s.channels fun t => s.tubes[t].value := by
    simp [Records.sound, Image.records, State.image, Tube.saved]
  simp only [State.moneyOk, State.coinsOk, forall_mem_images]
  constructor
  · rintro ⟨h, hstored, hcapture, hheld⟩
    obtain ⟨hcredit, htubes, hroutes⟩ := hrecords.mp h
    exact ⟨⟨hheld rfl, hcredit, fun i hi => (hstored i hi).1, fun i hi => (hcapture i hi).1⟩, htubes, hroutes,
      fun i hi => (hstored i hi).2, fun i hi => (hcapture i hi).2⟩
  · rintro ⟨⟨hheld, hcredit, hcredits, hcredits'⟩, htubes, hroutes, hcoins, hcoins'⟩
    exact ⟨hrecords.mpr ⟨hcredit, htubes, hroutes⟩, fun i hi => ⟨hcredits i hi, hcoins i hi⟩,
      fun i hi => ⟨hcredits' i hi, hcoins' i hi⟩, fun _ => hheld⟩

theorem goods_sound_iff {s : State} : s.books.sound .goods ↔ s.spiralsOk ∧ s.exposureOk := by
  have hrecords : s.image.records.sound .goods ↔ stocksOk s.spirals ∧ zoneOk s.zone s.exposure := by
    simp [Records.sound, Image.records, State.image, Spiral.saved, stocksOk]
  simp only [State.spiralsOk, State.exposureOk, forall_mem_images]
  constructor
  · rintro ⟨h, hstored, hcapture, _⟩
    obtain ⟨hstocks, hzone⟩ := hrecords.mp h
    exact ⟨⟨hstocks, fun i hi => (hstored i hi).1, fun i hi => (hcapture i hi).1⟩, hzone,
      fun i hi => (hstored i hi).2, fun i hi => (hcapture i hi).2⟩
  · rintro ⟨⟨hstocks, hspirals, hspirals'⟩, hzone, hzones, hzones'⟩
    exact ⟨hrecords.mpr ⟨hstocks, hzone⟩, fun i hi => ⟨hspirals i hi, hzones i hi⟩,
      fun i hi => ⟨hspirals' i hi, hzones' i hi⟩, nofun⟩

section
variable {l : Ledger} {s t : State}

/-- An operation that leaves the books as they are keeps them sound. -/
theorem Books.sound.of (h : s.books.sound l) (heq : t.books = s.books) : t.books.sound l := heq ▸ h

theorem ite_sound {c : Prop} [Decidable c] (hs : s.books.sound l) (ht : t.books.sound l) :
    (if c then s else t).books.sound l := by
  split
  · exact hs
  · exact ht

/-! ## The writes of the books -/

/-- New records and a new held amount beside the images (R178). -/
theorem Books.sound.write (h : s.books.sound l) (hstore : t.store = s.store)
    (hrecords : s.image.records.sound l → t.image.records.sound l)
    (hheld : l = .money → s.held ≤ s.credit → t.held ≤ t.credit) : t.books.sound l where
  records := hrecords h.records
  stored := by simpa only [State.books, hstore] using h.stored
  capture := by simpa only [State.books, hstore] using h.capture
  held := fun hl => hheld hl (h.held hl)

theorem putCredit_sound {c n : Nat} (h : s.books.sound l)
    (hamounts : s.held ≤ s.credit → s.credit ≤ 65535 → n ≤ c ∧ c ≤ 65535) : (putCredit c n s).books.sound l := by
  cases l with
  | goods => exact h.write (by simp) (by simp [Records.sound, Image.records, State.image]) nofun
  | money =>
    have hcredit : s.credit ≤ 65535 := h.records.1
    obtain ⟨hheld, hlimit⟩ := hamounts (h.held rfl) hcredit
    refine h.write (by simp) (fun ⟨_, hcoins⟩ => ⟨?_, ?_⟩) fun _ _ => by simpa using hheld
    · simpa [Image.records, State.image] using hlimit
    · simpa [Image.records, State.image] using hcoins

/-- A record of the spiral table (R12). -/
theorem putSpiral_sound {i : Fin 80} {r : Spiral} (h : s.books.sound l)
    (hstock : stocksOk s.spirals → r.state = .ready → r.stock ≠ 0) : (putSpiral i r s).books.sound l := by
  refine h.write (by simp) (fun hr => ?_) (by simp)
  cases l with
  | money => simpa [Records.sound, Image.records, State.image] using hr
  | goods =>
    obtain ⟨hstocks, hzone⟩ := hr
    have hstocks : stocksOk s.spirals := by simpa [stocksOk, Image.records, State.image, Spiral.saved] using hstocks
    refine ⟨fun j => ?_, by simpa [Image.records, State.image] using hzone⟩
    have hj := hstocks j
    by_cases hij : i = j
    · subst hij
      simpa [Image.records, State.image, Spiral.saved] using hstock hstocks
    · have hne : i.val ≠ j.val := fun e => hij (Fin.ext e)
      simpa [Image.records, State.image, Spiral.saved, Vector.getElem_set, hne] using hj

/-- A tube record (R97, R98): within its capacity, and with the value of the channels that are routed to it. -/
theorem putTube_sound {k : Fin 4} {r : Tube} (h : s.books.sound l)
    (hsize : tubeOk s.tubes[k].count s.tubes[k].reserve s.tubes[k].capacity → tubeOk r.count r.reserve r.capacity)
    (hvalue : ∀ c : Fin 6, s.channels[c].value ≠ 0 → s.channels[c].route = some k →
      s.channels[c].value = s.tubes[k].value → s.channels[c].value = r.value) : (putTube k r s).books.sound l := by
  refine h.write (by simp) (fun hr => ?_) (by simp)
  cases l with
  | goods => simpa [Records.sound, Image.records, State.image] using hr
  | money =>
    obtain ⟨hcredit, htubes, hroutes⟩ := hr
    simp only [Image.records, State.image, Tube.saved, Fin.getElem_fin, Vector.getElem_map] at htubes hroutes
    have hset (j : Fin 4) : (putTube k r s).tubes[j] = if k = j then r else s.tubes[j] := by
      simp [Vector.getElem_set, Fin.ext_iff]
    simp only [Fin.getElem_fin] at hset hsize hvalue
    refine ⟨by simpa [Image.records, State.image] using hcredit, fun j => ?_, fun c j hc hroute => ?_⟩ <;>
      simp only [Image.records, State.image, Tube.saved, Fin.getElem_fin, Vector.getElem_map, hset, putTube_frame] at *
    · split
      · next hkj => exact hsize (htubes k)
      · exact htubes j
    · split
      · next hkj =>
        subst hkj
        exact hvalue c hc hroute (hroutes c k hc hroute)
      · exact hroutes c j hc hroute

theorem putZone_sound {z : ZoneState} {e : Nat} (h : s.books.sound l) (hzone : zoneOk z e) :
    (putZone z e s).books.sound l := by
  refine h.write (by simp) (fun hr => ?_) (by simp)
  cases l with
  | money => simpa [Records.sound, Image.records, State.image] using hr
  | goods => simpa [Records.sound, Image.records, State.image, hzone] using hr.1

/-- A save captures the records as they stand (R178). -/
theorem beginSave_sound (h : s.books.sound l) : (beginSave s).books.sound l where
  records := h.records
  stored := by simp [State.books, beginSave, Store.image]
  capture := by
    rintro i ⟨rfl⟩
    exact h.records
  held := h.held

theorem requestSave_sound (h : s.books.sound l) : (requestSave s).books.sound l := ite_sound h (beginSave_sound h)

end

/-! ## Operations that leave the books as they are -/

theorem State.books_def (s : State) : s.books =
    { records := ⟨s.credit, s.channels, s.tubes.map Tube.saved, s.spirals.map Spiral.saved, s.zone, s.exposure⟩,
      held := s.held, stored := s.store.image, capture := s.store.capture } := rfl

theorem raise_books (c : NoticeClass) (s : State) : (raise c s).books = s.books := by simp [State.books_def]

theorem count_books (c : Counter) (n : Nat) (s : State) : (count c n s).books = s.books := rfl

theorem complete_books (slot : Nat) (o : CardOutcome) (s : State) : (complete slot o s).books = s.books := by
  simp [State.books_def]

theorem recomputeChange_books (s : State) : (recomputeChange s).books = s.books := by simp [State.books_def]

theorem takeHead_books (slot : Nat) (s : State) : (takeHead slot s).books = s.books := by
  simp [State.books_def, takeHead]

theorem setBusy_books (b : Bool) (s : State) : (setBusy b s).books = s.books := by
  have hsaved : (Tube.saved ∘ fun t => { t with busy := b }) = Tube.saved := rfl
  simp [State.books_def, hsaved]

theorem putSpiral_inFlight_books (i : Fin 80) (b : Bool) (s : State) :
    (putSpiral i { s.spirals[i] with inFlight := b } s).books = s.books := by
  have hsaved : (s.spirals.set i { s.spirals[i] with inFlight := b }).map Spiral.saved = s.spirals.map Spiral.saved := by
    ext j hj
    rw [Vector.getElem_map, Vector.getElem_map, Vector.getElem_set]
    split
    · next hij => subst hij; rfl
    · rfl
  simp only [State.books_def, putSpiral_frame, putSpiral_spirals, hsaved]

theorem setInFlight_books (b : Bool) : ∀ (selected : List (Fin 80)) (s : State), (setInFlight b selected s).books = s.books
  | [], _ => rfl
  | i :: rest, s => by rw [setInFlight, setInFlight_books b rest, putSpiral_inFlight_books]

theorem requestReturn_books (origin : Origin) (card : Option AttachedCard) (s : State) :
    (requestReturn origin card s).books = s.books := by
  unfold requestReturn completeVendAtOnce
  repeat' split
  all_goals simp [State.books_def]

theorem requestReturnIfAny_books (origin : Origin) (s : State) : (requestReturnIfAny origin s).books = s.books := by
  unfold requestReturnIfAny
  split
  · exact requestReturn_books _ _ _
  · rfl

theorem closeBasket_books (s : State) : (closeBasket s).books = s.books := by
  unfold closeBasket
  repeat' split
  all_goals simp [State.books_def]

theorem endItem_books (slot : Nat) (basket : Option Nat) (o : CardOutcome) (s : State) :
    (endItem slot basket o s).books = s.books := by
  unfold endItem
  repeat' split
  · exact complete_books _ _ _
  · exact closeBasket_books _
  · exact (closeBasket_books _).trans (complete_books _ _ _)

theorem afterVerdict_books (f : Flight) (o : CardOutcome) (s : State) : (afterVerdict f o s).books = s.books := by
  unfold afterVerdict
  split
  · exact requestReturn_books _ _ _
  · exact endItem_books _ _ _ _

theorem auditVerdict_books (f : Flight) (o : CardOutcome) (s : State) : (auditVerdict f o s).books = s.books := by
  unfold auditVerdict
  repeat' split
  all_goals rfl

theorem putPayoutResult_books (p : Payout) (retained : Nat) (card : AttachedCard) (s : State) :
    (putPayoutResult p retained card s).books = s.books := by
  rw [(putPayoutResult_eq p retained card s).1]
  rfl

theorem admitMark_books (s : State) : (admitMark s).books = s.books := by
  unfold admitMark
  split <;> rfl

theorem planStart_books (e : PayEntry) (due : Nat) (s : State) : (planStart e due s).2.books = s.books := by
  unfold planStart handOverPlan
  dsimp only
  repeat' split
  · rfl
  · exact raise_books _ _
  · rfl

theorem settleRun_books (s : State) : (settleRun s).books = s.books := by
  rw [settleRun_eq]
  rfl

theorem callIfReached_books (s : State) : (callIfReached s).books = s.books := by
  unfold callIfReached callDefrost
  repeat' split
  all_goals rfl

theorem updateFallback_books (s : State) : (updateFallback s).books = s.books := by
  unfold updateFallback
  split
  · exact raise_books _ _
  · exact raise_books _ _
  · rfl

theorem putCooling_books (c : CoolingSettings) (s : State) : (putCooling c s).books = s.books := by
  unfold putCooling switchCabB
  split
  · rfl
  · exact (updateFallback_books _).trans (raise_books _ _)

theorem endDraining_books (s : State) : (endDraining s).books = s.books := by
  unfold endDraining completeDefrostCard putDefrostResult restCompressor
  dsimp only
  split
  · simp [State.books_def]
  · rfl

theorem sampleChannels_books (a b e : BitVec 12) (s : State) : (sampleChannels a b e s).books = s.books := by
  unfold sampleChannels
  dsimp only
  split
  · rfl
  · exact raise_books _ _

theorem setAirflow_books (b : Bool) (s : State) : (setAirflow b s).books = s.books := by
  unfold setAirflow
  split
  · rfl
  · exact raise_books _ _

theorem judgeSpread_books (s : State) : (judgeSpread s).books = s.books := by
  unfold judgeSpread
  dsimp only
  repeat' split
  · exact setAirflow_books _ _
  · rfl
  · exact setAirflow_books _ _
  · rfl
  · rfl

theorem applyPort_books (p : PortSettings) (s : State) : (applyPort p s).books = s.books := by
  rw [applyPort_eq]
  rfl

theorem judgeKeepalive_books (s : State) : (judgeKeepalive s).books = s.books := by
  unfold judgeKeepalive
  split <;> rfl

theorem periodEnds_books (s : State) : (periodEnds s).books = s.books := by
  unfold periodEnds
  split <;> rfl

theorem clearNotice_books (s : State) : (clearNotice s).books = s.books := by
  unfold clearNotice
  repeat' split
  all_goals rfl

theorem countRefused_books (s : State) : (countRefused s).books = s.books := raise_books _ _

theorem writeRegister_books (register : Byte) (data : List Byte) (s : State) :
    (writeRegister register data s).books = s.books := by
  unfold writeRegister
  repeat' split
  · rfl
  · exact countRefused_books s
  · exact countRefused_books s

theorem evaluateHolders_books : ∀ (bytes : List (Nat × Nat)) (r : State × Bool),
    (evaluateHolders bytes r).1.books = r.1.books
  | [], _ => rfl
  | (slot, value) :: rest, (s, refused) => by
    rw [evaluateHolders, evaluateHolders_books rest]
    unfold evaluateHolder
    dsimp only
    split <;> rfl

theorem applyWrite_books (addr : Half) (data : List Byte) (completed : List Nat) (s : State) :
    (applyWrite addr data completed s).books = s.books := by
  have hstored (l : List (Nat × Nat)) (mem : List Host.Cell) (refused : Bool) :
      (evaluateHolders l ({ s with mem := mem }, refused)).1.books = s.books := evaluateHolders_books _ _
  unfold applyWrite
  dsimp only
  repeat' split
  · exact (countRefused_books _).trans ((judgeKeepalive_books _).trans (hstored _ _ _))
  · exact (countRefused_books _).trans (hstored _ _ _)
  · exact (judgeKeepalive_books _).trans (hstored _ _ _)
  · exact hstored _ _ _

theorem completeHeld_books (h : Option HeldSave) (i : Image) (s : State) : (completeHeld h i s).books = s.books := by
  unfold completeHeld
  split
  · exact complete_books _ _ _
  · rfl

theorem idle_books (s : State) : (idle s).books = s.books := by
  unfold idle
  split <;> rfl

/-! ## Vends and payouts -/

section
variable {l : Ledger} {s : State}

/-- The mirrored write brings a state and a stock together that the lead's record has (R5, R12). -/
theorem mirror_sound {i : Fin 80} (h : s.books.sound l) : (mirror i s).books.sound l :=
  putSpiral_sound h fun hstocks => hstocks i

theorem Spiral.settled_stock (r : Spiral) : r.settled.state = .ready → r.settled.stock ≠ 0 := by
  unfold Spiral.settled
  split
  · exact nofun
  · next hne => exact fun hready hstock => hne ⟨hready, hstock⟩

/-- The end of a vend or test leaves no READY record without stock (R12). -/
theorem Spiral.ended_stock (o : CardOutcome) {r : Spiral} (hr : r.state = .ready → r.stock ≠ 0) :
    (Spiral.ended o r).state = .ready → (Spiral.ended o r).stock ≠ 0 := by
  have hvended (n : Nat) : (if n = 0 then SpiralState.soldOut else r.state) = .ready → n ≠ 0 := by
    rintro hready rfl
    exact absurd hready nofun
  unfold Spiral.ended
  split
  · exact hvended _
  · exact hvended _
  · exact nofun
  · exact nofun
  · split
    · exact nofun
    · exact hr
  · split
    · exact Spiral.settled_stock _
    · exact hr
  · exact hr

theorem recordEnd_sound {i : Fin 80} {twin : Bool} {o : CardOutcome} (h : s.books.sound l) :
    (recordEnd i twin o s).books.sound l := by
  have hended := putSpiral_sound (i := i) (r := { Spiral.ended o s.spirals[i] with inFlight := false, lastOutcome := o }) h
    fun hstocks => Spiral.ended_stock o (hstocks i)
  unfold recordEnd
  exact ite_sound ((mirror_sound hended).of (setInFlight_books _ _ _)) hended

/-- A price that leaves H leaves C as well, or C stays as it was (R67). -/
theorem settleMoney_sound {f : Flight} {o : CardOutcome} (h : s.books.sound l) : (settleMoney f o s).books.sound l := by
  unfold settleMoney
  refine ite_sound (putCredit_sound h fun _ _ => ?_) (ite_sound h h)
  split <;> omega

/-- A judgement of the load keeps the books sound. -/
def keepsBooks (l : Ledger) (judge : State → State) : Prop := ∀ s : State, s.books.sound l → (judge s).books.sound l

section
variable {judge : State → State} (hj : keepsBooks l judge) (h : s.books.sound l)
include hj h

theorem giveUp_sound {c : Claimant} : (giveUp judge c s).books.sound l := hj _ h

theorem placeClaim_sound {c : Claimant} {size : Nat} : (placeClaim judge c size s).books.sound l := hj _ h

theorem verdict_sound {o : CardOutcome} : (verdict judge o s).books.sound l := by
  unfold verdict
  split
  · exact h
  · rename_i f _
    have hgiven : (giveUp judge .drive { s with rev := none }).books.sound l := hj _ h
    have hrecorded := (recordEnd_sound (i := f.spiral) (twin := f.twin) (o := o) (settleMoney_sound (f := f) (o := o) hgiven))
    have hcounted := hrecorded.of (auditVerdict_books f o _)
    dsimp only
    generalize auditVerdict f o _ = u at hcounted
    exact hcounted.of (afterVerdict_books _ _ _)

theorem testEnd_sound {o : CardOutcome} {time : Nat} : (testEnd judge o time s).books.sound l := by
  unfold testEnd
  split
  · exact h
  · rename_i f _
    have hgiven : (giveUp judge .drive { s with rev := none }).books.sound l := hj _ h
    have hrecorded := recordEnd_sound (i := f.spiral) (twin := f.twin) (o := o) hgiven
    dsimp only
    generalize recordEnd f.spiral f.twin o _ = u at hrecorded
    exact hrecorded.of (complete_books _ _ _)

theorem endFlight_sound {o testO : CardOutcome} : (endFlight judge o testO s).books.sound l := by
  unfold endFlight
  split
  · exact h
  · exact ite_sound (testEnd_sound hj h) (verdict_sound hj h)

theorem motorStart_sound : (motorStart judge s).books.sound l := by
  unfold motorStart
  split
  · exact h
  · exact ite_sound (verdict_sound hj h) h

theorem endPayoutWith_sound {o : CardOutcome} : (endPayoutWith judge o s).books.sound l := by
  unfold endPayoutWith
  split
  · exact h
  · rename_i p _
    have hgiven := (giveUp_sound hj h (c := .payout)).of (setBusy_books false _)
    dsimp only
    generalize setBusy false (giveUp judge .payout s) = u at hgiven
    have hcounted : (if p.entry.form = .creditReturn then count .retained (retainedAmount p u) u
        else count .manualPayout p.paid u).books.sound l := ite_sound hgiven hgiven
    generalize (if p.entry.form = .creditReturn then count .retained (retainedAmount p u) u
        else count .manualPayout p.paid u) = v at hcounted
    have hended := hcounted.of (raise_books .money { v with payout := none })
    split
    · exact hended
    · exact hended.of ((complete_books _ _ _).trans (putPayoutResult_books _ _ _ _))

theorem endPayout_sound : (endPayout judge s).books.sound l := by
  unfold endPayout
  split
  · exact h
  · exact endPayoutWith_sound hj h

theorem ejectNext_sound : (ejectNext judge s).books.sound l := by
  unfold ejectNext
  repeat' split
  · exact h
  · exact endPayout_sound hj h
  · exact ite_sound h (endPayout_sound hj h)

theorem onGrant_sound {c : Claimant} : (onGrant judge c s).books.sound l := by
  cases c with
  | compressor => exact h
  | heater => exact h
  | drive => exact motorStart_sound hj h
  | payout => exact ejectNext_sound hj h

end

theorem judgeLoad_keepsBooks : keepsBooks l judgeLoad := fun _ =>
  judgeLoad_keeps (P := fun s => s.books.sound l) fun _ hj _ _ _ h _ _ _ => onGrant_sound hj (by exact h)

section
variable {judge : State → State} (hj : keepsBooks l judge) (h : s.books.sound l)
include hj h

theorem startPayout_sound {e : PayEntry} {rest : List PayEntry} : (startPayout judge e rest s).books.sound l := by
  have hadmitted : (admitMark { s with payQueue := rest }).books.sound l := h.of (admitMark_books _)
  unfold startPayout
  dsimp only
  generalize admitMark { s with payQueue := rest } = u at hadmitted
  split
  · exact endPayoutWith_sound hj (by exact hadmitted)
  · have hplanned := hadmitted.of ((planStart_books e (amountDue e u) _).trans (setBusy_books true u))
    generalize planStart e (amountDue e u) (setBusy true u) = plan at hplanned
    exact ite_sound (endPayout_sound hj hplanned) (placeClaim_sound hj (by exact hplanned))

theorem afterConfirm_sound : (afterConfirm judge s).books.sound l := by
  unfold afterConfirm
  split
  · exact h
  · exact ite_sound (endPayout_sound hj h) (ite_sound h (ejectNext_sound hj h))

theorem enterClaiming_sound {f : Flight} : (enterClaiming judge f s).books.sound l :=
  hj _ (h.of (setInFlight_books _ _ _))

omit hj h in
/-- A selection that passes the checks costs no more than the vend has to pay from (R60). -/
theorem price_le_funds {i : Fin 80} {p : Payment} (hpassed : vendCheck (some i) p s = none) :
    s.spirals[i].price ≤ fundsFor p s := by
  by_contra hshort
  unfold vendCheck at hpassed
  simp only [if_pos (Nat.lt_of_not_le hshort)] at hpassed
  repeat' split at hpassed
  all_goals cases hpassed

/-- A coin vend that passes its check stage holds a price that the available credit covers (R60, R61). -/
theorem checkVend_sound {e : QueueEntry} : (checkVend judge e s).books.sound l := by
  have hopen : (openBasket e s).books.sound l := by rw [openBasket_eq]; exact h
  unfold checkVend
  dsimp only
  split
  · next i hpassed hspiral =>
    rw [hspiral] at hpassed
    have hprice := price_le_funds hpassed
    generalize openBasket e s = u at hopen hprice
    refine enterClaiming_sound hj ?_
    split
    · next hcoin =>
      have hfunds : u.spirals[i].price ≤ u.credit - u.held := by simpa [fundsFor, hcoin, State.available] using hprice
      refine putCredit_sound hopen fun hheld hlimit => ⟨?_, hlimit⟩
      simp only [newFlight]
      split <;> omega
    · exact hopen
  · exact hopen.of (endItem_books _ _ _ _)

theorem checkTest_sound {e : QueueEntry} : (checkTest judge e s).books.sound l := by
  unfold checkTest
  dsimp only
  split
  · exact enterClaiming_sound hj h
  · exact h.of (complete_books _ _ _)

theorem revolutionComplete_sound {time : Nat} : (revolutionComplete judge time s).books.sound l := by
  cases hflight : s.flight with
  | none =>
      rw [revolutionComplete, hflight]
      exact h
  | some f =>
    have hrecorded : (revolutionRecorded s f time).books.sound l := by
      rw [← putSpiral_lastRevolution]
      exact putSpiral_sound h fun hstocks => hstocks f.spiral
    rw [revolutionComplete_eq hflight]
    exact ite_sound (testEnd_sound hj hrecorded) (ite_sound (verdict_sound hj hrecorded)
      (ite_sound (verdict_sound hj hrecorded) (ite_sound (verdict_sound hj hrecorded) hrecorded)))

theorem jamReport_sound : (jamReport judge s).books.sound l :=
  endFlight_sound hj (by exact h.of (raise_books _ _))

theorem shortReport_sound : (shortReport judge s).books.sound l :=
  requestSave_sound (jamReport_sound hj (by exact h.of (raise_books _ _)))

end

end
/-! ## Coins and the payout engine -/

section
variable {l : Ledger} {s : State}

/-- A tube that changes neither its value nor its capacity nor its reserve, and holds no more coins than it can (R98). -/
theorem putTube_count_sound {k : Fin 4} {n : Nat} {gate : Option Nat} (h : s.books.sound l)
    (hn : s.tubes[k].count ≤ s.tubes[k].capacity → n ≤ s.tubes[k].capacity) :
    (putTube k { s.tubes[k] with count := n, gate := gate } s).books.sound l :=
  putTube_sound h (fun ⟨hcount, hreserve⟩ => ⟨hn hcount, hreserve⟩) fun _ _ _ hvalue => hvalue

/-- A coin is credited up to 65,535 (R100). -/
theorem creditCoin_sound {v : Nat} (h : s.books.sound l) : (creditCoin v s).books.sound l := by
  unfold creditCoin
  exact ite_sound h (putCredit_sound h fun _ _ => by omega)

/-- A coin enters a tube that has room for it alone (R101). -/
theorem coinTube_room {c : Channel} {tubes : Vector Tube 4} {k : Fin 4} (h : coinTube c tubes = some k) :
    tubes[k].count < tubes[k].capacity := by
  unfold coinTube at h
  repeat' split at h
  · cases h
  · next hroom =>
    cases h
    exact hroom.2.1
  · cases h

theorem creditCoin_tubes (v : Nat) (s : State) : (creditCoin v s).tubes = s.tubes := by
  unfold creditCoin
  dsimp only
  split <;> simp

/-- The tube that a coin enters has room for it, so its count stays within its capacity (R98, R101). -/
theorem routeCoin_sound {v : Nat} {tube : Option (Fin 4)} (h : s.books.sound l)
    (hroom : ∀ k ∈ tube, s.tubes[k].count < s.tubes[k].capacity) : (routeCoin v tube s).books.sound l := by
  unfold routeCoin
  split
  · exact h
  · next k =>
    have hfilled := putTube_count_sound (k := k) (n := s.tubes[k].count + 1) (gate := some (s.now + 400)) h
      fun _ => hroom k rfl
    exact (hfilled.of (count_books (.coinsToTube k) 1 _)).of (recomputeChange_books _)

theorem coinArrives_sound {channel : Fin 6} (h : s.books.sound l) : (coinArrives channel s).books.sound l := by
  have hcounted := (creditCoin_sound (v := s.channels[channel].value) h).of (count_books (.coinsIn channel) 1 _)
  have htubes : (count (.coinsIn channel) 1 (creditCoin s.channels[channel].value s)).tubes = s.tubes :=
    creditCoin_tubes _ _
  refine routeCoin_sound hcounted fun k hk => ?_
  rw [htubes]
  exact coinTube_room hk

/-- A confirmed coin leaves its tube, and leaves C at H or above (R133). -/
theorem confirmCoin_sound {a : AirCoin} {p : Payout} (h : s.books.sound l) : (confirmCoin a p s).books.sound l := by
  have htaken := (putTube_count_sound (k := a.tube) (n := s.tubes[a.tube].count - 1) (gate := s.tubes[a.tube].gate) h
    fun _ => by omega).of (recomputeChange_books _)
  unfold confirmCoin
  generalize recomputeChange (putTube a.tube _ s) = u at htaken
  refine Books.sound.of ?_ (count_books _ _ _)
  refine ite_sound (putCredit_sound (by exact htaken) fun (_ : u.held ≤ u.credit) (_ : u.credit ≤ 65535) => ?_) htaken
  dsimp only
  omega

theorem tubeFoundEmpty_sound {k : Fin 4} {p : Payout} (h : s.books.sound l) :
    (tubeFoundEmpty k p s).books.sound l := by
  have hemptied := (putTube_count_sound (k := k) (n := 0) (gate := s.tubes[k].gate) h fun _ => Nat.zero_le _).of
    (recomputeChange_books _)
  unfold tubeFoundEmpty handOverPlan
  generalize recomputeChange (putTube k _ s) = u at hemptied
  have hraised := hemptied.of ((raise_books .money _).trans (count_books .tubeEmpty 1 u))
  dsimp only
  generalize raise .money (count .tubeEmpty 1 u) = v at hraised
  split
  · exact hraised
  · exact ite_sound (Books.sound.of (by exact hraised) (raise_books _ _)) hraised

theorem afterPulse_sound {tube : Fin 4} (h : s.books.sound l) : (afterPulse tube s).books.sound l := by
  unfold afterPulse
  split
  · exact ite_sound (ite_sound h (ejectNext_sound judgeLoad_keepsBooks h)) h
  · exact h

theorem exitCoin_sound (h : s.books.sound l) : (exitCoin s).books.sound l := by
  unfold exitCoin
  split
  · exact ite_sound h (afterConfirm_sound judgeLoad_keepsBooks (confirmCoin_sound h))
  · exact h

theorem missCoin_sound {a : AirCoin} {p : Payout} (h : s.books.sound l) : (missCoin a p s).books.sound l := by
  unfold missCoin
  exact ite_sound (ejectNext_sound judgeLoad_keepsBooks (tubeFoundEmpty_sound h))
    (ite_sound h (endPayout_sound judgeLoad_keepsBooks h))

/-! ## Cooling and the zone -/

/-- E counts up to 65,535 in a zone that is not SAFE (R173). -/
theorem expose_sound {z : ZoneState} (h : s.books.sound l) (hz : z ≠ .safe) : (expose z s).books.sound l := by
  have hlimit : min 65535 (s.exposure + 1) ≤ 65535 := Nat.min_le_left _ _
  unfold expose lockZone
  exact ite_sound (beginSave_sound (putZone_sound h ⟨nofun, hlimit⟩))
    (putZone_sound h ⟨fun hsafe => absurd hsafe hz, hlimit⟩)

/-- The zone that becomes SAFE takes E to 0, and a warm second takes it out of SAFE (R172, R173). -/
theorem judgeZone_sound (h : s.books.sound l) : (judgeZone s).books.sound l := by
  have hsafe : (putZone .safe 0 s).books.sound l := putZone_sound h ⟨fun _ => rfl, by omega⟩
  unfold judgeZone
  split
  · exact h
  · exact ite_sound (putZone_sound h ⟨nofun, by omega⟩) h
  · exact ite_sound hsafe (ite_sound h (expose_sound h nofun))
  · exact ite_sound hsafe (ite_sound h (expose_sound h nofun))

section
variable {judge : State → State} (hj : keepsBooks l judge) (h : s.books.sound l)
include hj h

theorem startDefrost_sound : (startDefrost judge s).books.sound l := by
  have hgiven := giveUp_sound hj (c := .compressor)
    (s := { s with comp := { state := .offResting, minOff := none, minOn := none, window := none }, runSecond := none }) h
  unfold startDefrost
  dsimp only
  split
  · exact hgiven
  · exact placeClaim_sound hj (by exact hgiven)

theorem startIfOff_sound : (startIfOff judge s).books.sound l := by
  unfold startIfOff
  exact ite_sound (startDefrost_sound hj h) h

theorem becomeDue_sound : (becomeDue judge s).books.sound l := by
  refine startIfOff_sound hj ?_
  unfold callDefrost
  exact ite_sound h h

theorem judgeDue_sound : (judgeDue judge s).books.sound l := by
  unfold judgeDue
  exact ite_sound (becomeDue_sound hj h) h

theorem endDefrost_sound {byTime : Bool} : (endDefrost judge byTime s).books.sound l := by
  unfold endDefrost
  dsimp only
  generalize hu : giveUp judge .heater _ = u
  have hgiven : u.books.sound l := hu ▸ giveUp_sound hj (by exact h)
  have hraised : (if byTime then raise .cooling u else u).books.sound l := ite_sound (hgiven.of (raise_books _ _)) hgiven
  exact ite_sound (hraised.of (endDraining_books _)) hraised

theorem judgeTermination_sound : (judgeTermination judge s).books.sound l := by
  unfold judgeTermination
  split
  · exact h
  · exact ite_sound (endDefrost_sound hj h) h

theorem cutOut_sound : (cutOut judge s).books.sound l := by
  have hsettled := h.of (settleRun_books s)
  unfold cutOut
  exact ite_sound (startDefrost_sound hj hsettled) (giveUp_sound hj (by exact hsettled))

theorem thermostat_sound : (thermostat judge s).books.sound l := by
  unfold thermostat
  split
  · exact ite_sound (hj _ h) h
  · exact ite_sound h (hj _ h)
  · exact ite_sound (cutOut_sound hj h) h
  · exact h
  · exact h

theorem enterIdle_sound : (enterIdle judge s).books.sound l := by
  unfold enterIdle
  exact ite_sound (hj _ h) h

theorem minOnEnds_sound : (minOnEnds judge s).books.sound l := by
  unfold minOnEnds
  exact ite_sound h (ite_sound (startDefrost_sound hj (by exact h)) (ite_sound (cutOut_sound hj (by exact h)) h))

theorem forcedStop_sound : (forcedStop judge s).books.sound l := by
  unfold forcedStop
  exact ite_sound (startDefrost_sound hj h) h

theorem phaseStarts_sound {on : Bool} : (phaseStarts judge on s).books.sound l := by
  unfold phaseStarts
  dsimp only
  split
  · exact hj _ h
  · exact hj _ h
  · exact ite_sound (cutOut_sound hj (by exact h)) h
  · exact h

theorem takeSample_sound {a b e : BitVec 12} : (takeSample judge a b e s).books.sound l := by
  have hsampled : (updateFallback (judgeSpread (sampleChannels a b e (takeSetpoint s)))).books.sound l :=
    h.of ((updateFallback_books _).trans ((judgeSpread_books _).trans (sampleChannels_books _ _ _ _)))
  unfold takeSample
  exact judgeZone_sound (judgeTermination_sound hj (ite_sound hsampled (thermostat_sound hj hsampled)))

end

end
/-! ## The cards -/

section
variable {l : Ledger} {s : State} {slot : Nat}

theorem forEach_sound {f : Nat → State → State}
    (hf : ∀ slot s, s.books.sound l → (f slot s).books.sound l) :
    ∀ {slots : List Nat} {s : State}, s.books.sound l → (forEach f slots s).books.sound l
  | [], _, h => h
  | slot :: rest, s, h => by
    rw [forEach]
    exact forEach_sound hf (hf slot s h)

theorem putSlot_books (slot off : Nat) (bytes : List Byte) (s : State) : (s.putSlot slot off bytes).books = s.books := rfl

theorem putVendResult_books (slot charged revolutions : Nat) (drop : Option Nat) (s : State) :
    (putVendResult slot charged revolutions drop s).books = s.books :=
  (putSlot_books _ _ _ _).trans (putSlot_books _ _ _ _)

theorem putSlot_sound {off : Nat} {bytes : List Byte} (h : s.books.sound l) : (s.putSlot slot off bytes).books.sound l :=
  h.of (putSlot_books _ _ _ _)

theorem complete_sound {o : CardOutcome} (h : s.books.sound l) : (complete slot o s).books.sound l :=
  h.of (complete_books _ _ _)

theorem completeOk_sound (h : s.books.sound l) : (completeOk slot s).books.sound l := requestSave_sound (complete_sound h)

theorem recomputeChange_sound (h : s.books.sound l) : (recomputeChange s).books.sound l := h.of (recomputeChange_books _)

/-- The dispatcher, once for all: what the owner of a card keeps, the take and the answer of that card keep. -/
theorem dispatch_sound {k : CardKind} {handle : Nat → State → State}
    (hhandle : ∀ {slot : Nat} {s : State}, s.books.sound l → (handle slot s).books.sound l) (h : s.books.sound l) :
    (dispatch k handle s).books.sound l := by
  have htaken (slot : Nat) : (takeHead slot s).books.sound l := h.of (takeHead_books _ _)
  unfold dispatch
  repeat' split
  · exact h
  · exact complete_sound (putSlot_sound (htaken _))
  · exact hhandle (htaken _)
  · exact h

theorem endVendAtIntake_sound {o : CardOutcome} (h : s.books.sound l) : (endVendAtIntake slot o s).books.sound l :=
  complete_sound (h.of (putVendResult_books _ _ _ _ _))

theorem takeSlot_sound (h : s.books.sound l) : (takeSlot slot s).books.sound l :=
  putSlot_sound (putSlot_sound (by exact h))

theorem abortFollower_sound (h : s.books.sound l) : (abortFollower slot s).books.sound l := by
  have htaken := takeSlot_sound (slot := slot) h
  unfold abortFollower
  dsimp only
  generalize takeSlot slot s = u at htaken
  exact ite_sound (endVendAtIntake_sound htaken) (complete_sound htaken)

theorem takeBasket_sound (h : s.books.sound l) : (takeBasket slot s).books.sound l := by
  unfold takeBasket
  split
  · refine ite_sound ?_ ?_
    · exact forEach_sound (f := takeSlot) (fun _ _ => takeSlot_sound) h
    · exact endVendAtIntake_sound (forEach_sound (fun _ _ h => endVendAtIntake_sound (takeSlot_sound h)) h)
  · exact endVendAtIntake_sound (forEach_sound (fun _ _ => abortFollower_sound) h)

theorem takeVend_sound (h : s.books.sound l) : (takeVend slot s).books.sound l :=
  ite_sound (ite_sound h (endVendAtIntake_sound h)) (takeBasket_sound h)

theorem takeTest_sound (h : s.books.sound l) : (takeTest slot s).books.sound l := ite_sound h (complete_sound h)

theorem endCancel_sound {cancelled : Nat} {o : CardOutcome} (h : s.books.sound l) :
    (endCancel slot cancelled o s).books.sound l := complete_sound (putSlot_sound h)

theorem cancelQueued_sound {slots : List Nat} (h : s.books.sound l) : (cancelQueued slots s).books.sound l :=
  forEach_sound (fun _ _ h => endVendAtIntake_sound h) (by exact h)

theorem closeBasket_sound (h : s.books.sound l) : (closeBasket s).books.sound l := h.of (closeBasket_books _)

theorem applyCancel_sound (h : s.books.sound l) : (applyCancel slot s).books.sound l := by
  unfold applyCancel
  dsimp only
  split
  · exact endCancel_sound h
  · exact endCancel_sound h
  · exact endCancel_sound (closeBasket_sound (cancelQueued_sound h))
  · exact endCancel_sound (closeBasket_sound (cancelQueued_sound (verdict_sound judgeLoad_keepsBooks h)))

theorem takePayout_sound (h : s.books.sound l) : (takePayout slot s).books.sound l := ite_sound h (complete_sound h)

/-- TUBE_FILL accepts what the tube has room for (R111). -/
theorem applyTubeFill_sound (h : s.books.sound l) : (applyTubeFill slot s).books.sound l := by
  unfold applyTubeFill
  split
  · exact h
  · rename_i t _
    have hfilled := recomputeChange_sound (putTube_count_sound (k := t) (gate := s.tubes[t].gate)
      (n := s.tubes[t].count + min (s.slotByte slot 9) (s.tubes[t].capacity - s.tubes[t].count)) h fun _ => by omega)
    unfold fillTube
    dsimp only
    generalize recomputeChange _ = u at hfilled
    exact ite_sound (complete_sound h) (completeOk_sound (by exact hfilled))

/-! ### SET_SPIRAL and SET_COIN -/

theorem pairPartner_sound {p : Pairing} {i : Fin 80} (h : s.books.sound l) : (pairPartner p i s).books.sound l := by
  unfold pairPartner
  dsimp only
  split
  · exact putSpiral_sound h fun hstocks => hstocks (nextSpiral i)
  · exact putSpiral_sound h nofun
  · exact h
  · exact h

theorem writeSpiral_sound {q : SpiralRequest} {p : Pairing} {i : Fin 80} (h : s.books.sound l) :
    (writeSpiral q p i s).books.sound l := by
  have hput := putSpiral_sound (i := i) (r := s.spirals[i].apply q (p.role s.spirals[i].role))
    (pairPartner_sound (p := p) (i := i) h) fun _ => Spiral.settled_stock _
  unfold writeSpiral
  exact ite_sound (mirror_sound hput) hput

theorem applySetSpiral_sound (h : s.books.sound l) : (applySetSpiral slot s).books.sound l := by
  unfold applySetSpiral
  split
  · exact h
  · unfold setSpiral
    refine ite_sound (complete_sound h) (ite_sound (complete_sound h) ?_)
    split
    · exact complete_sound h
    · exact completeOk_sound (putSlot_sound (putSlot_sound (writeSpiral_sound h)))

theorem routeConsistent_value {r : Channel} {tubes : Vector Tube 4} {k : Fin 4} (hr : routeConsistent r tubes = true)
    (hroute : r.route = some k) (hvalue : r.value ≠ 0) : r.value = tubes[k].value := by
  simp only [routeConsistent, hroute, Bool.or_eq_true, beq_iff_eq, hvalue, false_or] at hr
  exact hr.symm

/-- A channel record that satisfies the route condition (R97). -/
theorem setRecord_sound {c : Fin 6} {r : Channel} (h : s.books.sound l) (hr : routeConsistent r s.tubes = true) :
    State.books { s with channels := s.channels.set c r } |>.sound l := by
  refine h.write rfl (fun hrecords => ?_) fun _ hheld => hheld
  cases l with
  | goods => exact hrecords
  | money =>
    obtain ⟨hcredit, htubes, hroutes⟩ := hrecords
    refine ⟨hcredit, htubes, fun d t hvalue hroute => ?_⟩
    have hd := hroutes d t
    simp only [Image.records, State.image, Tube.saved, Fin.getElem_fin, Vector.getElem_map, Vector.getElem_set] at hd hvalue hroute ⊢
    split at hvalue
    · next hcd =>
      rw [if_pos hcd] at hroute ⊢
      exact routeConsistent_value hr hroute hvalue
    · next hcd =>
      rw [if_neg hcd] at hroute ⊢
      exact hd hvalue hroute

theorem setChannel_sound {c : Fin 6} (h : s.books.sound l) : (setChannel slot c s).books.sound l := by
  unfold setChannel
  dsimp only
  generalize Channel.mk _ _ _ = r
  have hwritten : (if routeConsistent r s.tubes then { s with channels := s.channels.set c r } else s).books.sound l := by
    split
    · next hr => exact setRecord_sound h hr
    · exact h
  generalize (if routeConsistent r s.tubes then { s with channels := s.channels.set c r } else s) = u at hwritten
  exact ite_sound (completeOk_sound (putSlot_sound hwritten)) (complete_sound (putSlot_sound hwritten))

/-- The relations of R106 and R97 are what a tube record needs; an unselected count or reserve is clamped (R106). -/
theorem Tube.apply_sound {q : TubeRequest} {t : Fin 4} (h : s.books.sound l) (hq : tubeRelations q t s = true) :
    (putTube t (s.tubes[t].apply q) s).books.sound l := by
  simp only [tubeRelations, Bool.and_eq_true, decide_eq_true_eq, Bool.or_eq_true, beq_iff_eq] at hq
  obtain ⟨⟨hcount, hreserve⟩, hvalue⟩ := hq
  refine putTube_sound h (fun _ => ⟨?_, ?_⟩) fun c hc hroute heq => ?_
  · cases hsel : q.count <;> simp_all [Tube.apply]
  · cases hsel : q.reserve <;> simp_all [Tube.apply]
  · rcases hvalue with hsame | hall
    · exact heq.trans hsame.symm
    · have hc' := List.all_eq_true.mp hall s.channels[c] (by simp)
      simp only [hroute, bne_self_eq_false, Bool.false_or, Bool.or_eq_true, beq_iff_eq, hc, false_or] at hc'
      exact hc'

theorem setTube_sound {t : Fin 4} (h : s.books.sound l) : (setTube slot t s).books.sound l := by
  unfold setTube
  dsimp only
  generalize hrefusal : (if s.tubes[t].busy then some CardOutcome.tubeBusy
    else if tubeRelations (s.tubeRequest slot) t s then none else some .outOfRange) = refusal
  have hwritten : (if refusal.isNone then recomputeChange (putTube t (s.tubes[t].apply (s.tubeRequest slot)) s)
      else s).books.sound l := by
    split
    · next hnone =>
      obtain rfl := Option.isNone_iff_eq_none.mp hnone
      have hq : tubeRelations (s.tubeRequest slot) t s = true := by
        by_contra hq
        simp only [hq] at hrefusal
        split at hrefusal <;> cases hrefusal
      exact recomputeChange_sound (Tube.apply_sound h hq)
    · exact h
  generalize (if refusal.isNone then _ else s) = u at hwritten
  split
  · exact completeOk_sound (putSlot_sound hwritten)
  · exact complete_sound (putSlot_sound hwritten)

theorem applySetCoin_sound (h : s.books.sound l) : (applySetCoin slot s).books.sound l := by
  unfold applySetCoin
  refine ite_sound ?_ ?_
  · split
    · exact h
    · exact setChannel_sound h
  · split
    · exact h
    · exact setTube_sound h

/-! ### The groups of settings -/

theorem applyMoney_sound {g : MoneySettings} (h : s.books.sound l) : (applyMoney slot g s).books.sound l := by
  unfold applyMoney
  exact ite_sound (complete_sound h) (completeOk_sound (recomputeChange_sound h))

theorem applyCooling_sound {c : CoolingSettings} (h : s.books.sound l) : (applyCooling slot c s).books.sound l := by
  have hput : (putCooling c s).books.sound l := h.of (putCooling_books _ _)
  exact completeOk_sound (ite_sound hput (judgeDue_sound judgeLoad_keepsBooks hput))

theorem defaultCooling_sound (h : s.books.sound l) : (defaultCooling slot s).books.sound l := by
  have hput : (putCooling .factory s).books.sound l := h.of (putCooling_books _ _)
  exact completeOk_sound (ite_sound hput (hput.of (callIfReached_books _)))

theorem applyLoad_sound {g : LoadSettings} (h : s.books.sound l) : (applyLoad slot g s).books.sound l :=
  completeOk_sound (judgeLoad_keepsBooks _ h)

theorem applySetLoad_sound (h : s.books.sound l) : (applySetLoad slot s).books.sound l := by
  unfold applySetLoad
  exact ite_sound (applyLoad_sound h) (complete_sound h)

theorem completeOk_applyPort_sound {p : PortSettings} (h : s.books.sound l) :
    (completeOk slot (applyPort p s)).books.sound l := completeOk_sound (h.of (applyPort_books _ _))

/-- The factory record of a spiral is DISABLED (R14). -/
theorem defaultSpirals_sound : ∀ {is : List (Fin 80)} {s : State}, s.books.sound l → (defaultSpirals is s).books.sound l
  | [], _, h => h
  | i :: rest, s, h => by
    rw [defaultSpirals]
    exact defaultSpirals_sound (putSpiral_sound h fun _ => nofun)

/-- Factory channels are routed to no tube of their value, and a tube keeps what its factory capacity takes (R98). -/
theorem defaultCoins_sound (h : s.books.sound l) :
    State.books { s with channels := Vector.replicate 6 .factory, tubes := s.tubes.map Tube.defaulted } |>.sound l := by
  refine h.write rfl (fun hrecords => ?_) fun _ hheld => hheld
  cases l with
  | goods => exact hrecords
  | money =>
    obtain ⟨hcredit, -, -⟩ := hrecords
    refine ⟨hcredit, fun t => ?_, fun c t hvalue _ => ?_⟩
    · simp [Image.records, State.image, Tube.saved, Tube.defaulted, tubeOk]
    · simp [Image.records, State.image, Channel.factory] at hvalue

theorem applyDefaults_sound (h : s.books.sound l) : (applyDefaults slot s).books.sound l := by
  unfold applyDefaults
  split
  · exact applyMoney_sound h
  · exact completeOk_sound h
  · exact applyLoad_sound h
  · exact completeOk_applyPort_sound h
  · exact defaultCooling_sound h
  · exact ite_sound (complete_sound h) (completeOk_sound (defaultSpirals_sound h))
  · exact ite_sound (complete_sound h) (completeOk_sound (recomputeChange_sound (defaultCoins_sound h)))
  · exact h

/-! ### The cards of the zone, the cooling, the drive and the store -/

theorem applyReleaseZone_sound (h : s.books.sound l) : (applyReleaseZone slot s).books.sound l := by
  have hreleased : (if s.zone = .locked then putZone .safe 0 s else s).books.sound l :=
    ite_sound (putZone_sound h ⟨fun _ => rfl, by omega⟩) h
  unfold applyReleaseZone
  dsimp only
  generalize (if s.zone = .locked then putZone .safe 0 s else s) = u at hreleased
  exact ite_sound (complete_sound h) (completeOk_sound (by exact hreleased))

theorem takeDefrostNow_sound (h : s.books.sound l) : (takeDefrostNow slot s).books.sound l := by
  unfold takeDefrostNow
  exact ite_sound (complete_sound h) (becomeDue_sound judgeLoad_keepsBooks (by exact h))

theorem takeResumeDrive_sound (h : s.books.sound l) : (takeResumeDrive slot s).books.sound l := by
  unfold takeResumeDrive
  exact ite_sound (complete_sound h) (ite_sound h (completeOk_sound h))

theorem takeSnapshot_sound (h : s.books.sound l) : (takeSnapshot slot s).books.sound l := by
  unfold takeSnapshot
  exact ite_sound (complete_sound h) (requestSave_sound (by exact h))

theorem takeStore_sound (h : s.books.sound l) : (takeStore slot s).books.sound l := by
  unfold takeStore
  exact ite_sound (complete_sound h) (requestSave_sound (by exact h))

end

/-! ## The drive, the drop sensor and the door -/

section
variable {l : Ledger} {s : State}

theorem camLine_sound {spiral : Fin 80} {level : CamLevel} (h : s.books.sound l) :
    (camLine spiral level s).books.sound l := by
  unfold camLine
  dsimp only
  repeat' split
  · exact h
  · exact jamReport_sound judgeLoad_keepsBooks (by exact h)
  · exact h
  · exact h

theorem consumeEdge_sound {column : Fin 10} {time : Nat} {r : Revolution} (h : s.books.sound l) :
    (consumeEdge column time r s).books.sound l := by
  unfold consumeEdge reportOpened
  exact ite_sound (revolutionComplete_sound judgeLoad_keepsBooks h) (ite_sound h h)

theorem takeLimit_sound {judged waits : Cam → Bool} {r : Revolution} (h : s.books.sound l) :
    (takeLimit judged waits r s).books.sound l := by
  unfold takeLimit
  exact ite_sound (jamReport_sound judgeLoad_keepsBooks h) h

theorem setCurrent_sound {current : Nat} (h : s.books.sound l) : (setCurrent current s).books.sound l := by
  unfold setCurrent
  split
  · exact h
  · exact ite_sound (ite_sound (shortReport_sound judgeLoad_keepsBooks h) h) h

theorem doorAborts_sound (h : s.books.sound l) : (doorAborts s).books.sound l := by
  unfold doorAborts
  repeat' split
  · exact h
  · exact verdict_sound judgeLoad_keepsBooks h
  · exact testEnd_sound judgeLoad_keepsBooks h
  · exact h

theorem dropWaitEnds_sound {f : Flight} (h : s.books.sound l) : (dropWaitEnds f s).books.sound l := by
  unfold dropWaitEnds
  exact ite_sound (motorStart_sound judgeLoad_keepsBooks h) (verdict_sound judgeLoad_keepsBooks h)

theorem giveDrop_sound (h : s.books.sound l) : (giveDrop s).books.sound l := by
  unfold giveDrop
  dsimp only
  repeat' split
  · exact verdict_sound judgeLoad_keepsBooks (by exact h)
  · exact h
  · exact h
  · exact h

theorem sensorFails_sound (h : s.books.sound l) : (sensorFails s).books.sound l := by
  have hfault {u : State} (hu : u.books.sound l) : (faultVerdict u).books.sound l := by
    unfold faultVerdict
    split
    · exact ite_sound (verdict_sound judgeLoad_keepsBooks hu) hu
    · exact hu
  have hraised : (raise .drive { s.reach (s.drop.since + 2001) with drop := { s.drop with fault := true } }).books.sound l :=
    h.of (raise_books _ _)
  unfold sensorFails
  exact ite_sound (hfault hraised) hraised

/-! ## The supply -/

theorem completeHeld_sound {c : Option HeldSave} {i : Image} (h : s.books.sound l) :
    (completeHeld c i s).books.sound l := h.of (completeHeld_books _ _ _)

theorem afterSave_sound {i : Image} (h : s.books.sound l) : (afterSave i s).books.sound l := by
  have hheld : (completeHeld s.store.heldSnapshot i (completeHeld s.store.heldStore i
      { s with store := { s.store with heldStore := stillHeld s.store.heldStore,
                                       heldSnapshot := stillHeld s.store.heldSnapshot } })).books.sound l :=
    completeHeld_sound (completeHeld_sound (by exact h))
  unfold afterSave
  dsimp only
  generalize completeHeld s.store.heldSnapshot i _ = u at hheld
  exact ite_sound (beginSave_sound (by exact hheld)) hheld

/-- The factory records are sound (R97, R98, R12; the zone starts LOCKED, R187). -/
theorem Image.factory_sound (l : Ledger) : Image.factory.records.sound l := by
  cases l with
  | money =>
    refine ⟨Nat.zero_le _, fun t => ?_, fun c t hvalue _ => ?_⟩
    · simp [Image.records, Image.factory, Tube.saved, Tube.factory, tubeOk]
    · simp [Image.records, Image.factory, Channel.factory] at hvalue
  | goods =>
    refine ⟨fun i hready => ?_, nofun, Nat.zero_le _⟩
    simp [Image.records, Image.factory, Spiral.factory] at hready

theorem restored_books (reason : RestartReason) (pins : Pins) (i : Image) (lost : Bool) (s : State) :
    (restored reason pins i lost s).books =
      { records := ⟨i.credit, i.channels, i.tubes, i.spirals.map Spiral.saved, (restartZone i).1, (restartZone i).2⟩,
        held := 0, stored := s.store.image, capture := none } := by
  have htubes : (Vector.ofFn fun t => i.tubes[t].restored pins.full[t]).map Tube.saved = i.tubes := by
    ext t ht
    all_goals simp [Tube.saved, SavedTube.restored]
  have hspirals : (i.spirals.map Spiral.saved).map Spiral.saved = i.spirals.map Spiral.saved := by
    ext t ht
    all_goals simp [Spiral.saved]
  rw [State.books_def]
  simp only [restored, htubes, hspirals]
  rfl

/-- A restart takes the records of an image, holds nothing, and starts the zone LOCKED or UNVERIFIED (R187). -/
theorem restored_sound {reason : RestartReason} {pins : Pins} {i : Image} {lost : Bool} (h : s.books.sound l)
    (hi : i.records.sound l) : (restored reason pins i lost s).books.sound l := by
  rw [restored_books]
  refine ⟨?_, h.stored, by simp, fun _ => Nat.zero_le _⟩
  cases l with
  | money => exact hi
  | goods =>
    obtain ⟨hstocks, -, hlimit⟩ := hi
    refine ⟨by simpa [Image.records, stocksOk, Spiral.saved] using hstocks, ?_⟩
    dsimp only [restartZone]
    split
    · exact ⟨nofun, hlimit⟩
    · exact ⟨nofun, Nat.zero_le _⟩

theorem restart_sound {reason : RestartReason} {pins : Pins} (h : s.books.sound l) :
    (restart reason pins s).books.sound l := by
  unfold restart
  split
  · next i hi => exact recomputeChange_sound ((restored_sound h (h.stored i hi)).of (count_books _ _ _))
  · exact recomputeChange_sound ((restored_sound h (Image.factory_sound l)).of (count_books _ _ _))

/-- What a save captured becomes the stored image (R178). -/
theorem putStored_sound {i : Image} {store : Store} (h : s.books.sound l) (hi : i.records.sound l)
    (hstored : store.image = some i) (hcapture : store.capture = none) :
    State.books { s with store := store } |>.sound l := by
  refine ⟨h.records, fun j hj => ?_, fun j hj => ?_, h.held⟩
  · obtain rfl := Option.some.inj (hstored.symm.trans hj)
    exact hi
  · exact nomatch hcapture.symm.trans hj

theorem completeSave_sound {pins : Pins} {i : Image} (h : s.books.sound l) (hi : i.records.sound l) :
    (completeSave pins i s).books.sound l := by
  have hwritten := putStored_sound (store := { s.store with
    state := .ok, stored := { records := i, crc := imageCrc i, incomplete := false }, capture := none, ends := none })
    h hi (by simp [Store.image]) rfl
  unfold completeSave
  dsimp only
  generalize State.mk .. = u at hwritten ⊢
  split
  · exact afterSave_sound hwritten
  · exact hwritten
  · exact restart_sound hwritten

theorem countInterrupted_store (s : State) : (countInterrupted s).store = s.store := by
  unfold countInterrupted
  repeat' split
  all_goals rfl

theorem countInterrupted_sound (h : s.books.sound l) : (countInterrupted s).books.sound l := by
  unfold countInterrupted
  split
  · exact ite_sound h h
  · exact h

theorem stopOutputs_books (s : State) : (stopOutputs s).books = s.books := by
  have hsaved : (Tube.saved ∘ fun t => { t with gate := none }) = Tube.saved := rfl
  simp [State.books_def, stopOutputs, hsaved]

theorem assertPfail_sound (h : s.books.sound l) : (assertPfail s).books.sound l := by
  have hcounted := countInterrupted_sound (h.of (settleRun_books s))
  have hstore : (countInterrupted (settleRun s)).store = s.store := by rw [countInterrupted_store, settleRun_eq]
  unfold assertPfail
  generalize countInterrupted (settleRun s) = u at hcounted hstore
  rw [← hstore]
  exact beginSave_sound (Books.sound.of (by exact hcounted) (stopOutputs_books _))

end

/-! ## Every command -/

/-- A next state, if there is one, has sound books. -/
def nextSound (l : Ledger) (o : Host.Outcome State Fault Refusal) : Prop := ∀ t, o = .next t → t.books.sound l

section
variable {l : Ledger} {s : State}

theorem nextSound.next {t : State} (h : t.books.sound l) : nextSound l (.next t) := by
  rintro _ ⟨rfl⟩
  exact h

end

section
variable {l : Ledger} {s : State} (h : s.books.sound l)
include h

theorem execMemoryRead_sound (start : Option Half) (count : Nat) : nextSound l (execMemoryRead start count s) := by
  refine .next ?_
  split
  · exact h
  · exact h
  · exact h

theorem execNoticeRead_sound (read : RegisterRead) : nextSound l (execNoticeRead read s) := by
  refine .next ?_
  exact ite_sound (h.of (clearNotice_books _)) h

theorem execKeepalivePeriodEnd_sound : nextSound l (execKeepalivePeriodEnd s) := by
  refine .next ?_
  split
  · exact ite_sound (Books.sound.of (by exact h) (periodEnds_books _)) h
  · exact h

theorem execSilentReturnExpiry_sound : nextSound l (execSilentReturnExpiry s) := by
  refine .next ?_
  split
  · exact ite_sound (Books.sound.of (by exact h) (requestReturnIfAny_books _ _)) h
  · exact h

theorem execBadCard_sound : nextSound l (execBadCard s) := by
  refine .next ?_
  repeat' split
  · exact h
  · exact complete_sound (putSlot_sound (h.of (takeHead_books _ _)))
  · exact h

theorem takeQueueHead_sound {k : CardKind} {check : QueueEntry → State → State}
    (hcheck : ∀ {e : QueueEntry} {s : State}, s.books.sound l → (check e s).books.sound l) :
    (takeQueueHead k check s).books.sound l := by
  unfold takeQueueHead
  split
  · exact ite_sound (hcheck (by exact h)) h
  · exact h

theorem execLoadWaitExpiry_sound : nextSound l (execLoadWaitExpiry s) := by
  refine .next ?_
  split
  · exact endFlight_sound judgeLoad_keepsBooks (by exact h)
  · exact h

theorem execCamEdgeConsumed_sound (column : Fin 10) : nextSound l (execCamEdgeConsumed column s) := by
  refine .next ?_
  repeat' split
  · exact h
  · exact consumeEdge_sound (by exact h)
  · exact h
  · exact h

theorem execCamLeaveLimit_sound : nextSound l (execCamLeaveLimit s) := by
  refine .next ?_
  split
  · exact h
  · exact ite_sound (takeLimit_sound (by exact h)) h

theorem execRevolutionLimit_sound : nextSound l (execRevolutionLimit s) := by
  refine .next ?_
  split
  · exact h
  · exact ite_sound (takeLimit_sound (by exact h)) h

theorem execJamTimerExpiry_sound : nextSound l (execJamTimerExpiry s) := by
  refine .next ?_
  repeat' split
  · exact h
  · exact jamReport_sound judgeLoad_keepsBooks (by exact h)
  · exact h
  · exact h

theorem execMotorShort_sound (current : Nat) : nextSound l (execMotorShort current s) :=
  .next (ite_sound (shortReport_sound judgeLoad_keepsBooks h) h)

theorem execOffCurrentCheckPass_sound (highest : Nat) : nextSound l (execOffCurrentCheckPass highest s) := by
  refine .next ?_
  split
  · refine ite_sound (completeOk_sound (putSlot_sound ?_)) h
    exact Books.sound.of (by exact h) (raise_books _ _)
  · exact h

theorem execOffCurrentCheckFail_sound (highest : Nat) : nextSound l (execOffCurrentCheckFail highest s) := by
  refine .next ?_
  split
  · exact ite_sound (complete_sound (putSlot_sound (by exact h))) h
  · exact h

theorem execBeamChange_sound (after : Nat) (blocked : Bool) : nextSound l (execBeamChange after blocked s) := by
  refine .next ?_
  unfold setBeam
  exact ite_sound h h

theorem execDropRecognised_sound : nextSound l (execDropRecognised s) := .next (ite_sound (giveDrop_sound (by exact h)) h)

theorem execDropSensorFault_sound : nextSound l (execDropSensorFault s) := .next (ite_sound (sensorFails_sound h) h)

theorem execDropSensorRecovery_sound : nextSound l (execDropSensorRecovery s) :=
  .next (ite_sound (Books.sound.of (by exact h) (raise_books _ _)) h)

theorem execDropWaitExpiry_sound : nextSound l (execDropWaitExpiry s) := by
  refine .next ?_
  repeat' split
  · exact dropWaitEnds_sound (by exact h)
  · exact h
  · exact h
  · exact h

theorem execDoorStateChange_sound (door : DoorState) : nextSound l (execDoorStateChange door s) := by
  refine .next ?_
  have hraised : (raise .door { s with door := door }).books.sound l := h.of (raise_books _ _)
  exact ite_sound h (ite_sound (doorAborts_sound hraised) hraised)

theorem execCoinArrival_sound (channel : Fin 6) (returned : Bool) : nextSound l (execCoinArrival channel s returned) :=
  .next (ite_sound (coinArrives_sound (by exact h)) h)

/-- A tube record that changes its gate or its switch alone. -/
theorem putTube_switch_sound {tube : Fin 4} {full : Bool} {gate : Option Nat} :
    (putTube tube { s.tubes[tube] with full := full, gate := gate } s).books.sound l :=
  putTube_sound h id fun _ _ _ hvalue => hvalue

theorem execGateTimerExpiry_sound (tube : Fin 4) : nextSound l (execGateTimerExpiry tube s) := by
  refine .next ?_
  split
  · exact h
  · exact putTube_switch_sound (by exact h)

theorem execCoinReturnLever_sound : nextSound l (execCoinReturnLever s) :=
  .next (ite_sound (h.of ((requestReturnIfAny_books _ _).trans (raise_books _ _))) h)

theorem execPayoutStart_sound : nextSound l (execPayoutStart s) := by
  refine .next ?_
  split
  · exact ite_sound (startPayout_sound judgeLoad_keepsBooks h) h
  · exact h

theorem execEjectorPulseEnd_sound : nextSound l (execEjectorPulseEnd s) := by
  refine .next ?_
  split
  · exact ite_sound (afterPulse_sound (by exact h)) h
  · exact h

theorem execExitCoinSeen_sound (returned : Bool) : nextSound l (execExitCoinSeen s returned) :=
  .next (ite_sound (exitCoin_sound (by exact h)) h)

theorem execConfirmWindowExpiry_sound : nextSound l (execConfirmWindowExpiry s) := by
  refine .next ?_
  split
  · exact ite_sound (missCoin_sound (by exact h)) h
  · exact h

theorem execSample_sound (a b e : BitVec 12) : nextSound l (execSample a b e s) := by
  refine .next ?_
  split
  · exact ite_sound (takeSample_sound judgeLoad_keepsBooks (by exact h)) h
  · exact h

theorem execMinOffExpiry_sound : nextSound l (execMinOffExpiry s) := by
  refine .next ?_
  split
  · exact ite_sound (enterIdle_sound judgeLoad_keepsBooks (by exact h)) h
  · exact h

theorem execMinOnExpiry_sound : nextSound l (execMinOnExpiry s) := by
  refine .next ?_
  split
  · exact ite_sound (minOnEnds_sound judgeLoad_keepsBooks (by exact h)) h
  · exact h

theorem execStartWindowExpiry_sound : nextSound l (execStartWindowExpiry s) := by
  refine .next ?_
  split
  · exact ite_sound (judgeLoad_keepsBooks _ (by exact h)) h
  · exact h

theorem execFallbackPhaseExpiry_sound : nextSound l (execFallbackPhaseExpiry s) := by
  refine .next ?_
  split
  · exact ite_sound (phaseStarts_sound judgeLoad_keepsBooks (by exact h)) h
  · exact h

theorem execDefrostDue_sound : nextSound l (execDefrostDue s) :=
  .next (ite_sound (startIfOff_sound judgeLoad_keepsBooks (h.of (callIfReached_books _))) h)

theorem execDefrostForcedStop_sound : nextSound l (execDefrostForcedStop s) := by
  refine .next ?_
  split
  · exact ite_sound (forcedStop_sound judgeLoad_keepsBooks (by exact h)) h
  · exact h

theorem execDefrostTimerExpiry_sound : nextSound l (execDefrostTimerExpiry s) := by
  refine .next ?_
  split
  · exact ite_sound (endDefrost_sound judgeLoad_keepsBooks (by exact h)) h
  · exact h

theorem execDrainingEnd_sound : nextSound l (execDrainingEnd s) := by
  refine .next ?_
  split
  · exact ite_sound (Books.sound.of (by exact h) (endDraining_books _)) h
  · exact h

theorem execRecoveryGraceEnd_sound : nextSound l (execRecoveryGraceEnd s) := by
  refine .next ?_
  split
  · exact ite_sound h h
  · exact h

theorem execRunTimeAccumulatorSecond_sound : nextSound l (execRunTimeAccumulatorSecond s) := by
  refine .next ?_
  split
  · exact ite_sound (judgeDue_sound judgeLoad_keepsBooks (by exact h)) h
  · exact h

theorem execSaveComplete_sound (pins : Pins) : nextSound l (execSaveComplete pins s) := by
  refine .next ?_
  split
  · exact h
  · next i hi => exact completeSave_sound h (h.capture i hi)

theorem execPfailAssert_sound : nextSound l (execPfailAssert s) := by
  refine .next ?_
  split
  · exact assertPfail_sound h
  · exact beginSave_sound h
  · exact h

theorem execPfailRelease_sound (pins : Pins) : nextSound l (execPfailRelease pins s) := by
  refine .next ?_
  split
  · exact ite_sound h (restart_sound h)
  · exact h
  · exact h

/-- What a command can do to the books, once for all. -/
theorem exec_sound (i : Instr) : nextSound l (exec i s) := by
  cases i with
  | memoryRead start count => exact execMemoryRead_sound h start count
  | memoryWrite addr data completed => exact .next (ite_sound (h.of (applyWrite_books _ _ _ _)) h)
  | unknownCommand command => exact .next (ite_sound (h.of (countRefused_books s)) h)
  | noticeRead read => exact execNoticeRead_sound h read
  | noticeMaskWrite data => exact .next (ite_sound (h.of (writeRegister_books _ _ _)) h)
  | registerWriteRefused register data => exact .next (ite_sound (h.of (writeRegister_books _ _ _)) h)
  | portReset released => exact .next (ite_sound (Books.sound.of (by exact h) (raise_books _ _)) h)
  | keepalivePeriodEnd => exact execKeepalivePeriodEnd_sound h
  | silentReturnExpiry => exact execSilentReturnExpiry_sound h
  | badCard => exact execBadCard_sound h
  | vend => exact .next (dispatch_sound takeVend_sound h)
  | cancel => exact .next (dispatch_sound applyCancel_sound h)
  | returnCredit => exact .next (dispatch_sound (fun h => h.of (requestReturn_books _ _ _)) h)
  | payout => exact .next (dispatch_sound takePayout_sound h)
  | tubeFill => exact .next (dispatch_sound applyTubeFill_sound h)
  | setSpiral => exact .next (dispatch_sound applySetSpiral_sound h)
  | setCoin => exact .next (dispatch_sound applySetCoin_sound h)
  | setMoney => exact .next (dispatch_sound applyMoney_sound h)
  | setVend => exact .next (dispatch_sound (fun h => completeOk_sound h) h)
  | setCooling => exact .next (dispatch_sound applyCooling_sound h)
  | setLoad => exact .next (dispatch_sound applySetLoad_sound h)
  | setPort => exact .next (dispatch_sound completeOk_applyPort_sound h)
  | defaults => exact .next (dispatch_sound applyDefaults_sound h)
  | releaseZone => exact .next (dispatch_sound applyReleaseZone_sound h)
  | defrostNow => exact .next (dispatch_sound takeDefrostNow_sound h)
  | testSpiral => exact .next (dispatch_sound takeTest_sound h)
  | resumeDrive => exact .next (dispatch_sound takeResumeDrive_sound h)
  | snapshot => exact .next (dispatch_sound takeSnapshot_sound h)
  | store => exact .next (dispatch_sound takeStore_sound h)
  | vendCheckStage => exact .next (takeQueueHead_sound h fun h => checkVend_sound judgeLoad_keepsBooks h)
  | testCheckStage => exact .next (takeQueueHead_sound h fun h => checkTest_sound judgeLoad_keepsBooks h)
  | loadWaitExpiry => exact execLoadWaitExpiry_sound h
  | camLineChange after spiral level => exact .next (camLine_sound (by exact h))
  | camEdgeConsumed column => exact execCamEdgeConsumed_sound h column
  | camLeaveLimit => exact execCamLeaveLimit_sound h
  | revolutionLimit => exact execRevolutionLimit_sound h
  | motorCurrentChange after current => exact .next (setCurrent_sound (by exact h))
  | jamTimerExpiry => exact execJamTimerExpiry_sound h
  | motorShort current => exact execMotorShort_sound h current
  | offCurrentCheckPass highest => exact execOffCurrentCheckPass_sound h highest
  | offCurrentCheckFail highest => exact execOffCurrentCheckFail_sound h highest
  | beamChange after blocked => exact execBeamChange_sound h after blocked
  | dropRecognised => exact execDropRecognised_sound h
  | dropSensorFault => exact execDropSensorFault_sound h
  | dropSensorRecovery => exact execDropSensorRecovery_sound h
  | dropWaitExpiry => exact execDropWaitExpiry_sound h
  | doorStateChange door => exact execDoorStateChange_sound h door
  | coinArrival channel returned => exact execCoinArrival_sound h channel returned
  | gateTimerExpiry tube => exact execGateTimerExpiry_sound h tube
  | fullSensorChange tube full => exact .next (putTube_switch_sound h)
  | coinReturnLever => exact execCoinReturnLever_sound h
  | payoutStart => exact execPayoutStart_sound h
  | ejectorPulseEnd => exact execEjectorPulseEnd_sound h
  | exitCoinSeen returned => exact execExitCoinSeen_sound h returned
  | confirmWindowExpiry => exact execConfirmWindowExpiry_sound h
  | sample cabA cabB evap => exact execSample_sound h cabA cabB evap
  | minOffExpiry => exact execMinOffExpiry_sound h
  | minOnExpiry => exact execMinOnExpiry_sound h
  | startWindowExpiry => exact execStartWindowExpiry_sound h
  | fallbackPhaseExpiry => exact execFallbackPhaseExpiry_sound h
  | defrostDue => exact execDefrostDue_sound h
  | defrostForcedStop => exact execDefrostForcedStop_sound h
  | defrostTimerExpiry => exact execDefrostTimerExpiry_sound h
  | drainingEnd => exact execDrainingEnd_sound h
  | recoveryGraceEnd => exact execRecoveryGraceEnd_sound h
  | saveComplete pins => exact execSaveComplete_sound h pins
  | pfailAssert => exact execPfailAssert_sound h
  | pfailRelease pins => exact execPfailRelease_sound h pins
  | resetAssert pins => exact .next (restart_sound h)
  | powerOn pins => exact .next (restart_sound h)
  | restartSequenceEnd active => exact .next (ite_sound h h)
  | runTimeAccumulatorSecond => exact execRunTimeAccumulatorSecond_sound h

end

theorem step_sound {l : Ledger} {s t : State} (h : s.books.sound l) (hstep : step s = .next t) : t.books.sound l := by
  unfold step at hstep
  split at hstep
  · obtain ⟨rfl⟩ := hstep
    exact h.of (idle_books s)
  · exact exec_sound (by exact h) _ t hstep

/-- Settles O59: each ledger of the books is kept by every command (`step_sound`). -/
theorem everyStepKeepsTheRecords : Obligations.EveryStepKeepsTheRecords :=
  ⟨fun _ _ hmoney hcoins hstep => money_sound_iff.mp (step_sound (money_sound_iff.mpr ⟨hmoney, hcoins⟩) hstep),
    fun _ _ hspirals hexposure hstep => goods_sound_iff.mp (step_sound (goods_sound_iff.mpr ⟨hspirals, hexposure⟩) hstep)⟩

end Sys2Proof.Machine

/-! A change of the door, and what it ends (R70, R72, R79, R112). -/

namespace Sys2Proof.Machine

theorem raise_bits (c : NoticeClass) (s : State) :
    raise c s = { s with noticePending := s.noticePending ||| (if s.ready then c.bit else 0) } := by
  unfold raise
  split <;> simp

theorem doorAborts_none {s : State} (h : ∀ f, s.flight = some f → f.isTest ≠ (s.door == .closed)) : doorAborts s = s := by
  unfold doorAborts
  split
  · rfl
  · next f hf =>
    have hstays := h f hf
    split
    · next hvend hopened => simp [hvend, hopened] at hstays
    · next htest hclosed => simp [htest, hclosed] at hstays
    · rfl

theorem doorAborts_vend {s : State} {f : Flight} (hf : s.flight = some f) (hends : f.isTest = (s.door == .closed))
    (hvend : f.isTest = false) : doorAborts s = verdict judgeLoad .doorOpenAbort s := by
  have hopened : s.door = .opened := by
    cases hdoor : s.door with
    | opened => rfl
    | closed => simp [hvend, hdoor] at hends
  simp only [doorAborts, hf, hvend, hopened]

theorem doorAborts_test {s : State} {f : Flight} (hf : s.flight = some f) (hends : f.isTest = (s.door == .closed))
    (htest : f.isTest = true) : doorAborts s = testEnd judgeLoad .testAborted 0 s := by
  have hclosed : s.door = .closed := by simpa [htest] using hends
  simp only [doorAborts, hf, htest, hclosed]

theorem execDoorStateChange_same (s : State) : execDoorStateChange s.door s = .next s := by
  simp only [execDoorStateChange, if_true]

theorem execDoorStateChange_other {door : DoorState} {s : State} (h : door ≠ s.door) :
    execDoorStateChange door s = .next (if s.working then doorAborts (raise .door { s with door := door })
      else raise .door { s with door := door }) := by
  have hworking : (raise .door { s with door := door }).working = s.working := by simp [State.working]
  simp only [execDoorStateChange, if_neg (Ne.symm h), hworking]

/-- Settles O37: the door that changes raises DOOR, and ends the flight that needs it as it was. -/
theorem theDoorEndsAVendOrATest : Obligations.TheDoorEndsAVendOrATest := by
  intro door s
  change ∃ t, execDoorStateChange door s = .next t ∧ _
  by_cases hsame : door = s.door
  · subst hsame
    exact ⟨s, execDoorStateChange_same s, fun _ => rfl, fun h => absurd rfl h, fun _ h => absurd rfl h⟩
  · refine ⟨_, execDoorStateChange_other hsame, fun h => absurd h hsame, fun _ hstays => ?_, fun f _ hf hends hm => ?_⟩
    · rw [raise_bits]
      split
      · next hworking => exact doorAborts_none fun f hf hends => hstays f hf ⟨hworking, hends⟩
      · rfl
    · obtain ⟨hworking, hends⟩ := hends
      rw [if_pos hworking, raise_bits]
      refine ⟨fun hvend => ?_, fun htest => ?_⟩
      · rw [doorAborts_vend (f := f) ?_ ?_ hvend]
        · exact verdict_ended (by exact hm) (by exact hf) nofun nofun
        · exact hf
        · exact hends
      · rw [doorAborts_test (f := f) ?_ ?_ htest]
        · exact testEnd_ended (by exact hm) (by exact hf) (.inr (.inr (.inl rfl))) 0
        · exact hf
        · exact hends

end Sys2Proof.Machine

/-! Coins, gates, full sensors, the grace, the lever and the silent return, and the exact-change status (R99 to R102, R113, R125,
R129, R130, R165). -/

namespace Sys2Proof.Machine

/-! ## The exact-change status, the counters and the credit -/

theorem moneyIf_or (a b : Bool) : moneyIf a ||| moneyIf b = moneyIf (a || b) := by
  cases a <;> cases b <;> simp [moneyIf]

/-- R125: the flag and the guaranteed amount in one write, and MONEY when the flag changes. -/
theorem recomputeChange_eq (s : State) :
    recomputeChange s =
      { s with exactOnly := exactChangeFlag s.tubes s.moneySet.guaranteeLimit,
               guaranteed := guaranteedAmount s.tubes s.moneySet.guaranteeLimit,
               noticePending := s.noticePending |||
                 moneyIf (s.ready && exactChangeFlag s.tubes s.moneySet.guaranteeLimit != s.exactOnly) } := by
  unfold recomputeChange
  dsimp only
  split
  · next hsame => simp [hsame, moneyIf]
  · next hchanged =>
    rw [raise_bits]
    cases s.ready <;> simp [hchanged, moneyIf]

theorem recomputeChange_fresh (s : State) : statusFresh (recomputeChange s) := by simp [statusFresh]

theorem count_live_getElem (c : Counter) (n : Nat) (s : State) (i : Fin 26) :
    (count c n s).live[i] = s.live[i] + if i.val = c.index.val then BitVec.ofNat 32 n else 0 := by
  simp only [count_live, Fin.getElem_fin, Vector.getElem_set]
  by_cases hi : i.val = c.index.val
  · simp [hi]
  · simp [hi, Ne.symm hi]

/-- R100: C saturates at 65,535, and MONEY is raised if it changes. -/
theorem creditCoin_eq {s : State} (hready : s.ready = true) (v : Nat) :
    creditCoin v s = { s with credit := min 65535 (s.credit + v),
                              noticePending := s.noticePending ||| moneyIf (min 65535 (s.credit + v) != s.credit) } := by
  unfold creditCoin
  dsimp only
  split
  · next hsame => simp [hsame, moneyIf]
  · next hchanged => simp [putCredit_ready hready, hchanged, moneyIf]

/-! ## A coin (R99 to R101) -/

theorem coinTube_eq_some {c : Channel} {tubes : Vector Tube 4} {k : Fin 4} :
    coinTube c tubes = some k ↔
      c.route = some k ∧ c.value ≠ 0 ∧ tubes[k].count < tubes[k].capacity ∧ tubes[k].full = false := by
  unfold coinTube
  split
  · next hroute => simp [hroute]
  · next j hroute =>
    constructor
    · intro hj
      split at hj
      · next hroom =>
        cases hj
        exact ⟨hroute, hroom⟩
      · cases hj
    · rintro ⟨hk, hroom⟩
      cases hroute.symm.trans hk
      exact if_pos hroom

theorem coinTube_eq_none {c : Channel} {tubes : Vector Tube 4}
    (h : ∀ k, ¬ (c.route = some k ∧ c.value ≠ 0 ∧ tubes[k].count < tubes[k].capacity ∧ tubes[k].full = false)) :
    coinTube c tubes = none :=
  Option.eq_none_iff_forall_ne_some.mpr fun k hk => h k (coinTube_eq_some.mp hk)

/-- The state of a coin that has been credited and counted (R100). -/
def coinCredited (channel : Fin 6) (s : State) : State :=
  count (.coinsIn channel) 1 { s with
    credit := min 65535 (s.credit + s.channels[channel].value),
    noticePending := s.noticePending |||
      moneyIf (min 65535 (s.credit + s.channels[channel].value) != s.credit) }

theorem coinArrives_enters {channel : Fin 6} {k : Fin 4} {s : State} (hready : s.ready = true)
    (hk : coinTube s.channels[channel] s.tubes = some k) :
    coinArrives channel s = recomputeChange (count (.coinsToTube k) 1
      (putTube k { s.tubes[k] with count := s.tubes[k].count + 1, gate := some (s.now + 400) } (coinCredited channel s))) := by
  simp only [coinArrives, routeCoin, hk, creditCoin_eq hready]
  rfl

theorem coinArrives_cashBox {channel : Fin 6} {s : State} (hready : s.ready = true)
    (hnone : coinTube s.channels[channel] s.tubes = none) :
    coinArrives channel s = count .cashBox s.channels[channel].value (coinCredited channel s) := by
  simp only [coinArrives, routeCoin, hnone, creditCoin_eq hready]
  rfl

theorem coinEnters_live (channel : Fin 6) (k : Fin 4) (r : Tube) (s : State) (i : Fin 26) :
    (count (.coinsToTube k) 1 (putTube k r (coinCredited channel s))).live[i] =
      s.live[i] + if i.val = 3 + channel.val ∨ i.val = 9 + k.val then 1 else 0 := by
  have hcounted : (coinCredited channel s).live[i] = s.live[i] + if i.val = 3 + channel.val then 1 else 0 :=
    count_live_getElem _ _ _ _
  rw [count_live_getElem]
  change (coinCredited channel s).live[i] + (if i.val = 9 + k.val then 1 else 0) = _
  rw [hcounted]
  by_cases hin : i.val = 3 + channel.val
  · simp [hin]
    omega
  · simp [hin]

theorem coinCashBox_live (channel : Fin 6) (v : Nat) (s : State) (i : Fin 26) :
    (count .cashBox v (coinCredited channel s)).live[i] =
      s.live[i] + if i.val = 3 + channel.val then 1 else if i.val = 13 then BitVec.ofNat 32 v else 0 := by
  have hcounted : (coinCredited channel s).live[i] = s.live[i] + if i.val = 3 + channel.val then 1 else 0 :=
    count_live_getElem _ _ _ _
  rw [count_live_getElem, hcounted]
  change _ + (if i.val = 13 then BitVec.ofNat 32 v else 0) = _
  by_cases hin : i.val = 3 + channel.val
  · simp [hin]
    omega
  · simp [hin]

theorem execCoinArrival_new {channel : Fin 6} {returned : Bool} {s : State} (hworking : s.working = true)
    (hnew : returned = true ∨ s.spent.coin[channel] = false) :
    exec (.coinArrival channel returned) s =
      .next (coinArrives channel { s with spent := { s.spent with coin := s.spent.coin.set channel true } }) := by
  change execCoinArrival channel s returned = _
  rw [execCoinArrival, if_pos ⟨hworking, hnew⟩]

theorem execCoinArrival_spent {channel : Fin 6} {returned : Bool} {s : State}
    (hspent : ¬ (returned = true ∨ s.spent.coin[channel] = false)) : exec (.coinArrival channel returned) s = .next s := by
  change execCoinArrival channel s returned = _
  rw [execCoinArrival, if_neg fun h => hspent h.2]

/-! ## The lever and the silent return (R113, R50) -/

/-- R129, R130: a request without a card changes the payout queue and the mark, as `returnAsked` says. -/
theorem requestReturn_noCard (o : Origin) (s : State) :
    requestReturn o none s = { s with payQueue := (returnAsked s o).1, returnMark := (returnAsked s o).2 } := by
  unfold requestReturn returnAsked
  split
  · next e hfound =>
    have hany : s.payQueue.any (fun e => e.form == .creditReturn) = true :=
      List.any_eq_true.mpr ⟨e, List.mem_of_find?_eq_some hfound, by simpa using List.find?_some hfound⟩
    cases e.card <;> simp [hany]
  · next hnone =>
    have hany : s.payQueue.any (fun e => e.form == .creditReturn) = false := by
      simpa using hnone
    simp only [hany, Bool.false_eq_true, if_false]
    split
    · rfl
    · cases s.returnMark <;> simp [completeVendAtOnce]

theorem requestReturnIfAny_eq (o : Origin) (s : State) :
    requestReturnIfAny o s = if s.held < s.credit then
      { s with payQueue := (returnAsked s o).1, returnMark := (returnAsked s o).2 } else s := by
  simp only [requestReturnIfAny, requestReturn_noCard, State.available, Nat.sub_pos_iff_lt]

/-! ## A coin in its tube or in the cash box -/

/-- R100 to R102, R125: the coin that its tube has room for. -/
theorem coinArrival_enters {channel : Fin 6} {k : Fin 4} {s t : State} (hready : s.ready = true)
    (hk : coinTube s.channels[channel] s.tubes = some k) (ht : t = coinArrives channel s) :
    t = { s with credit := min 65535 (s.credit + s.channels[channel].value), tubes := t.tubes, exactOnly := t.exactOnly,
                 guaranteed := t.guaranteed, live := t.live,
                 noticePending := s.noticePending ||| moneyIf
                   (min 65535 (s.credit + s.channels[channel].value) != s.credit || t.exactOnly != s.exactOnly) } ∧
      t.tubes = s.tubes.set k { s.tubes[k] with count := s.tubes[k].count + 1, gate := some (s.now + 400) } ∧
      statusFresh t ∧
      ∀ i : Fin 26, t.live[i] = s.live[i] + if i.val = 3 + channel.val ∨ i.val = 9 + k.val then 1 else 0 := by
  rw [coinArrives_enters hready hk] at ht
  have hlive := coinEnters_live channel k
    { s.tubes[k] with count := s.tubes[k].count + 1, gate := some (s.now + 400) } s
  refine ⟨?_, ?_, ht ▸ recomputeChange_fresh _, fun i => ?_⟩
  · have hflag : t.exactOnly = _ := ht ▸ recomputeChange_exactOnly _
    rw [hflag, ← moneyIf_or, ← BitVec.or_assoc, ht, recomputeChange_eq]
    simp [coinCredited, hready]
  · rw [ht]
    simp [coinCredited]
  · rw [ht, ← hlive i]
    simp

/-- R100, R101: the coin that falls into the cash box. -/
theorem coinArrival_cashBox {channel : Fin 6} {s t : State} (hready : s.ready = true)
    (hnone : coinTube s.channels[channel] s.tubes = none) (ht : t = coinArrives channel s) :
    t = { s with credit := min 65535 (s.credit + s.channels[channel].value), live := t.live,
                 noticePending := s.noticePending ||| moneyIf
                   (min 65535 (s.credit + s.channels[channel].value) != s.credit) } ∧
      ∀ i : Fin 26, t.live[i] = s.live[i] +
        if i.val = 3 + channel.val then 1 else if i.val = 13 then BitVec.ofNat 32 s.channels[channel].value else 0 := by
  rw [coinArrives_cashBox hready hnone] at ht
  refine ⟨?_, fun i => ?_⟩
  · rw [ht]
    rfl
  · rw [ht]
    exact coinCashBox_live _ _ _ _

theorem execGateTimerExpiry_armed {k : Fin 4} {s : State} {m : Nat} (hgate : s.tubes[k].gate = some m) :
    exec (.gateTimerExpiry k) s =
      .next { s with now := max s.now m, tubes := s.tubes.set k { s.tubes[k] with gate := none } } := by
  change execGateTimerExpiry k s = _
  rw [execGateTimerExpiry, hgate]
  rfl

theorem execRecoveryGraceEnd_armed {s : State} {m : Nat} (hworking : s.working = true) (hgrace : s.defrost.grace = some m) :
    exec .recoveryGraceEnd s = .next { s with now := max s.now m, defrost := { s.defrost with grace := none } } := by
  change execRecoveryGraceEnd s = _
  simp only [execRecoveryGraceEnd, hgrace, if_pos hworking]
  rfl

theorem execCoinReturnLever_working {s : State} (hworking : s.working = true) :
    exec .coinReturnLever s =
      .next (requestReturnIfAny .lever { s with noticePending := s.noticePending ||| NoticeClass.door.bit }) := by
  change execCoinReturnLever s = _
  rw [execCoinReturnLever, if_pos hworking, raise_ready _ (working_ready hworking)]

theorem execSilentReturnExpiry_armed {s : State} {m : Nat} (hready : s.ready = true) (hsilent : s.sup.silentReturn = some m) :
    exec .silentReturnExpiry s = .next (requestReturnIfAny .silentReturn
      { s with now := max s.now m, sup := { s.sup with silentReturn := none } }) := by
  change execSilentReturnExpiry s = _
  simp only [execSilentReturnExpiry, hsilent, if_pos hready]
  rfl

/-- Settles O39: the coin by the tube that its route gives it, the timers and the switch by their commands, and the two
requests for the credit by `requestReturnIfAny_eq`. -/
theorem coinsTubesAndReturnRequests : Obligations.CoinsTubesAndReturnRequests := by
  refine ⟨fun channel returned s hworking => ?_, fun k s => ⟨fun m => execGateTimerExpiry_armed, fun _ => rfl,
    fun m => execRecoveryGraceEnd_armed⟩, fun s => ⟨fun hworking => ?_, fun m hready hsilent => ?_⟩⟩
  · by_cases hnew : returned = true ∨ s.spent.coin[channel] = false
    · refine ⟨_, execCoinArrival_new hworking hnew, fun hspent => absurd hnew hspent, fun k _ henters => ?_,
        fun _ hout => ?_⟩
      · exact coinArrival_enters (by exact working_ready hworking) (by exact coinTube_eq_some.mpr henters) rfl
      · exact coinArrival_cashBox (by exact working_ready hworking) (by exact coinTube_eq_none hout) rfl
    · exact ⟨s, execCoinArrival_spent hnew, fun _ => rfl, fun _ h => absurd h hnew, fun h => absurd h hnew⟩
  · rw [execCoinReturnLever_working hworking, requestReturnIfAny_eq]
    rfl
  · rw [execSilentReturnExpiry_armed hready hsilent, requestReturnIfAny_eq]
    rfl

end Sys2Proof.Machine

/-! The cards of the coin records: TUBE_FILL and SET_COIN (R97, R98, R106 to R108, R111, R125). -/

namespace Sys2Proof.Machine

/-! ## The records that a result shows -/

/-- A layout is the same from every base. -/
theorem fieldByte_layOut_shift (base k : Nat) :
    ∀ (l : List (Nat × Nat)) (b : Nat), fieldByte (layOut (base + b) l) (base + k) = fieldByte (layOut b l) k
  | [], _ => rfl
  | (size, value) :: rest, b => by
    have hrest := fieldByte_layOut_shift base k rest (b + size)
    have hplace : base + k - (base + b) = k - b := by omega
    rw [layOut, layOut, fieldByte, fieldByte, Nat.add_assoc, hrest, hplace]
    simp only [Nat.add_le_add_iff_left, Nat.add_lt_add_iff_left]

/-- What the coin records and their outputs are made of (R97, R98, R104). -/
def sameCoins (s t : State) : Prop :=
  t.ready = s.ready ∧ t.pfail = s.pfail ∧ t.channels = s.channels ∧ t.tubes = s.tubes ∧ t.moneySet = s.moneySet ∧
    t.credit = s.credit

theorem sameCoins.trans {s t u : State} (hst : sameCoins s t) (htu : sameCoins t u) : sameCoins s u := by
  obtain ⟨hready, hpfail, hchannels, htubes, hmoney, hcredit⟩ := hst
  obtain ⟨hready', hpfail', hchannels', htubes', hmoney', hcredit'⟩ := htu
  exact ⟨hready'.trans hready, hpfail'.trans hpfail, hchannels'.trans hchannels, htubes'.trans htubes,
    hmoney'.trans hmoney, hcredit'.trans hcredit⟩

theorem channelFields_congr {s t : State} (h : sameCoins s t) (base : Nat) (c : Fin 6) :
    channelFields base c t = channelFields base c s := by
  obtain ⟨hready, hpfail, hchannels, -, hmoney, hcredit⟩ := h
  simp only [channelFields, State.channelInhibit, hready, hpfail, hchannels, hmoney, hcredit]

theorem tubeFields_congr {s t : State} (h : sameCoins s t) (base : Nat) (k : Fin 4) :
    tubeFields base k t = tubeFields base k s := by
  obtain ⟨-, -, -, htubes, -, -⟩ := h
  simp only [tubeFields, htubes]

theorem recordBytes_congr {fields : List Field} {f : Nat → Byte} (h : ∀ k < 16, f k = fieldByte fields k) :
    (List.range 16).map f = recordBytes fields 16 :=
  List.map_congr_left fun k hk => h k (List.mem_range.mp hk)

/-- The 16 bytes of a channel's record, as the host reads them. -/
theorem shownChannel_eq {s t : State} (h : sameCoins s t) (hready : s.ready = true) (c : Fin 6) :
    ((List.range 16).map fun k => t.readByte (0x2E00 + 16 * c.val + k)) = recordBytes (channelFields 0 c s) 16 := by
  refine recordBytes_congr fun k hk => ?_
  rw [readByte_channel (h.1.trans hready) c (by omega) (by omega), channelFields_congr h]
  exact fieldByte_layOut_shift _ _ _ 0

/-- The 16 bytes of a tube's record, as the host reads them. -/
theorem shownTube_eq {s t : State} (h : sameCoins s t) (hready : s.ready = true) (i : Fin 4) :
    ((List.range 16).map fun k => t.readByte (0x2E60 + 16 * i.val + k)) = recordBytes (tubeFields 0 i s) 16 := by
  refine recordBytes_congr fun k hk => ?_
  rw [readByte_tube (h.1.trans hready) i (by omega) (by omega), tubeFields_congr h]
  exact fieldByte_layOut_shift _ _ _ 0

section
variable (s : State) (slot : Nat) (bytes : List Byte) (u : State)

theorem putSlot_withResult : (withResult s slot [] u).putSlot slot 40 bytes = withResult s slot bytes u := by
  simp only [withResult, State.putSlot, writeCells]

theorem withResult_tubes : (withResult s slot bytes u).tubes = u.tubes := rfl

theorem sameCoins_withResult : sameCoins u (withResult s slot bytes u) := ⟨rfl, rfl, rfl, rfl, rfl, rfl⟩

theorem sameCoins_complete (o : CardOutcome) : sameCoins u (complete slot o u) := by simp [sameCoins]

theorem sameCoins_completeOk : sameCoins u (completeOk slot u) := by simp [sameCoins]

theorem completedShows (o : CardOutcome) : sameCoins u (complete slot o (withResult s slot bytes u)) :=
  (sameCoins_withResult s slot bytes u).trans (sameCoins_complete slot _ o)

theorem completedOkShows : sameCoins u (completeOk slot (withResult s slot bytes u)) :=
  (sameCoins_withResult s slot bytes u).trans (sameCoins_completeOk slot _)

end

theorem recordBytes_length (fields : List Field) : (recordBytes fields 16).length ≤ 24 := by simp [recordBytes]

/-! ## TUBE_FILL (R111) -/

/-- The result body of a TUBE_FILL that ends OK (R111): accepted coins, a byte that stays 0x00, their value, and the count. -/
def tubeFillResult (accepted value count : Nat) : List Byte :=
  [BitVec.ofNat 8 accepted, 0, BitVec.ofNat 8 value, BitVec.ofNat 8 (value / 256), BitVec.ofNat 8 count]

/-- Bytes beside a byte that stays 0x00 are one write. -/
theorem writeCells_gap {m : List Host.Cell} (hm : Memory.wf m = true) (addr : Nat) (x : Byte) (ys : List Byte)
    (hgap : readCell m (addr + 1) = 0) :
    writeCells (writeCells m addr [x]) (addr + 2) ys = writeCells m addr (x :: 0 :: ys) := by
  have hwf := writeCells_wf [x] addr hm
  have hzero : readCell (writeCells m addr [x]) (addr + 1) = 0 :=
    (readCell_writeCells_of_outside hm _ (.inr (Nat.le_refl _))).trans hgap
  exact congrArg (writeCells · (addr + 2) ys) (writeCell_zero hwf hzero).symm

/-- The bytes of the result stand one after the other; the byte that the card does not write is 0x00 (R111, R29). -/
theorem putTubeFillResult_eq {s : State} (hm : Memory.wf s.mem = true) (slot accepted count : Nat) {value : Nat}
    (hvalue : value < 65536) (u : State) :
    (putHalf slot 42 value ((withResult s slot [] u).putSlot slot 40 [BitVec.ofNat 8 accepted])).putSlot slot 44
        [BitVec.ofNat 8 count] =
      withResult s slot (tubeFillResult accepted value count) u := by
  obtain ⟨_, _, hbody⟩ := takeHead_taken hm slot
  have hfield : leBytes (field16 value) 2 = [BitVec.ofNat 8 value, BitVec.ofNat 8 (value / 256)] := by
    rw [field16, if_pos hvalue]
    rfl
  have hbytes : writeCells (writeCells (writeCells (takeHead slot s).mem (slotAddr slot 40) [BitVec.ofNat 8 accepted])
      (slotAddr slot 42) [BitVec.ofNat 8 value, BitVec.ofNat 8 (value / 256)]) (slotAddr slot 44) [BitVec.ofNat 8 count] =
      writeCells (takeHead slot s).mem (slotAddr slot 40) (tubeFillResult accepted value count) := by
    have hgap := writeCells_gap (takeHead_wf hm slot) (slotAddr slot 40) (BitVec.ofNat 8 accepted)
      ([BitVec.ofNat 8 value, BitVec.ofNat 8 (value / 256)] ++ [BitVec.ofNat 8 count]) (hbody 1 (by decide))
    rw [writeCells_append] at hgap
    exact hgap
  simp only [putSlot_withResult, putHalf, hfield]
  simp only [withResult, State.putSlot, hbytes]

theorem exec_tubeFill {s : State} {slot : Nat} {k : Fin 4} (hhead : s.validHead .tubeFill slot)
    (hnumber : s.slotByte slot 8 = k.val + 1) : exec .tubeFill s = .next (fillTube slot k (takeHead slot s)) := by
  have hbyte : (takeHead slot s).slotByte slot 8 = k.val + 1 := (slotByte_takeHead hhead.wf (by omega)).trans hnumber
  have htake : applyTubeFill slot (takeHead slot s) = fillTube slot k (takeHead slot s) := by
    rw [applyTubeFill, hbyte, tubeOf_succ]
  exact congrArg Host.Outcome.next ((dispatch_valid hhead applyTubeFill).trans htake)

theorem fillTube_worthless {slot : Nat} {k : Fin 4} {s : State} (hvalue : s.tubes[k].value = 0) :
    fillTube slot k s = complete slot .outOfRange s := if_pos hvalue

theorem fillTube_eq {slot accepted : Nat} {k : Fin 4} {s : State} (hvalue : s.tubes[k].value ≠ 0)
    (haccepted : accepted = min (s.slotByte slot 9) (s.tubes[k].capacity - s.tubes[k].count)) :
    fillTube slot k s = completeOk slot ((putHalf slot 42 (min 65535 (accepted * s.tubes[k].value))
      ((recomputeChange (putTube k { s.tubes[k] with count := s.tubes[k].count + accepted } s)).putSlot slot 40
        [BitVec.ofNat 8 accepted])).putSlot slot 44 [BitVec.ofNat 8 (s.tubes[k].count + accepted)]) := by
  subst haccepted
  exact if_neg hvalue

theorem recomputeChange_putTube_withResult (s : State) (slot : Nat) (k : Fin 4) (r : Tube) :
    recomputeChange (putTube k r (withResult s slot [] s)) =
      withResult s slot [] (recomputeChange { s with tubes := s.tubes.set k r }) := by
  rw [← recomputeChange_withResult]
  simp only [withResult, putTube]

theorem fillTube_refused {s : State} {slot : Nat} {k : Fin 4} (hm : Memory.wf s.mem = true) (hready : s.ready = true)
    (hvalue : s.tubes[k].value = 0) : answered s (fillTube slot k (takeHead slot s)) slot .outOfRange [] s := by
  rw [takeHead_eq_withResult, fillTube_worthless (by rwa [withResult_tubes])]
  exact complete_answered hm hready (by decide) .outOfRange

/-- The coins accepted go into the record, into the status and into the result (R111, R125). -/
theorem fillTube_applied {s : State} {slot accepted : Nat} {k : Fin 4} (hm : Memory.wf s.mem = true)
    (hready : s.ready = true) (hvalue : s.tubes[k].value ≠ 0)
    (haccepted : accepted = min (s.slotByte slot 9) (s.tubes[k].capacity - s.tubes[k].count)) :
    applied s (fillTube slot k (takeHead slot s)) slot
      (tubeFillResult accepted (min 65535 (accepted * s.tubes[k].value)) (s.tubes[k].count + accepted))
      (recomputeChange { s with tubes := s.tubes.set k { s.tubes[k] with count := s.tubes[k].count + accepted } }) := by
  have hadded : (withResult s slot [] s).slotByte slot 9 = s.slotByte slot 9 :=
    takeHead_eq_withResult slot s ▸ slotByte_takeHead hm (by omega)
  rw [takeHead_eq_withResult, fillTube_eq (accepted := accepted) (by rwa [withResult_tubes])
    (by rw [hadded, withResult_tubes, haccepted]), withResult_tubes, recomputeChange_putTube_withResult, putTubeFillResult_eq hm _ _ _ (by omega)]
  exact completeOk_applied hm (by simpa using hready) (by simp [tubeFillResult])

theorem channelOf_succ (c : Fin 6) : channelOf (c.val + 1) = some c := by
  simp [channelOf, c.isLt]

/-! ## SET_COIN on a channel (R97, R106, R107) -/

/-- The record that a SET_COIN leaves on a channel, if the route condition allows it (R106). -/
def Channel.combined (q : ChannelRequest) (old : Channel) : Channel :=
  ⟨q.value.getD old.value, q.route.getD old.route, q.enable.getD old.enable⟩

theorem exec_setCoin_channel {s : State} {slot : Nat} {c : Fin 6} (hhead : s.validHead .setCoin slot)
    (hkind : s.slotByte slot 8 = 0) (hnumber : s.slotByte slot 9 = c.val + 1) :
    exec .setCoin s = .next (setChannel slot c (takeHead slot s)) := by
  have hbyte := (slotByte_takeHead hhead.wf (slot := slot) (off := 8) (by omega)).trans hkind
  have hbyte' := (slotByte_takeHead hhead.wf (slot := slot) (off := 9) (by omega)).trans hnumber
  have htake : applySetCoin slot (takeHead slot s) = setChannel slot c (takeHead slot s) := by
    rw [applySetCoin, if_pos hbyte, hbyte', channelOf_succ]
  exact congrArg Host.Outcome.next ((dispatch_valid hhead applySetCoin).trans htake)

theorem routeConsistent_iff {r : Channel} {tubes : Vector Tube 4} :
    routeConsistent r tubes = true ↔ ∀ k : Fin 4, r.route = some k → r.value = 0 ∨ tubes[k].value = r.value := by
  unfold routeConsistent
  split
  · next hroute => simp [hroute]
  · next t hroute => simp [hroute]

theorem setChannel_accepted {slot : Nat} {c : Fin 6} {s : State} {r : Channel}
    (hr : r = Channel.combined (s.channelRequest slot) s.channels[c]) (hok : routeConsistent r s.tubes = true) :
    setChannel slot c s = completeOk slot (({ s with channels := s.channels.set c r }).putSlot slot 40
      (recordBytes (channelFields 0 c { s with channels := s.channels.set c r }) 16)) := by
  subst hr
  rw [Channel.combined] at *
  simp only [setChannel, hok, if_true]

theorem setChannel_refused {slot : Nat} {c : Fin 6} {s : State}
    (hbad : routeConsistent (Channel.combined (s.channelRequest slot) s.channels[c]) s.tubes = false) :
    setChannel slot c s = complete slot .outOfRange (s.putSlot slot 40 (recordBytes (channelFields 0 c s) 16)) := by
  rw [Channel.combined] at hbad
  simp only [setChannel, hbad, Bool.false_eq_true, if_false]

theorem withResult_requests {s : State} (hm : Memory.wf s.mem = true) (slot : Nat) :
    (withResult s slot [] s).channelRequest slot = s.channelRequest slot ∧
      (withResult s slot [] s).tubeRequest slot = s.tubeRequest slot := by
  obtain ⟨-, hchannel, htube, -⟩ := request_congr (sameRequest_takeHead hm slot)
  rw [← takeHead_eq_withResult]
  exact ⟨hchannel, htube⟩

theorem withResult_channels (s : State) (slot : Nat) (bytes : List Byte) (u : State) :
    (withResult s slot bytes u).channels = u.channels := rfl

theorem putChannel_withResult (s : State) (slot : Nat) (channels : Vector Channel 6) :
    { withResult s slot [] s with channels := channels } = withResult s slot [] { s with channels := channels } := by
  simp only [withResult]

/-- The record goes into the table, and its 16 bytes into the result (R106). -/
theorem setChannel_applied {s : State} {slot : Nat} {c : Fin 6} {r : Channel} (hm : Memory.wf s.mem = true)
    (hready : s.ready = true) (hr : r = Channel.combined (s.channelRequest slot) s.channels[c])
    (hok : routeConsistent r s.tubes = true) :
    ∃ shown, applied s (setChannel slot c (takeHead slot s)) slot shown { s with channels := s.channels.set c r } ∧
      shown = (List.range 16).map fun k => (setChannel slot c (takeHead slot s)).readByte (0x2E00 + 16 * c.val + k) := by
  obtain ⟨hrequest, -⟩ := withResult_requests hm slot
  have hset := setChannel_accepted (slot := slot) (c := c) (s := withResult s slot [] s) (r := r)
    (by rw [hrequest, withResult_channels, hr]) (by rwa [withResult_tubes])
  rw [withResult_channels, putChannel_withResult, putSlot_withResult,
    channelFields_congr (sameCoins_withResult s slot [] _)] at hset
  rw [takeHead_eq_withResult, hset]
  refine ⟨_, completeOk_applied hm (by exact hready) (recordBytes_length _), ?_⟩
  exact (shownChannel_eq (completedOkShows s slot _ _) (by exact hready) c).symm

theorem setChannel_answered {s : State} {slot : Nat} {c : Fin 6} (hm : Memory.wf s.mem = true) (hready : s.ready = true)
    (hbad : routeConsistent (Channel.combined (s.channelRequest slot) s.channels[c]) s.tubes = false) :
    ∃ shown, answered s (setChannel slot c (takeHead slot s)) slot .outOfRange shown s ∧
      shown = (List.range 16).map fun k => (setChannel slot c (takeHead slot s)).readByte (0x2E00 + 16 * c.val + k) := by
  obtain ⟨hrequest, -⟩ := withResult_requests hm slot
  have hset := setChannel_refused (slot := slot) (c := c) (s := withResult s slot [] s)
    (by rwa [hrequest, withResult_channels, withResult_tubes])
  rw [putSlot_withResult, channelFields_congr (sameCoins_withResult s slot [] s)] at hset
  rw [takeHead_eq_withResult, hset]
  refine ⟨_, complete_answered hm hready (recordBytes_length _) .outOfRange, ?_⟩
  exact (shownChannel_eq (completedShows s slot _ s .outOfRange) hready c).symm

/-! ## SET_COIN on a tube (R98, R106, R108) -/

theorem exec_setCoin_tube {s : State} {slot : Nat} {k : Fin 4} (hhead : s.validHead .setCoin slot)
    (hkind : s.slotByte slot 8 = 1) (hnumber : s.slotByte slot 9 = k.val + 1) :
    exec .setCoin s = .next (setTube slot k (takeHead slot s)) := by
  have hbyte := (slotByte_takeHead hhead.wf (slot := slot) (off := 8) (by omega)).trans hkind
  have hbyte' := (slotByte_takeHead hhead.wf (slot := slot) (off := 9) (by omega)).trans hnumber
  have htake : applySetCoin slot (takeHead slot s) = setTube slot k (takeHead slot s) := by
    rw [applySetCoin, if_neg (by omega), hbyte', tubeOf_succ]
  exact congrArg Host.Outcome.next ((dispatch_valid hhead applySetCoin).trans htake)

theorem getD_zero_le {o : Option Nat} {m : Nat} : o.getD 0 ≤ m ↔ ∀ n, o = some n → n ≤ m := by
  cases o <;> simp

theorem forall_mem_channels {channels : Vector Channel 6} {p : Channel → Prop} :
    (∀ r ∈ channels.toList, p r) ↔ ∀ c : Fin 6, p channels[c] := by
  simp only [Vector.mem_toList_iff, Vector.mem_iff_getElem, Fin.getElem_fin]
  constructor
  · exact fun h c => h _ ⟨c, c.isLt, rfl⟩
  · rintro h _ ⟨c, hc, rfl⟩
    exact h ⟨c, hc⟩

theorem tubeRelations_iff {q : TubeRequest} {k : Fin 4} {s : State} :
    tubeRelations q k s = true ↔
      (∀ n, q.count = some n → n ≤ q.capacity.getD s.tubes[k].capacity) ∧
      (∀ n, q.reserve = some n → n ≤ q.capacity.getD s.tubes[k].capacity) ∧
      (q.value.getD s.tubes[k].value = s.tubes[k].value ∨ ∀ c : Fin 6, s.channels[c].route = some k →
        s.channels[c].value = 0 ∨ s.channels[c].value = q.value.getD s.tubes[k].value) := by
  rw [← getD_zero_le, ← getD_zero_le, ← and_assoc]
  simp only [tubeRelations, Bool.and_eq_true, decide_eq_true_eq, Bool.or_eq_true, beq_iff_eq, List.all_eq_true,
    forall_mem_channels, bne_iff_ne, ne_eq]
  refine and_congr_right fun _ => or_congr_right (forall_congr' fun c => ?_)
  rw [or_assoc, imp_iff_not_or]

theorem setTube_accepted {slot : Nat} {k : Fin 4} {s : State} (hbusy : s.tubes[k].busy = false)
    (hq : tubeRelations (s.tubeRequest slot) k s = true) :
    setTube slot k s = completeOk slot ((recomputeChange (putTube k (s.tubes[k].apply (s.tubeRequest slot)) s)).putSlot slot 40
      (recordBytes (tubeFields 0 k (recomputeChange (putTube k (s.tubes[k].apply (s.tubeRequest slot)) s))) 16)) := by
  simp only [setTube, hbusy, hq, Bool.false_eq_true, if_true, if_false, Option.isNone_none]

/-- A tube that is busy is refused before the relations are looked at (R108). -/
theorem setTube_refused {slot : Nat} {k : Fin 4} {s : State}
    (hbad : s.tubes[k].busy = true ∨ ¬ tubeRelations (s.tubeRequest slot) k s = true) :
    setTube slot k s = complete slot (if s.tubes[k].busy then .tubeBusy else .outOfRange)
      (s.putSlot slot 40 (recordBytes (tubeFields 0 k s) 16)) := by
  cases hbusy : s.tubes[k].busy with
  | true => simp only [setTube, hbusy, if_true, Option.isNone_some, Bool.false_eq_true, if_false]
  | false =>
    have hq : tubeRelations (s.tubeRequest slot) k s = false :=
      Bool.eq_false_iff.mpr (hbad.resolve_left (by rw [hbusy]; decide))
    simp only [setTube, hbusy, hq, Bool.false_eq_true, if_false, Option.isNone_some]

theorem tubeRelations_withResult (q : TubeRequest) (k : Fin 4) (s : State) (slot : Nat) :
    tubeRelations q k (withResult s slot [] s) = tubeRelations q k s := by
  unfold tubeRelations
  rw [withResult_tubes, withResult_channels]

theorem setTube_applied {s : State} {slot : Nat} {k : Fin 4} {r : Tube} (hm : Memory.wf s.mem = true)
    (hready : s.ready = true) (hbusy : s.tubes[k].busy = false) (hq : tubeRelations (s.tubeRequest slot) k s = true)
    (hr : r = s.tubes[k].apply (s.tubeRequest slot)) :
    ∃ shown, applied s (setTube slot k (takeHead slot s)) slot shown
        (recomputeChange { s with tubes := s.tubes.set k r }) ∧
      shown = (List.range 16).map fun i => (setTube slot k (takeHead slot s)).readByte (0x2E60 + 16 * k.val + i) := by
  obtain ⟨-, hrequest⟩ := withResult_requests hm slot
  have hset := setTube_accepted (slot := slot) (k := k) (s := withResult s slot [] s) (by rwa [withResult_tubes])
    (by rwa [hrequest, tubeRelations_withResult])
  have hready' : (recomputeChange { s with tubes := s.tubes.set k r }).ready = true := by simpa using hready
  rw [hrequest, withResult_tubes, ← hr, recomputeChange_putTube_withResult, putSlot_withResult,
    tubeFields_congr (sameCoins_withResult s slot [] _)] at hset
  rw [takeHead_eq_withResult, hset]
  refine ⟨_, completeOk_applied hm hready' (recordBytes_length _), ?_⟩
  exact (shownTube_eq (completedOkShows s slot _ _) hready' k).symm

theorem setTube_answered {s : State} {slot : Nat} {k : Fin 4} (hm : Memory.wf s.mem = true) (hready : s.ready = true)
    (hbad : s.tubes[k].busy = true ∨ ¬ tubeRelations (s.tubeRequest slot) k s = true) :
    ∃ shown, answered s (setTube slot k (takeHead slot s)) slot (if s.tubes[k].busy then .tubeBusy else .outOfRange) shown s ∧
      shown = (List.range 16).map fun i => (setTube slot k (takeHead slot s)).readByte (0x2E60 + 16 * k.val + i) := by
  obtain ⟨-, hrequest⟩ := withResult_requests hm slot
  have hset := setTube_refused (slot := slot) (k := k) (s := withResult s slot [] s)
    (by rwa [hrequest, tubeRelations_withResult, withResult_tubes])
  rw [putSlot_withResult, withResult_tubes, tubeFields_congr (sameCoins_withResult s slot [] s)] at hset
  rw [takeHead_eq_withResult, hset]
  refine ⟨_, complete_answered hm hready (recordBytes_length _) _, ?_⟩
  exact (shownTube_eq (completedShows s slot _ s _) hready k).symm

/-- Settles O20: the status by `recomputeChange_eq`, and each card from its take to the record and the result that it writes. -/
theorem tubeFillAndSetCoinWriteTheRecords : Obligations.TubeFillAndSetCoinWriteTheRecords := by
  refine ⟨fun s => ⟨recomputeChange_fresh s, ?_⟩, fun s slot k hhead hnumber => ?_,
    fun s slot c hhead hkind hnumber => ?_, fun s slot k hhead hkind hnumber => ?_⟩
  · rw [recomputeChange_exactOnly, recomputeChange_guaranteed, ← recomputeChange_eq]
  · refine ⟨_, exec_tubeFill hhead hnumber, ?_⟩
    dsimp only
    split
    · next hvalue => exact fillTube_refused hhead.wf hhead.ready hvalue
    · next hvalue => exact fillTube_applied hhead.wf hhead.ready hvalue rfl
  · refine ⟨_, exec_setCoin_channel hhead hkind hnumber, ?_⟩
    dsimp only
    split
    · next hok =>
      obtain ⟨_, happlied, rfl⟩ := setChannel_applied hhead.wf hhead.ready (c := c) rfl (routeConsistent_iff.mpr hok)
      exact happlied
    · next hbad =>
      obtain ⟨_, hanswered, rfl⟩ := setChannel_answered hhead.wf hhead.ready (c := c) (slot := slot)
        (Bool.eq_false_iff.mpr fun hok => hbad (routeConsistent_iff.mp hok))
      exact hanswered
  · refine ⟨_, exec_setCoin_tube hhead hkind hnumber, fun hbusy hfits => ?_, fun hbad => ?_⟩
    · obtain ⟨_, happlied, rfl⟩ := setTube_applied hhead.wf hhead.ready hbusy (tubeRelations_iff.mpr hfits) rfl
      exact happlied
    · obtain ⟨_, hanswered, rfl⟩ := setTube_answered hhead.wf hhead.ready (k := k) (slot := slot)
        (hbad.imp_right fun hfits hq => hfits (tubeRelations_iff.mp hq))
      exact hanswered

end Sys2Proof.Machine

/-! The change solver: the search of R117, the denominations and the two passes, plans, and the exact-change status (R115 to
R124). -/

namespace Sys2Proof.Machine

/-! ## The search of R117 and R119 -/

section
variable {β : Type} {f : Nat → Option β}

theorem firstDown_eq_some {x : β} : ∀ {n : Nat}, firstDown f n = some x →
    ∃ k ≤ n, f k = some x ∧ ∀ j, k < j → j ≤ n → f j = none
  | 0, h => ⟨0, Nat.le_refl 0, h, fun _ _ _ => by omega⟩
  | n + 1, h => by
    rw [firstDown] at h
    split at h
    · next hlast => exact ⟨n + 1, Nat.le_refl _, hlast.trans h, fun _ _ _ => by omega⟩
    · next hlast =>
      obtain ⟨k, hk, hfound, hbelow⟩ := firstDown_eq_some h
      refine ⟨k, by omega, hfound, fun j hkj hj => ?_⟩
      obtain rfl | hj : j = n + 1 ∨ j ≤ n := by omega
      · exact hlast
      · exact hbelow j hkj hj

theorem firstDown_eq_none : ∀ {n : Nat}, firstDown f n = none → ∀ k ≤ n, f k = none
  | 0, h, k, hk => by rwa [Nat.le_zero.mp hk]
  | n + 1, h, k, hk => by
    rw [firstDown] at h
    split at h
    · cases h
    · next hlast =>
      obtain rfl | hk : k = n + 1 ∨ k ≤ n := by omega
      · exact hlast
      · exact firstDown_eq_none h k hk

end

/-- A solution takes a number of the largest coin that the search of R117 tries, and solves the remainder. -/
theorem solves_cons {v a amount : Nat} {rest : List (Nat × Nat)} {ms : List Nat} (hv : 0 < v) :
    solves ((v, a) :: rest) amount ms ↔ ∃ k ks, ms = k :: ks ∧ k ≤ min a (amount / v) ∧ solves rest (amount - k * v) ks := by
  cases ms with
  | nil => simp [solves]
  | cons k ks => simp [solves, Nat.le_div_iff_mul_le hv, and_assoc]

theorem solves_nil {amount : Nat} {ms : List Nat} : solves [] amount ms ↔ amount = 0 ∧ ms = [] := by
  cases ms <;> simp [solves]

/-- R117: `ks` is the solution of an amount that is greatest in lexicographic order. -/
def greatestSolution (ds : List (Nat × Nat)) (amount : Nat) (ks : List Nat) : Prop :=
  solves ds amount ks ∧ ∀ ms, solves ds amount ms → lexLe ms ks

/-- An amount for which the search finds nothing has no solution. -/
theorem not_solves_of_exactSolution_none : ∀ {ds : List (Nat × Nat)} {amount : Nat}, (∀ d ∈ ds, 0 < d.1) →
    exactSolution ds amount = none → ∀ ms, ¬ solves ds amount ms
  | [], amount, _, h, ms => fun hms => by simp [exactSolution, (solves_nil.mp hms).1] at h
  | (v, a) :: rest, amount, hds, h, ms => fun hms => by
    obtain ⟨hv, hrest⟩ := List.forall_mem_cons.mp hds
    obtain ⟨k, ks, rfl, hk, hks⟩ := (solves_cons hv).mp hms
    have hnone := firstDown_eq_none h k hk
    exact not_solves_of_exactSolution_none hrest (Option.map_eq_none_iff.mp hnone) ks hks

/-- What the search finds is the greatest solution: it has tried every greater number of the largest coin before. -/
theorem greatestSolution_of_exactSolution : ∀ {ds : List (Nat × Nat)} {amount : Nat} {ks : List Nat}, (∀ d ∈ ds, 0 < d.1) →
    exactSolution ds amount = some ks → greatestSolution ds amount ks
  | [], amount, ks, _, h => by
    obtain ⟨hzero, rfl⟩ : amount = 0 ∧ [] = ks := by simpa [exactSolution] using h
    exact ⟨hzero, fun ms hms => by rw [(solves_nil.mp hms).2]; trivial⟩
  | (v, a) :: rest, amount, ks, hds, h => by
    obtain ⟨hv, hrest⟩ := List.forall_mem_cons.mp hds
    obtain ⟨k, hk, hfound, hgreater⟩ := firstDown_eq_some h
    obtain ⟨ks, hks, rfl⟩ := Option.map_eq_some_iff.mp hfound
    obtain ⟨hsolves, hgreatest⟩ := greatestSolution_of_exactSolution hrest hks
    refine ⟨(solves_cons hv).mpr ⟨k, ks, rfl, hk, hsolves⟩, fun ms hms => ?_⟩
    obtain ⟨m, ms, rfl, hm, hms⟩ := (solves_cons hv).mp hms
    obtain hlt | rfl | hgt := lt_trichotomy m k
    · exact .inl hlt
    · exact .inr ⟨rfl, hgreatest ms hms⟩
    · have hnone := Option.map_eq_none_iff.mp (hgreater m hgt hm)
      exact absurd hms (not_solves_of_exactSolution_none hrest hnone ms)

theorem exactSolution_isSome {ds : List (Nat × Nat)} {amount : Nat} (hds : ∀ d ∈ ds, 0 < d.1) :
    (exactSolution ds amount).isSome = true ↔ ∃ ks, solves ds amount ks := by
  cases h : exactSolution ds amount with
  | none => simpa using not_solves_of_exactSolution_none hds h
  | some ks => simpa using ⟨ks, (greatestSolution_of_exactSolution hds h).1⟩

theorem exactSolution_zero (ds : List (Nat × Nat)) : exactSolution ds 0 = some (ds.map fun _ => 0) := by
  induction ds with
  | nil => rfl
  | cons d rest ih => simp [exactSolution, firstDown, ih]

/-- Settles O52: by recursion on the denominations, as the search goes. -/
theorem theExactSolutionIsTheGreatest : Obligations.TheExactSolutionIsTheGreatest := by
  intro ds amount hds
  refine ⟨?_, exactSolution_zero ds, ?_⟩
  · split
    · next ks h => exact greatestSolution_of_exactSolution hds h
    · next h => exact not_solves_of_exactSolution_none hds h
  · by_cases hzero : amount = 0 <;> simp [exactSolution, hzero]

/-! ## Denominations and availabilities (R115, R116) -/

theorem mem_insertValue {v w : Nat} : ∀ {l : List Nat}, w ∈ insertValue v l ↔ w = v ∨ w ∈ l
  | [] => by simp [insertValue]
  | u :: rest => by
    rw [insertValue]
    split
    · simp
    · split
      · next hsame => simp [hsame]
      · simp [mem_insertValue (l := rest), or_left_comm]

theorem pairwise_insertValue {v : Nat} : ∀ {l : List Nat}, l.Pairwise (· > ·) → (insertValue v l).Pairwise (· > ·)
  | [], _ => List.pairwise_singleton _ _
  | u :: rest, h => by
    obtain ⟨hu, hrest⟩ := List.pairwise_cons.mp h
    rw [insertValue]
    split
    · next hlt => exact List.pairwise_cons.mpr ⟨List.forall_mem_cons.mpr ⟨hlt, fun w hw => (hu w hw).trans hlt⟩, h⟩
    · split
      · exact h
      · refine List.pairwise_cons.mpr ⟨fun w hw => ?_, pairwise_insertValue hrest⟩
        obtain rfl | hw := mem_insertValue.mp hw
        · omega
        · exact hu w hw

theorem toList_eq_finRange {α : Type} {n : Nat} (v : Vector α n) : v.toList = (List.finRange n).map fun k => v[k] :=
  List.ext_getElem (by simp) fun i _ _ => by simp

/-- What one tube adds to the denomination list. -/
def insertTube (t : Tube) (ds : List Nat) : List Nat := if t.value = 0 then ds else insertValue t.value ds

theorem mem_insertTube {t : Tube} {v : Nat} {ds : List Nat} : v ∈ insertTube t ds ↔ (v ≠ 0 ∧ t.value = v) ∨ v ∈ ds := by
  unfold insertTube
  split
  · next hzero => exact ⟨.inr, fun h => h.resolve_left fun ⟨hv, ht⟩ => hv (ht ▸ hzero)⟩
  · next hvalue => rw [mem_insertValue, eq_comm, and_iff_right_of_imp fun ht => ht ▸ hvalue]

theorem mem_foldr_insertTube {v : Nat} (l : List Tube) : v ∈ l.foldr insertTube [] ↔ v ≠ 0 ∧ ∃ t ∈ l, t.value = v := by
  induction l with
  | nil => simp
  | cons t rest ih => simp [mem_insertTube, ih, and_or_left]

theorem pairwise_foldr_insertTube (l : List Tube) : (l.foldr insertTube []).Pairwise (· > ·) := by
  induction l with
  | nil => exact .nil
  | cons t rest ih =>
    rw [List.foldr_cons, insertTube]
    split
    · exact ih
    · exact pairwise_insertValue ih

/-- The list that the solver builds is the denomination list of R115. -/
theorem denominations_isDenominations (tubes : Vector Tube 4) : isDenominations tubes (denominations tubes) :=
  ⟨pairwise_foldr_insertTube tubes.toList, fun _ =>
    (mem_foldr_insertTube tubes.toList).trans (by simp [toList_eq_finRange])⟩

theorem denominations_eq {tubes : Vector Tube 4} {ds : List Nat} (h : isDenominations tubes ds) : denominations tubes = ds := by
  obtain ⟨hsorted, hmem⟩ := denominations_isDenominations tubes
  exact hsorted.eq_of_mem_iff h.1 fun v => (hmem v).trans (h.2 v).symm

theorem availability_keptShare (tubes : Vector Tube 4) : availability keptShare tubes = kept tubes := by
  funext v
  simp [availability, kept, toList_eq_finRange, keptShare, Function.comp_def]

theorem availability_count (tubes : Vector Tube 4) : availability Tube.count tubes = full tubes := by
  funext v
  simp [availability, full, toList_eq_finRange, Function.comp_def]

theorem kept_le_full (tubes : Vector Tube 4) (v : Nat) : kept tubes v ≤ full tubes v :=
  List.sum_le_sum fun k _ => by split <;> omega

/-- The denominations with the number of coins that a pass may use of each. -/
def offered (avail : Nat → Nat) (ds : List Nat) : List (Nat × Nat) := ds.map fun v => (v, avail v)

theorem offered_cons (avail : Nat → Nat) (v : Nat) (ds : List Nat) :
    offered avail (v :: ds) = (v, avail v) :: offered avail ds := rfl

section
variable {tubes : Vector Tube 4} {ds : List Nat} (h : isDenominations tubes ds)
include h

theorem pass1_eq : pass1 tubes = offered (kept tubes) ds := by
  rw [pass1, denominations_eq h, availability_keptShare, offered]

theorem pass2_eq : pass2 tubes = offered (full tubes) ds := by
  rw [pass2, denominations_eq h, availability_count, offered]

theorem offered_pos (avail : Nat → Nat) : ∀ d ∈ offered avail ds, 0 < d.1 := by
  rintro d hd
  obtain ⟨v, hv, rfl⟩ := List.mem_map.mp hd
  exact Nat.pos_of_ne_zero ((h.2 v).mp hv).1

/-- R118: pass 1 finds a solution of exactly the amounts that have one. -/
theorem pass1_isSome (amount : Nat) : (exactSolution (pass1 tubes) amount).isSome = true ↔ solvedKept tubes ds amount := by
  rw [pass1_eq h]
  exact exactSolution_isSome (offered_pos h _)

/-- R119, R121: so does pass 2. -/
theorem pass2_isSome (amount : Nat) : (exactSolution (pass2 tubes) amount).isSome = true ↔ solvedFull tubes ds amount := by
  rw [pass2_eq h]
  exact exactSolution_isSome (offered_pos h _)

end

/-! ## The coins of a solution -/

section
variable {avail other : Nat → Nat}

theorem length_of_solves : ∀ {ds : List Nat} {amount : Nat} {ks : List Nat}, solves (offered avail ds) amount ks →
    ks.length = ds.length
  | [], _, [], _ => rfl
  | _ :: _, _, _ :: _, ⟨_, _, hrest⟩ => congrArg (· + 1) (length_of_solves hrest)

theorem coins_le_of_solves : ∀ {ds : List Nat} {amount : Nat} {ks : List Nat}, solves (offered avail ds) amount ks →
    ∀ c ∈ ds.zip ks, c.2 ≤ avail c.1
  | [], _, _, _ => by simp
  | _ :: _, _, _ :: _, ⟨hk, _, hrest⟩ => List.forall_mem_cons.mpr ⟨hk, coins_le_of_solves hrest⟩

/-- A solution stays one under any availabilities that its coins keep to. -/
theorem solves_of_coins_le : ∀ {ds : List Nat} {amount : Nat} {ks : List Nat}, solves (offered avail ds) amount ks →
    (∀ c ∈ ds.zip ks, c.2 ≤ other c.1) → solves (offered other ds) amount ks
  | [], _, [], hsolves, _ => hsolves
  | _ :: _, _, _ :: _, ⟨_, hfits, hrest⟩, hle => by
    obtain ⟨hk, hle⟩ := List.forall_mem_cons.mp hle
    exact ⟨hk, hfits, solves_of_coins_le hrest hle⟩

theorem usesReserve_iff : ∀ {ds ks : List Nat}, usesReserve (offered avail ds) ks = true ↔ ∃ c ∈ ds.zip ks, avail c.1 < c.2
  | [], ks => by simp [offered, usesReserve]
  | _ :: _, [] => by simp [offered, usesReserve]
  | v :: rest, k :: ks => by simp [offered_cons, usesReserve, usesReserve_iff (ds := rest)]

end

/-- A solution gives one coin number to each denomination. -/
theorem zip_of_solves {avail : Nat → Nat} {ds : List Nat} {amount : Nat} {ks : List Nat}
    (h : solves (offered avail ds) amount ks) : (ds.zip ks).map Prod.fst = ds ∧ (ds.zip ks).map Prod.snd = ks :=
  ⟨List.map_fst_zip (length_of_solves h).ge, List.map_snd_zip (length_of_solves h).le⟩

theorem solvedFull_of_solvedKept {tubes : Vector Tube 4} {ds : List Nat} {amount : Nat} :
    solvedKept tubes ds amount → solvedFull tubes ds amount := fun ⟨ks, hks⟩ =>
  ⟨ks, solves_of_coins_le hks fun c hc => (coins_le_of_solves hks c hc).trans (kept_le_full tubes c.1)⟩

/-- A solution in pass 2 of an amount that pass 1 does not solve takes a coin of the reserve. -/
theorem usesReserve_of_not_solvedKept {tubes : Vector Tube 4} {ds : List Nat} {amount : Nat} {ks : List Nat}
    (hkept : ¬ solvedKept tubes ds amount) (hks : solves (offered (full tubes) ds) amount ks) :
    usesReserve (offered (kept tubes) ds) ks = true := by
  by_contra hreserve
  rw [usesReserve_iff] at hreserve
  push Not at hreserve
  exact hkept ⟨ks, solves_of_coins_le hks hreserve⟩

/-! ## Plans (R118, R119, R121, R122) -/

/-- R119: the best-under always exists, since pass 2 solves the amount 0. -/
theorem bestUnder_eq (tubes : Vector Tube 4) (amount : Nat) : ∃ b ks, bestUnder tubes amount = some (b, ks) ∧ b ≤ amount ∧
    exactSolution (pass2 tubes) b = some ks ∧ ∀ c, b < c → c ≤ amount → exactSolution (pass2 tubes) c = none := by
  cases hbest : bestUnder tubes amount with
  | none =>
    have hzero := firstDown_eq_none hbest 0 (Nat.zero_le _)
    simp [exactSolution_zero] at hzero
  | some found =>
    obtain ⟨b, hb, hfound, habove⟩ := firstDown_eq_some hbest
    obtain ⟨ks, hks, rfl⟩ := Option.map_eq_some_iff.mp hfound
    exact ⟨b, ks, rfl, hb, hks, fun c hbc hc => Option.map_eq_none_iff.mp (habove c hbc hc)⟩

section
variable {tubes : Vector Tube 4} {ds : List Nat} {amount : Nat} (h : isDenominations tubes ds)
include h

theorem payable_iff : payable tubes amount = true ↔ solvedFull tubes ds amount := by
  rw [payable, Bool.or_eq_true, pass1_isSome h, pass2_isSome h, or_iff_right_of_imp solvedFull_of_solvedKept]

/-- R122: the plan of an amount that pass 1 solves. -/
theorem planFor_of_solvedKept (hkept : solvedKept tubes ds amount) :
    ∃ ks, greatestSolution (offered (kept tubes) ds) amount ks ∧ planFor tubes amount = ⟨ds.zip ks, amount, false⟩ := by
  obtain ⟨ks, hks⟩ := Option.isSome_iff_exists.mp ((pass1_isSome h amount).mpr hkept)
  refine ⟨ks, greatestSolution_of_exactSolution (offered_pos h _) (pass1_eq h ▸ hks), ?_⟩
  simp only [planFor, hks, denominations_eq h]

/-- R119, R122: the plan of an amount that pass 1 does not solve pays the largest amount that pass 2 solves. -/
theorem planFor_of_not_solvedKept (hkept : ¬ solvedKept tubes ds amount) :
    ∃ b ks, greatestSolution (offered (full tubes) ds) b ks ∧ b ≤ amount ∧ (∀ c ≤ amount, solvedFull tubes ds c → c ≤ b) ∧
      planFor tubes amount = ⟨ds.zip ks, b, usesReserve (offered (kept tubes) ds) ks⟩ := by
  have hgreatest {b : Nat} {ks : List Nat} (hks : exactSolution (pass2 tubes) b = some ks) :
      greatestSolution (offered (full tubes) ds) b ks :=
    greatestSolution_of_exactSolution (offered_pos h _) (pass2_eq h ▸ hks)
  have hpass1 : exactSolution (pass1 tubes) amount = none := by
    rwa [← pass1_isSome h, Option.not_isSome_iff_eq_none] at hkept
  cases hpass2 : exactSolution (pass2 tubes) amount with
  | some ks =>
    refine ⟨amount, ks, hgreatest hpass2, Nat.le_refl _, fun _ hc _ => hc, ?_⟩
    simp only [planFor, hpass1, hpass2, denominations_eq h,
      usesReserve_of_not_solvedKept hkept (hgreatest hpass2).1]
  | none =>
    obtain ⟨b, ks, hbest, hb, hks, habove⟩ := bestUnder_eq tubes amount
    refine ⟨b, ks, hgreatest hks, hb, fun c hc hsolved => ?_, ?_⟩
    · by_contra hbc
      rw [← pass2_isSome h, habove c (Nat.lt_of_not_le hbc) hc] at hsolved
      cases hsolved
    · simp only [← pass1_eq h, planFor, hpass1, hpass2, hbest, denominations_eq h]

end

/-- Settles O53: by whether pass 1 solves the amount. -/
theorem aPlanPaysTheMostThatTheTubesAllow : Obligations.APlanPaysTheMostThatTheTubesAllow := by
  intro tubes amount ds h
  dsimp only
  rw [payable_iff h]
  by_cases hkept : solvedKept tubes ds amount
  · obtain ⟨ks, ⟨hsolves, hgreatest⟩, hplan⟩ := planFor_of_solvedKept h hkept
    obtain ⟨hvalues, hnumbers⟩ := zip_of_solves hsolves
    rw [hplan, hvalues, hnumbers]
    refine ⟨rfl, Nat.le_refl _, fun _ hb _ => hb, fun _ => ⟨hsolves, hgreatest⟩, fun hnot => absurd hkept hnot, .rfl,
      fun _ => rfl, nofun, fun ⟨c, hc, hover⟩ => ?_⟩
    exact absurd (coins_le_of_solves hsolves c hc) (Nat.not_le_of_lt hover)
  · obtain ⟨b, ks, ⟨hsolves, hgreatest⟩, hb, hbest, hplan⟩ := planFor_of_not_solvedKept h hkept
    obtain ⟨hvalues, hnumbers⟩ := zip_of_solves hsolves
    rw [hplan, hvalues, hnumbers]
    exact ⟨rfl, hb, hbest, fun hyes => absurd hyes hkept, fun _ => ⟨hsolves, hgreatest⟩, .rfl,
      fun hfull => Nat.le_antisymm hb (hbest amount (Nat.le_refl _) hfull), usesReserve_iff⟩

/-! ## The exact-change status (R123, R124) -/

theorem unbrokenRun_spec {ok : Nat → Bool} : ∀ {fuel n : Nat}, let r := unbrokenRun ok fuel n
    n ≤ r ∧ r ≤ n + fuel ∧ (∀ i, n < i → i ≤ r → ok i = true) ∧ (r < n + fuel → ok (r + 1) = false)
  | 0, n => ⟨Nat.le_refl n, Nat.le_refl n, fun _ hni hi => absurd hni (Nat.not_lt_of_le hi),
    fun h => absurd h (Nat.lt_irrefl n)⟩
  | fuel + 1, n => by
    dsimp only
    rw [unbrokenRun]
    split
    · next hok =>
      obtain ⟨hlow, hhigh, hrun, hstop⟩ := unbrokenRun_spec (ok := ok) (fuel := fuel) (n := n + 1)
      refine ⟨by omega, by omega, fun i hni hi => ?_, fun hr => hstop (by omega)⟩
      obtain rfl | hni : i = n + 1 ∨ n + 1 < i := by omega
      · exact hok
      · exact hrun i hni hi
    · next hfails => exact ⟨Nat.le_refl _, by omega, fun _ _ _ => by omega, fun _ => Bool.eq_false_iff.mpr hfails⟩

section
variable {tubes : Vector Tube 4} {ds : List Nat} {g : Nat} (h : isDenominations tubes ds)
include h

theorem guaranteedAmountOk_iff {amount : Nat} : guaranteedAmountOk tubes amount = true ↔ solvedKept tubes ds amount :=
  pass1_isSome h amount

theorem smallest_pos (hg : ds.getLast? = some g) : 0 < g :=
  Nat.pos_of_ne_zero ((h.2 g).mp (List.mem_of_getLast? hg)).1

/-- R123: the examined amounts are the multiples of the smallest denomination up to the limit. -/
theorem exactChangeFlag_iff (hg : ds.getLast? = some g) (limit : Nat) : exactChangeFlag tubes limit = true ↔
    ∃ n, 1 ≤ n ∧ n * g ≤ limit ∧ ¬ solvedKept tubes ds (n * g) := by
  simp only [exactChangeFlag, denominations_eq h, hg, List.any_eq_true, List.mem_range, Bool.not_eq_true',
    ← Bool.not_eq_true, guaranteedAmountOk_iff h, ← Nat.le_div_iff_mul_le (smallest_pos h hg)]
  constructor
  · rintro ⟨i, hi, hfails⟩
    exact ⟨i + 1, by omega, hi, hfails⟩
  · rintro ⟨n, hpos, hn, hfails⟩
    obtain ⟨i, rfl⟩ := Nat.exists_eq_add_of_le' hpos
    exact ⟨i, hn, hfails⟩

/-- R124: the guaranteed amount is the unbroken run of the examined amounts that pass 1 solves. -/
theorem guaranteedAmount_eq (hg : ds.getLast? = some g) (limit : Nat) : ∃ n, guaranteedAmount tubes limit = n * g ∧
    n * g ≤ limit ∧ (∀ i, 1 ≤ i → i ≤ n → solvedKept tubes ds (i * g)) ∧
    ((n + 1) * g ≤ limit → ¬ solvedKept tubes ds ((n + 1) * g)) := by
  obtain ⟨-, hhigh, hrun, hstop⟩ :=
    unbrokenRun_spec (ok := fun n => guaranteedAmountOk tubes (n * g)) (fuel := limit / g) (n := 0)
  simp only [Nat.zero_add, ← Bool.not_eq_true, guaranteedAmountOk_iff h] at hhigh hrun hstop
  simp only [← Nat.le_div_iff_mul_le (smallest_pos h hg)]
  refine ⟨_, ?_, hhigh, hrun, hstop⟩
  simp only [guaranteedAmount, denominations_eq h, hg, Nat.mul_comm g]

/-- R124: when every examined amount has a solution, the run reaches the limit. -/
theorem guaranteedAmount_of_clear (hg : ds.getLast? = some g) {limit : Nat} (hclear : exactChangeFlag tubes limit = false) :
    guaranteedAmount tubes limit = g * (limit / g) := by
  obtain ⟨n, hamount, hfits, -, hstop⟩ := guaranteedAmount_eq h hg limit
  have hover : ¬ (n + 1) * g ≤ limit := fun hnext =>
    Bool.eq_false_iff.mp hclear ((exactChangeFlag_iff h hg limit).mpr ⟨n + 1, by omega, hnext, hstop hnext⟩)
  rw [hamount, Nat.mul_comm, Nat.div_eq_of_lt_le hfits (Nat.lt_of_not_le hover)]

end

/-- R123, R124: the status page shows the flag at 0x005C and the guaranteed amount at 0x005E. -/
theorem readByte_changeStatus {s : State} (hready : s.ready = true) :
    s.readByte 0x005C = (if s.exactOnly then 1 else 0) ∧ s.readByte 0x005E = BitVec.ofNat 8 s.guaranteed ∧
    s.readByte 0x005F = BitVec.ofNat 8 (s.guaranteed / 256) := by
  have hflag := (reads_status hready).byte (f := ⟨0x005C, 1, flag s.exactOnly⟩) (k := 0)
    (mem_statusFields.mpr (.inl (by simp [statusPlain, statusHead, layOut]))) Nat.one_pos
  have hamount {k : Nat} (hk : k < 2) := (reads_status hready).byte (f := ⟨0x005E, 2, s.guaranteed⟩)
    (mem_statusFields.mpr (.inl (by simp [statusPlain, statusHead]))) hk
  refine ⟨hflag.trans ?_, ?_, hamount Nat.one_lt_two⟩
  · cases s.exactOnly <;> rfl
  · simpa using hamount Nat.two_pos

/-- Settles O54: the flag and the run over the multiples of the smallest denomination, and the fields that show them. -/
theorem theExactChangeStatusFollowsItsRules : Obligations.TheExactChangeStatusFollowsItsRules := by
  intro s ds h
  dsimp only
  refine ⟨?_, fun g hg => ?_, fun hready => readByte_changeStatus (by simpa using hready)⟩
  · rintro rfl
    simp [exactChangeFlag, guaranteedAmount, denominations_eq h]
  · rw [recomputeChange_exactOnly, recomputeChange_guaranteed]
    exact ⟨exactChangeFlag_iff h hg _, guaranteedAmount_eq h hg _, guaranteedAmount_of_clear h hg⟩

end Sys2Proof.Machine

/-! The cards that ask for a payout (R34, R127 to R129, R136, R137). -/

namespace Sys2Proof.Machine

/-! ## A RETURN_CREDIT is judged (R129, R136) -/

/-- The first credit return that waits takes the card. -/
theorem requestReturn_joins {s : State} {e : PayEntry} (hfound : s.payQueue.find? (fun e => e.form == .creditReturn) = some e)
    (hcard : e.card = none) (origin : Origin) (card : AttachedCard) :
    requestReturn origin (some card) s = { s with payQueue := attachCard (some card) s.payQueue } := by
  simp only [requestReturn, hfound, hcard]

theorem requestReturn_alreadyQueued {s : State} {e : PayEntry}
    (hfound : s.payQueue.find? (fun e => e.form == .creditReturn) = some e) (hcard : e.card ≠ none) (origin : Origin)
    (slot : Nat) : requestReturn origin (some ⟨slot, none⟩) s = complete slot .alreadyQueued s := by
  obtain ⟨card, hcard⟩ := Option.ne_none_iff_exists'.mp hcard
  simp only [requestReturn, hfound, hcard]

theorem requestReturn_forms {s : State} (hnone : s.payQueue.find? (fun e => e.form == .creditReturn) = none)
    (hfree : s.payQueue.length < 4) (origin : Origin) (card : Option AttachedCard) :
    requestReturn origin card s = { s with payQueue := s.payQueue ++ [creditReturnEntry origin card] } := by
  simp only [requestReturn, hnone, if_pos hfree]

theorem requestReturn_queueFull {s : State} (hnone : s.payQueue.find? (fun e => e.form == .creditReturn) = none)
    (hfull : ¬ s.payQueue.length < 4) (origin : Origin) (slot : Nat) :
    requestReturn origin (some ⟨slot, none⟩) s = complete slot .queueFull s := by
  simp only [requestReturn, hnone, if_neg hfull]

/-! ## The two cards from their take -/

section
variable {s : State} {slot : Nat}

theorem takeHead_payQueue (slot : Nat) (s : State) : (takeHead slot s).payQueue = s.payQueue := by rw [takeHead_eq]

/-- A taken card that waits in the payout queue (R34). -/
theorem takeHead_queued (hm : Memory.wf s.mem = true) (slot : Nat) (queue : List PayEntry) :
    keptTaken s { takeHead slot s with payQueue := queue } slot { s with payQueue := queue } := by
  have htake : { takeHead slot s with payQueue := queue } =
      { s with payQueue := queue, intake := s.intake.tail, mem := (takeHead slot s).mem } := by
    rw [takeHead_eq, List.drop_one]
  rw [htake]
  exact takeHead_keptTaken hm slot { s with payQueue := queue }

/-- A taken card that completes at once, with a zero result (notes/assumptions/12.md). -/
theorem complete_takeHead_answered {k : CardKind} (hhead : s.validHead k slot) (o : CardOutcome) :
    answered s (complete slot o (takeHead slot s)) slot o [] s := by
  rw [takeHead_eq_withResult]
  exact complete_answered hhead.wf hhead.ready (by decide) o

theorem exec_returnCredit (hhead : s.validHead .returnCredit slot) :
    exec .returnCredit s = .next (requestReturn .card (some ⟨slot, none⟩) (takeHead slot s)) := by
  change execReturnCredit s = _
  rw [execReturnCredit, dispatch_valid hhead]

theorem exec_payout (hhead : s.validHead .payout slot) : exec .payout s = .next (takePayout slot (takeHead slot s)) := by
  change execPayout s = _
  rw [execPayout, dispatch_valid hhead]

/-- The entry of a PAYOUT is read from its request body, which its take leaves as it was (R137). -/
theorem payoutEntry_takeHead (hm : Memory.wf s.mem = true) (slot : Nat) :
    payoutEntry slot (takeHead slot s) = payoutEntry slot s := by
  have hbody : ∀ off, 8 ≤ off → off < 40 → (takeHead slot s).slotByte slot off = s.slotByte slot off :=
    sameRequest_takeHead hm slot
  simp (disch := omega) only [payoutEntry, State.slotHalf, State.payoutCoins, hbody]

end

/-- Settles O19: a RETURN_CREDIT by the credit return that waits, if one does, and a PAYOUT by the room in the queue. -/
theorem payoutCardsJoinThePayoutQueue : Obligations.PayoutCardsJoinThePayoutQueue := by
  refine ⟨fun s slot hhead => ⟨_, exec_returnCredit hhead, ?_⟩,
    fun s slot hhead => ⟨_, exec_payout hhead, fun hfree => ?_, fun hfull => ?_⟩⟩
  · have hqueue := takeHead_payQueue slot s
    cases hfound : s.payQueue.find? (fun e => e.form == .creditReturn) with
    | some e =>
      dsimp only
      split
      · next hcard =>
        rw [requestReturn_joins (by rw [hqueue, hfound]) hcard, hqueue]
        exact takeHead_queued hhead.wf slot _
      · next hcard =>
        rw [requestReturn_alreadyQueued (by rw [hqueue, hfound]) hcard]
        exact complete_takeHead_answered hhead .alreadyQueued
    | none =>
      dsimp only
      split
      · next hfree =>
        rw [requestReturn_forms (by rw [hqueue, hfound]) (by rwa [hqueue]), hqueue]
        exact takeHead_queued hhead.wf slot _
      · next hfull =>
        rw [requestReturn_queueFull (by rw [hqueue, hfound]) (by rwa [hqueue])]
        exact complete_takeHead_answered hhead .queueFull
  · rw [takePayout, takeHead_payQueue, if_pos hfree, payoutEntry_takeHead hhead.wf]
    exact takeHead_queued hhead.wf slot _
  · rw [takePayout, takeHead_payQueue, if_neg (Nat.not_lt.mpr hfull)]
    exact complete_takeHead_answered hhead .queueFull

end Sys2Proof.Machine

/-! The end of a payout (R69, R135 to R138, R147): the load is given up, the card that the payout carries completes with its
result, and no other claim is let in. -/

namespace Sys2Proof.Machine

/-! ## Fields of a result body -/

section
variable {s : State} {slot off : Nat}

/-- A write beside a byte of the slot leaves it. -/
theorem slotByte_putSlot_beside (hm : Memory.wf s.mem = true) {start : Nat} {bytes : List Byte}
    (h : off < start ∨ start + bytes.length ≤ off) :
    (s.putSlot slot start bytes).slotByte slot off = s.slotByte slot off := by
  have houtside : ¬ (slotAddr slot start ≤ slotAddr slot off ∧ slotAddr slot off < slotAddr slot start + bytes.length) := by
    simp only [slotAddr]
    omega
  rw [State.slotByte, readCell_putSlot hm, if_neg houtside]
  rfl

theorem slotHalf_putSlot_beside (hm : Memory.wf s.mem = true) {start : Nat} {bytes : List Byte}
    (h : off + 1 < start ∨ start + bytes.length ≤ off) :
    (s.putSlot slot start bytes).slotHalf slot off = s.slotHalf slot off := by
  rw [State.slotHalf, slotByte_putSlot_beside hm (by omega), slotByte_putSlot_beside hm (by omega)]
  rfl

/-- A byte that has been written reads back. -/
theorem slotByte_putSlot (hm : Memory.wf s.mem = true) {bytes : List Byte} {k : Nat} (hk : k < bytes.length) :
    (s.putSlot slot off bytes).slotByte slot (off + k) = (bytes.getD k 0).toNat := by
  have hplace : slotAddr slot (off + k) - slotAddr slot off = k := by
    simp only [slotAddr]
    omega
  rw [State.slotByte, readCell_putSlot hm, if_pos (by simp only [slotAddr]; omega), hplace]

theorem slotHalf_putHalf (hm : Memory.wf s.mem = true) (n : Nat) : (putHalf slot off n s).slotHalf slot off = field16 n := by
  have hlow := slotByte_putSlot (slot := slot) (off := off) (bytes := leBytes (field16 n) 2) (k := 0) hm Nat.two_pos
  have hhigh := slotByte_putSlot (slot := slot) (off := off) (bytes := leBytes (field16 n) 2) (k := 1) hm Nat.one_lt_two
  have hsmall := field16_lt n
  rw [Nat.add_zero] at hlow
  rw [State.slotHalf, putHalf, hhigh, hlow]
  simp only [leBytes, List.getD_cons_zero, List.getD_cons_succ, BitVec.toNat_ofNat]
  omega

theorem slotHalf_putHalf_beside (hm : Memory.wf s.mem = true) {start n : Nat} (h : off + 1 < start ∨ start + 2 ≤ off) :
    (putHalf slot start n s).slotHalf slot off = s.slotHalf slot off := slotHalf_putSlot_beside hm h

/-- A completion leaves the request and the result body of its card. -/
theorem slotByte_complete (hm : Memory.wf s.mem = true) (o : CardOutcome) (hoff : 8 ≤ off) :
    (complete slot o s).slotByte slot off = s.slotByte slot off := by
  rw [State.slotByte, readCell_complete_of_ne hm o (by simp only [slotAddr]; omega) (by simp only [slotAddr]; omega)
    (by simp only [slotAddr]; omega)]
  rfl

theorem slotHalf_complete (hm : Memory.wf s.mem = true) (o : CardOutcome) (hoff : 8 ≤ off) :
    (complete slot o s).slotHalf slot off = s.slotHalf slot off := by
  rw [State.slotHalf, slotByte_complete hm o hoff, slotByte_complete hm o (by omega)]
  rfl

end

/-! ## The result of a payout's card (R69, R135 to R138) -/

/-- The result fields of the card that a payout carries, as they read in `t`. -/
def payoutResultShown (t : State) (p : Payout) (retained : Nat) (card : AttachedCard) : Prop :=
  match card.vendOutcome, p.entry.form with
  | some _, _ => t.slotHalf card.slot 46 = field16 p.paid ∧ t.slotHalf card.slot 48 = field16 retained
  | none, .creditReturn =>
    t.slotHalf card.slot 40 = field16 p.paid ∧ t.slotHalf card.slot 42 = field16 retained ∧
      t.slotByte card.slot 44 = min 255 p.emptyEvents
  | none, .amount => t.slotHalf card.slot 40 = field16 p.paid ∧ t.slotHalf card.slot 42 = field16 (p.due - p.paid)
  | none, .tubeList =>
    t.slotHalf card.slot 40 = field16 p.paid ∧ ∀ k : Fin 4, t.slotByte card.slot (44 + k.val) = p.coinsPaid[k] % 256

section
variable {s : State} {p : Payout} {retained : Nat} {card : AttachedCard}

theorem putPayoutResult_slots (hm : Memory.wf s.mem = true) :
    SlotsWritten s (putPayoutResult p retained card s) [card.slot] 0 := by
  obtain ⟨hframe, hwf, hbytes⟩ := putPayoutResult_eq p retained card s
  refine ⟨?_, hwf hm, fun a ha => hbytes hm a fun hb => ha ⟨card.slot, List.mem_singleton_self _, hb⟩⟩
  rw [show s.noticePending ||| 0 = s.noticePending from BitVec.or_zero]
  exact hframe

/-- Two fields that are written one after the other both read back. -/
theorem slotHalf_putHalf_putHalf (hm : Memory.wf s.mem = true) (slot off n m : Nat) :
    (putHalf slot (off + 2) m (putHalf slot off n s)).slotHalf slot off = field16 n ∧
      (putHalf slot (off + 2) m (putHalf slot off n s)).slotHalf slot (off + 2) = field16 m := by
  have hm' := putHalf_wf hm slot off n
  exact ⟨(slotHalf_putHalf_beside hm' (by omega)).trans (slotHalf_putHalf hm n), slotHalf_putHalf hm' m⟩

theorem putPayoutResult_shown (hm : Memory.wf s.mem = true) :
    payoutResultShown (putPayoutResult p retained card s) p retained card := by
  unfold payoutResultShown putPayoutResult
  cases card.vendOutcome with
  | some o => exact slotHalf_putHalf_putHalf hm card.slot 46 p.paid retained
  | none =>
    cases p.entry.form with
    | creditReturn =>
      have hm' := putHalf_wf (putHalf_wf hm card.slot 40 p.paid) card.slot 42 retained
      obtain ⟨hpaid, hretained⟩ := slotHalf_putHalf_putHalf hm card.slot 40 p.paid retained
      have hbyte := slotByte_putSlot (slot := card.slot) (off := 44) (bytes := [BitVec.ofNat 8 (min 255 p.emptyEvents)])
        (k := 0) hm' Nat.one_pos
      refine ⟨(slotHalf_putSlot_beside hm' (by omega)).trans hpaid,
        (slotHalf_putSlot_beside hm' (by omega)).trans hretained, hbyte.trans ?_⟩
      simp only [List.getD_cons_zero, BitVec.toNat_ofNat]
      omega
    | amount => exact slotHalf_putHalf_putHalf hm card.slot 40 p.paid (p.due - p.paid)
    | tubeList =>
      have hm' := putHalf_wf hm card.slot 40 p.paid
      refine ⟨(slotHalf_putSlot_beside hm' (by omega)).trans (slotHalf_putHalf hm p.paid), fun k => ?_⟩
      rw [slotByte_putSlot hm' (by simp)]
      simp

theorem payoutResultShown_complete (hm : Memory.wf s.mem = true) (o : CardOutcome) (h : payoutResultShown s p retained card) :
    payoutResultShown (complete card.slot o s) p retained card := by
  simpa (disch := omega) only [payoutResultShown, slotHalf_complete hm, slotByte_complete hm] using h

end

/-! ## The end (R135, R147) -/

/-- The load of the payout `p` is given up, the busy markers are cleared, and its sum is in the audit block: what is retained of
a CREDIT_RETURN, what any other has paid. -/
def payoutCounted (s : State) (p : Payout) : State :=
  if p.entry.form = .creditReturn then count .retained (retainedOf s p) (setBusy false (s.without .payout))
  else count .manualPayout p.paid (setBusy false (s.without .payout))

/-- The payout `p` has ended, its card not yet answered. -/
def payoutReleased (s : State) (p : Payout) : State :=
  { s.without .payout with payout := none, tubes := s.tubes.map fun x => { x with busy := false },
                           live := (payoutCounted s p).live, noticePending := s.noticePending ||| NoticeClass.money.bit }

section
variable {s : State} {p : Payout}

theorem payoutCounted_eq (s : State) (p : Payout) : payoutCounted s p =
    { s.without .payout with tubes := s.tubes.map fun x => { x with busy := false }, live := (payoutCounted s p).live } := by
  unfold payoutCounted
  split <;> rfl

theorem payoutCounted_live (s : State) (p : Payout) (i : Fin 26) : (payoutCounted s p).live[i] = s.live[i] +
    if p.entry.form = .creditReturn then (if i = 19 then BitVec.ofNat 32 (retainedOf s p) else 0)
    else if i = 18 then BitVec.ofNat 32 p.paid else 0 := by
  have hindex (j : Fin 26) : i = j ↔ i.val = j.val := Fin.ext_iff
  unfold payoutCounted
  by_cases hform : p.entry.form = .creditReturn
  · simp only [if_pos hform, hindex]
    exact count_live_getElem .retained _ _ i
  · simp only [if_neg hform, hindex]
    exact count_live_getElem .manualPayout _ _ i

theorem raise_payoutCounted (hready : s.ready = true) (p : Payout) :
    raise .money { payoutCounted s p with payout := none } = payoutReleased s p := by
  have hcounted := payoutCounted_eq s p
  unfold payoutReleased
  generalize payoutCounted s p = u at hcounted ⊢
  rw [raise_ready .money (by rw [hcounted]; exact hready), hcounted]
  rfl

/-- The card of an ended payout is answered behind its result, a vend card with its vend outcome. -/
def payoutAnswered (s : State) (p : Payout) (o : CardOutcome) : Option AttachedCard → State
  | none => payoutReleased s p
  | some card =>
    complete card.slot (card.vendOutcome.getD o) (putPayoutResult p (retainedOf s p) card (payoutReleased s p))

/-- A payout whose load lets no other claim in ends with the answer of its card. -/
theorem endPayoutWith_alone (hready : s.ready = true) (hp : s.payout = some p) (hstays : (s.without .payout).headStays)
    (o : CardOutcome) :
    endPayoutWith judgeLoad o s = payoutAnswered s p o p.entry.card := by
  have hgiven : giveUp judgeLoad .payout s = s.without .payout := judgeLoad_of_full hstays
  have hretained : retainedAmount p (setBusy false (s.without .payout)) = retainedOf s p := rfl
  have hreleased := raise_payoutCounted hready p
  rw [payoutCounted] at hreleased
  simp only [endPayoutWith, hp, hgiven, hretained, hreleased]
  cases p.entry.card <;> rfl

theorem payoutEnded_of_noCard (hcard : p.entry.card = none) (o : CardOutcome) : payoutEnded s (payoutReleased s p) p o := by
  have hnone (n : BitVec 9) : n ||| 0 = n := BitVec.or_zero
  refine ⟨?_, payoutCounted_live s p, ?_⟩
  · rw [hcard, Option.map_none, Option.getD_none, hnone]
    rfl
  · unfold payoutCardEnded
    rw [hcard]
    rfl

/-- The card that the payout carries completes behind its result, a vend card with its vend outcome. -/
theorem payoutEnded_of_card (hm : Memory.wf s.mem = true) (hready : s.ready = true) {card : AttachedCard}
    (hcard : p.entry.card = some card) (o : CardOutcome) :
    payoutEnded s (complete card.slot (card.vendOutcome.getD o)
      (putPayoutResult p (retainedOf s p) card (payoutReleased s p))) p o := by
  have hm' : Memory.wf (payoutReleased s p).mem = true := hm
  have hresult := putPayoutResult_slots (p := p) (retained := retainedOf s p) (card := card) hm'
  have hdone := hresult.complete (show (payoutReleased s p).ready = true from hready) (card.vendOutcome.getD o)
  obtain ⟨hholder, hcode⟩ := complete_done hresult.wf card.slot (card.vendOutcome.getD o)
  have hshown := payoutResultShown_complete hresult.wf (card.vendOutcome.getD o) (putPayoutResult_shown hm')
  generalize complete card.slot (card.vendOutcome.getD o) _ = t at hdone hholder hcode hshown ⊢
  have hlive : t.live = (payoutCounted s p).live := by
    rw [hdone.frame]
    rfl
  refine ⟨?_, fun i => by rw [hlive, payoutCounted_live], ?_⟩
  · rw [hlive, hcard, Option.map_some, Option.getD_some]
    exact hdone.frame
  · have hbytes : keepsBytes s t (cardByte card.slot) := fun a ha =>
      hdone.bytes a fun ⟨_, hslot, hb⟩ => ha (List.mem_singleton.mp hslot ▸ hb)
    unfold payoutCardEnded
    rw [hcard]
    exact ⟨hholder, hcode, hbytes, hshown⟩

/-- R135: the end of a payout with outcome `o`. -/
theorem endPayoutWith_ended (hm : Memory.wf s.mem = true) (hready : s.ready = true) (hp : s.payout = some p)
    (hstays : (s.without .payout).headStays) (o : CardOutcome) : payoutEnded s (endPayoutWith judgeLoad o s) p o := by
  rw [endPayoutWith_alone hready hp hstays]
  cases hcard : p.entry.card with
  | none => exact payoutEnded_of_noCard hcard o
  | some card => exact payoutEnded_of_card hm hready hcard o

theorem payoutOutcome_eq (p : Payout) : payoutOutcome p = if p.inFull then .paid else .partialPaid := by
  unfold payoutOutcome Payout.inFull
  split <;> simp

/-- R135: a payout ends PAID in full, or PARTIAL. -/
theorem endPayout_ended (hm : Memory.wf s.mem = true) (hready : s.ready = true) (hp : s.payout = some p)
    (hstays : (s.without .payout).headStays) : payoutEnded s (endPayout judgeLoad s) p (payoutOutcome p) := by
  rw [payoutOutcome_eq]
  simp only [endPayout, hp]
  exact endPayoutWith_ended hm hready hp hstays _

/-- The coins that were left to pay do not show in the end of a payout. -/
theorem payoutEnded_left {t : State} {o : CardOutcome} {left : CoinsLeft} {air : Option AirCoin} {q : Option Payout}
    (h : payoutEnded { s with payout := q } t { p with left := left, air := air } o) : payoutEnded s t p o := h

/-- The busy markers are cleared whatever they were, and no payout is left. -/
theorem payoutEnded_of_busy {t : State} {o : CardOutcome} {q : Option Payout}
    (h : payoutEnded (setBusy true { s with payout := q }) t p o) : payoutEnded s t p o := by
  obtain ⟨hframe, hlive, hcard⟩ := h
  refine ⟨hframe.trans ?_, hlive, hcard⟩
  simp only [setBusy, Vector.map_map]
  rfl

end

end Sys2Proof.Machine

/-! The next coin of a payout (R132): the draw, the shares of a TUBE_LIST, and what follows when a coin can or cannot leave. -/

namespace Sys2Proof.Machine

/-! ## The draw among the tubes of a denomination -/

/-- Of the tubes listed, the one with the highest count, the lowest on equal counts (R132). -/
def fullest (tubes : Vector Tube 4) (l : List (Fin 4)) (t : Fin 4) : Prop :=
  t ∈ l ∧ ∀ k ∈ l, tubes[k].count < tubes[t].count ∨ tubes[k].count = tubes[t].count ∧ t ≤ k

section
variable {tubes : Vector Tube 4}

theorem fullest_unique {l : List (Fin 4)} {t u : Fin 4} (ht : fullest tubes l t) (hu : fullest tubes l u) : t = u := by
  obtain ⟨htl, ht⟩ := ht
  obtain ⟨hul, hu⟩ := hu
  have htu := ht u hul
  have hut := hu t htl
  omega

theorem foldl_fullerTube : ∀ (l : List (Fin 4)) (b : Fin 4), (b :: l).Pairwise (· < ·) →
    ∃ t, l.foldl (fullerTube tubes) (some b) = some t ∧ fullest tubes (b :: l) t
  | [], b, _ => ⟨b, rfl, List.mem_singleton_self b, fun k hk => .inr (by simp [List.mem_singleton.mp hk])⟩
  | c :: l, b, hsorted => by
    obtain ⟨hb, hcl⟩ := List.pairwise_cons.mp hsorted
    have hbl : (b :: l).Pairwise (· < ·) :=
      List.pairwise_cons.mpr ⟨fun k hk => hb k (List.mem_cons_of_mem _ hk), (List.pairwise_cons.mp hcl).2⟩
    have hbc := hb c List.mem_cons_self
    rw [List.foldl_cons, fullerTube]
    split
    · next hfuller =>
      obtain ⟨t, hfold, ht, hmost⟩ := foldl_fullerTube l c hcl
      refine ⟨t, hfold, List.mem_cons_of_mem _ ht, fun k hk => ?_⟩
      obtain rfl | hk := List.mem_cons.mp hk
      · have hct := hmost c List.mem_cons_self
        omega
      · exact hmost k hk
    · next hfuller =>
      obtain ⟨t, hfold, ht, hmost⟩ := foldl_fullerTube l b hbl
      refine ⟨t, hfold, List.mem_cons.mpr ((List.mem_cons.mp ht).imp_right (List.mem_cons_of_mem _)), fun k hk => ?_⟩
      obtain rfl | hk := List.mem_cons.mp hk
      · exact hmost k List.mem_cons_self
      obtain rfl | hk := List.mem_cons.mp hk
      · have hbt := hmost b List.mem_cons_self
        omega
      · exact hmost k (List.mem_cons_of_mem _ hk)

/-- The tubes that hold coins of a value, the lowest first. -/
def memberTubes (tubes : Vector Tube 4) (value : Nat) : List (Fin 4) :=
  [0, 1, 2, 3].filter fun t : Fin 4 => tubes[t].value = value ∧ 0 < tubes[t].count

theorem mem_four (t : Fin 4) : t ∈ ([0, 1, 2, 3] : List (Fin 4)) := by
  fin_cases t <;> decide

theorem four_sorted : ([0, 1, 2, 3] : List (Fin 4)).Pairwise (· < ·) := by decide

theorem mem_memberTubes {value : Nat} {t : Fin 4} :
    t ∈ memberTubes tubes value ↔ tubes[t].value = value ∧ 0 < tubes[t].count := by
  simp only [memberTubes, List.mem_filter, mem_four, true_and, decide_eq_true_eq]

theorem drawTube_eq_some_iff_fullest {value : Nat} {t : Fin 4} :
    drawTube tubes value = some t ↔ fullest tubes (memberTubes tubes value) t := by
  change (memberTubes tubes value).foldl (fullerTube tubes) none = some t ↔ _
  have hsorted : (memberTubes tubes value).Pairwise (· < ·) := four_sorted.filter _
  cases hl : memberTubes tubes value with
  | nil => simp [fullest]
  | cons b l =>
    obtain ⟨u, hfold, hu⟩ := foldl_fullerTube (tubes := tubes) l b (hl ▸ hsorted)
    rw [List.foldl_cons, fullerTube, hfold]
    exact ⟨fun h => Option.some.inj h ▸ hu, fun ht => congrArg some (fullest_unique hu ht)⟩

/-- R132: the draw among all the tubes of a value; one that holds no coin has a lower count than the tube drawn. -/
theorem drawTube_eq_some {value : Nat} {t : Fin 4} : drawTube tubes value = some t ↔
    tubes[t].value = value ∧ 0 < tubes[t].count ∧
      ∀ k : Fin 4, tubes[k].value = value → tubes[k].count < tubes[t].count ∨ tubes[k].count = tubes[t].count ∧ t ≤ k := by
  simp only [drawTube_eq_some_iff_fullest, fullest, mem_memberTubes, and_assoc]
  refine and_congr_right fun _ => and_congr_right fun hcount => ⟨fun hmost k hvalue => ?_, fun hmost k hk => hmost k hk.1⟩
  by_cases hk : 0 < tubes[k].count
  · exact hmost k ⟨hvalue, hk⟩
  · omega

/-! ## The shares of a TUBE_LIST -/

/-- A share from which nothing can be ejected: no coins are left to pay, or the tube is empty. -/
def shareSpent (tubes : Vector Tube 4) (left : Vector Nat 4) (k : Fin 4) : Prop := left[k] = 0 ∨ tubes[k].count = 0

theorem drawShare_of_spent {l : List (Fin 4)} {left : Vector Nat 4} {t : Fin 4} (h : shareSpent tubes left t) :
    drawShare tubes (t :: l) left = drawShare tubes l (left.set t 0) := by
  rw [drawShare]
  by_cases hleft : left[t] = 0
  · have hsame : left.set t 0 = left := by rw [← hleft]; exact Vector.set_getElem_self _
    rw [if_pos hleft, hsame]
  · rw [if_neg hleft, if_pos (h.resolve_left hleft)]

theorem drawShare_of_open {l : List (Fin 4)} {left : Vector Nat 4} {t : Fin 4} (h : ¬ shareSpent tubes left t) :
    drawShare tubes (t :: l) left = (some t, left) := by
  rw [shareSpent, not_or] at h
  rw [drawShare, if_neg h.1, if_neg h.2]

/-- Of the tubes listed, the shares below the tube drawn have ended. -/
def sharesEnded (l : List (Fin 4)) (left : Vector Nat 4) (t : Fin 4) : Vector Nat 4 :=
  Vector.ofFn fun k => if k ∈ l ∧ k < t then 0 else left[k]

theorem sharesEnded_cons {b t : Fin 4} {l : List (Fin 4)} (hbt : b < t) (left : Vector Nat 4) :
    sharesEnded l (left.set b 0) t = sharesEnded (b :: l) left t := by
  refine Vector.ext fun k hk => ?_
  simp only [sharesEnded, Vector.getElem_ofFn, List.mem_cons, Fin.getElem_fin, Vector.getElem_set, Fin.ext_iff]
  by_cases hkb : k = b.val
  · subst hkb
    simp [hbt]
  · simp [hkb, Ne.symm hkb]

theorem sharesEnded_head {b : Fin 4} {l : List (Fin 4)} (hb : ∀ k ∈ l, b < k) (left : Vector Nat 4) :
    sharesEnded (b :: l) left b = left := by
  refine Vector.ext fun k hk => ?_
  rw [sharesEnded, Vector.getElem_ofFn, if_neg]
  · rfl
  · rintro ⟨hmem, hlt⟩
    obtain rfl | hmem := List.mem_cons.mp hmem
    · exact lt_irrefl _ hlt
    · exact lt_asymm hlt (hb _ hmem)

theorem shareSpent_set {b k : Fin 4} (h : k ≠ b) (left : Vector Nat 4) :
    shareSpent tubes (left.set b 0) k ↔ shareSpent tubes left k := by
  simp [shareSpent, Fin.val_ne_of_ne h.symm]

/-- The draw takes the lowest share from which a coin can be ejected, and ends those below it (R132). -/
theorem drawShare_eq_some : ∀ {l : List (Fin 4)} {left left' : Vector Nat 4} {t : Fin 4}, l.Pairwise (· < ·) →
    (drawShare tubes l left = (some t, left') ↔
      t ∈ l ∧ ¬ shareSpent tubes left t ∧ (∀ k ∈ l, k < t → shareSpent tubes left k) ∧ left' = sharesEnded l left t)
  | [], _, _, _, _ => by simp [drawShare]
  | b :: l, left, left', t, hsorted => by
    obtain ⟨hb, hl⟩ := List.pairwise_cons.mp hsorted
    by_cases hspent : shareSpent tubes left b
    · rw [drawShare_of_spent hspent, drawShare_eq_some hl]
      constructor
      · rintro ⟨ht, hopen, hbelow, rfl⟩
        have hbt := hb t ht
        rw [shareSpent_set hbt.ne'] at hopen
        refine ⟨List.mem_cons_of_mem _ ht, hopen, fun k hk hkt => ?_, sharesEnded_cons hbt left⟩
        obtain rfl | hk := List.mem_cons.mp hk
        · exact hspent
        · exact (shareSpent_set (hb k hk).ne' left).mp (hbelow k hk hkt)
      · rintro ⟨ht, hopen, hbelow, rfl⟩
        obtain rfl | ht := List.mem_cons.mp ht
        · exact absurd hspent hopen
        have hbt := hb t ht
        refine ⟨ht, by rwa [shareSpent_set hbt.ne'], fun k hk hkt => ?_, (sharesEnded_cons hbt left).symm⟩
        exact (shareSpent_set (hb k hk).ne' left).mpr (hbelow k (List.mem_cons_of_mem _ hk) hkt)
    · rw [drawShare_of_open hspent]
      constructor
      · rintro ⟨⟩
        refine ⟨List.mem_cons_self, hspent, fun k hk hkt => ?_, (sharesEnded_head hb left).symm⟩
        obtain rfl | hk := List.mem_cons.mp hk
        · exact absurd hkt (lt_irrefl _)
        · exact absurd hkt (lt_asymm (hb k hk))
      · rintro ⟨ht, -, hbelow, rfl⟩
        obtain rfl | ht := List.mem_cons.mp ht
        · rw [sharesEnded_head hb]
        · exact absurd (hbelow b List.mem_cons_self (hb t ht)) hspent

/-- No coin is drawn when no share holds one that can be ejected. -/
theorem drawShare_eq_none : ∀ {l : List (Fin 4)} {left : Vector Nat 4}, l.Pairwise (· < ·) →
    ((drawShare tubes l left).1 = none ↔ ∀ k ∈ l, shareSpent tubes left k)
  | [], _, _ => by simp [drawShare]
  | b :: l, left, hsorted => by
    obtain ⟨hb, hl⟩ := List.pairwise_cons.mp hsorted
    by_cases hspent : shareSpent tubes left b
    · rw [drawShare_of_spent hspent, drawShare_eq_none hl, List.forall_mem_cons]
      simp only [hspent, true_and]
      exact forall₂_congr fun k hk => shareSpent_set (hb k hk).ne' left
    · simp [drawShare_of_open hspent, hspent]

/-! ## The next coin -/

theorem nextCoin_eq_some {left left' : CoinsLeft} {t : Fin 4} :
    nextCoin tubes left = (some t, left') ↔ drawn tubes left left' t := by
  cases left with
  | byValue coins =>
    rw [nextCoin]
    split
    · next hcoin => simp [drawn, hcoin]
    · next v n hcoin =>
      simp only [drawn, hcoin, Prod.mk.injEq, drawTube_eq_some, Option.map_some, Option.some.injEq, exists_eq_left']
      exact ⟨fun ⟨h, hleft⟩ => ⟨hleft.symm, h⟩, fun ⟨hleft, h⟩ => ⟨h, hleft.symm⟩⟩
  | byTube left =>
    have hdraw (n : Vector Nat 4) := drawShare_eq_some (tubes := tubes) (left := left) (left' := n) (t := t) four_sorted
    simp only [mem_four, true_and, forall_const, sharesEnded] at hdraw
    simp only [nextCoin, drawn, Prod.mk.injEq]
    constructor
    · rintro ⟨hfirst, rfl⟩
      obtain ⟨hopen, hbelow, hleft⟩ := (hdraw (drawShare tubes [0, 1, 2, 3] left).2).mp (Prod.ext hfirst rfl)
      obtain ⟨hcoins, hcount⟩ := not_or.mp hopen
      exact ⟨hcoins, hcount, hbelow, congrArg _ hleft⟩
    · rintro ⟨hcoins, hcount, hbelow, rfl⟩
      have hresult := (hdraw _).mpr ⟨not_or.mpr ⟨hcoins, hcount⟩, hbelow, rfl⟩
      simp only [hresult, and_self]

theorem nextCoin_eq_none {left : CoinsLeft} : (nextCoin tubes left).1 = none ↔ ∀ k left', ¬ drawn tubes left left' k := by
  simp only [← nextCoin_eq_some]
  constructor
  · rintro hnone k left' hsome
    rw [hsome] at hnone
    cases hnone
  · intro hnever
    cases hcoin : nextCoin tubes left with
    | mk first left' =>
      cases first with
      | none => rfl
      | some k => exact absurd hcoin (hnever k left')

end

theorem withinCredit_iff (p : Payout) (value : Nat) (s : State) : withinCredit p value s = true ↔ mayEject s p value := by
  unfold withinCredit mayEject State.available
  rw [Bool.or_eq_true, bne_iff_ne, decide_eq_true_iff, imp_iff_not_or]

section
variable {s : State} {p : Payout}

/-- A coin that is drawn and may leave is ejected. -/
theorem ejectNext_ejects (hp : s.payout = some p) {k : Fin 4} {left : CoinsLeft} (hdrawn : drawn s.tubes p.left left k)
    (hmay : mayEject s p s.tubes[k].value) (judge : State → State) :
    ejectNext judge s = ejecting s { p with left := left } k s.tubes[k].value false := by
  have hwithin : withinCredit { p with left := left, air := none } s.tubes[k].value s = true :=
    (withinCredit_iff _ _ s).mpr hmay
  simp only [ejectNext, hp, nextCoin_eq_some.mpr hdrawn, hwithin, if_true]
  rfl

/-- A payout that has no coin to eject, or may not eject it, ends (R132, R135; notes/assumptions/27.md). -/
theorem ejectNext_ends (hp : s.payout = some p)
    (hcannot : ∀ k left, drawn s.tubes p.left left k → ¬ mayEject s p s.tubes[k].value) (judge : State → State) :
    ejectNext judge s =
      endPayout judge { s with payout := some { p with left := (nextCoin s.tubes p.left).2, air := none } } := by
  cases hcoin : nextCoin s.tubes p.left with
  | mk first left =>
    cases first with
    | none => simp only [ejectNext, hp, hcoin]
    | some k =>
      have hwithin : withinCredit { p with left := left, air := none } s.tubes[k].value s ≠ true := fun h =>
        hcannot k left (nextCoin_eq_some.mp hcoin) ((withinCredit_iff _ _ s).mp h)
      simp only [ejectNext, hp, hcoin, if_neg hwithin]

/-- Each tube and the coins left are drawn once. -/
theorem drawn_unique {tubes : Vector Tube 4} {left a b : CoinsLeft} {k l : Fin 4} (hk : drawn tubes left a k)
    (hl : drawn tubes left b l) : k = l := by
  have hsame := (nextCoin_eq_some.mpr hk).symm.trans (nextCoin_eq_some.mpr hl)
  simp only [Prod.mk.injEq, Option.some.injEq] at hsame
  exact hsame.1

/-- R132, R135: the engine ejects its next coin, or the payout ends. -/
theorem ejectNext_taken (hm : Memory.wf s.mem = true) (hready : s.ready = true) (hp : s.payout = some p) :
    nextCoinTaken s (ejectNext judgeLoad s) p := by
  have hend (hcannot : ∀ k left, drawn s.tubes p.left left k → ¬ mayEject s p s.tubes[k].value)
      (hstays : (s.without .payout).headStays) : payoutEnded s (ejectNext judgeLoad s) p (payoutOutcome p) := by
    rw [ejectNext_ends hp hcannot]
    have hended := endPayout_ended (s := { s with payout := some { p with left := (nextCoin s.tubes p.left).2, air := none } })
      hm hready rfl hstays
    exact payoutEnded_left hended
  refine ⟨fun k left hdrawn hmay => ejectNext_ejects hp hdrawn hmay judgeLoad,
    fun k left hdrawn hmay hstays => hend (fun l left' hl => ?_) hstays,
    fun hnever hstays => hend (fun k left hdrawn => absurd hdrawn (hnever k left)) hstays⟩
  rwa [← drawn_unique hdrawn hl]

end

end Sys2Proof.Machine

/-! A coin at the exit sensor (R133, R135, R139). -/

namespace Sys2Proof.Machine

/-! ## A coin is confirmed -/

/-- The payout `p` behind the confirmed coin `a` (R133). -/
def paidOn (a : AirCoin) (p : Payout) : Payout :=
  { p with paid := p.paid + a.value, left := p.left.takeOne a.tube a.value, air := none,
           coinsPaid := p.coinsPaid.set a.tube (p.coinsPaid[a.tube] + 1) }

/-- No coins are left to pay. -/
def nothingLeft (left : CoinsLeft) : Prop :=
  match left with
  | .byValue coins => ∀ c ∈ coins, c.2 = 0
  | .byTube n => ∀ k : Fin 4, n[k] = 0

theorem all_zero_iff {n : Vector Nat 4} : n.toList.all (· == 0) = true ↔ ∀ k : Fin 4, n[k] = 0 := by
  simp [toList_vector4, Fin.forall_fin_succ]

theorem none?_iff (left : CoinsLeft) : left.none? = true ↔ nothingLeft left := by
  cases left with
  | byValue coins => simp [CoinsLeft.none?, nothingLeft]
  | byTube n => exact all_zero_iff

section
variable {s : State} {p : Payout}

theorem moneyIf_true : moneyIf true = NoticeClass.money.bit := rfl

/-- A tube record is written, and the exact-change status follows it (R125). -/
theorem recomputeChange_putTube (hready : s.ready = true) (k : Fin 4) (r : Tube) :
    let flag := exactChangeFlag (s.tubes.set k r) s.moneySet.guaranteeLimit
    recomputeChange (putTube k r s) =
      { s with tubes := s.tubes.set k r, exactOnly := flag,
               guaranteed := guaranteedAmount (s.tubes.set k r) s.moneySet.guaranteeLimit,
               noticePending := s.noticePending ||| moneyIf (flag != s.exactOnly) } := by
  have hflag (b : Bool) : ((putTube k r s).ready && b) = b := by
    rw [show (putTube k r s).ready = true from hready, Bool.true_and]
  rw [recomputeChange_eq, hflag]
  rfl

/-- The count of the tube, the credit, the audit block and the payout follow in one step (R133, R125). -/
theorem confirmCoin_eq (hready : s.ready = true) (a : AirCoin) (p : Payout) :
    let tubes := s.tubes.set a.tube { s.tubes[a.tube] with count := s.tubes[a.tube].count - 1 }
    let flag := exactChangeFlag tubes s.moneySet.guaranteeLimit
    confirmCoin a p s =
      { s with payout := some (paidOn a p), tubes := tubes, exactOnly := flag,
               guaranteed := guaranteedAmount tubes s.moneySet.guaranteeLimit,
               credit := if p.entry.form = .creditReturn then max (s.credit - a.value) s.held else s.credit,
               live := (count (.coinsPaid a.tube) 1 s).live,
               noticePending := s.noticePending ||| moneyIf (p.entry.form == .creditReturn || flag != s.exactOnly) } := by
  dsimp only
  rw [confirmCoin, recomputeChange_putTube hready]
  by_cases hform : p.entry.form = .creditReturn
  · simp only [hform, if_true, beq_self_eq_true, Bool.true_or]
    rw [putCredit_ready (by exact hready)]
    simp only [BitVec.or_assoc, ← moneyIf_true, moneyIf_or, Bool.or_true]
    rfl
  · have hother : (p.entry.form == .creditReturn) = false := by simpa using hform
    simp only [if_neg hform, hother, Bool.false_or]
    rfl

theorem confirmCoin_confirmed (hready : s.ready = true) (a : AirCoin) (p : Payout) :
    confirmed s p a (confirmCoin a p s) (paidOn a p) := by
  rw [confirmCoin_eq hready]
  refine ⟨?_, rfl, ⟨rfl, rfl⟩, rfl, fun i => ?_, rfl⟩
  · unfold paidOn CoinsLeft.takeOne
    cases p.left <;> rfl
  · exact count_live_getElem (.coinsPaid a.tube) 1 s i

/-- The payout goes on behind a confirmed coin. -/
theorem afterConfirm_goesOn (hm : Memory.wf s.mem = true) (hready : s.ready = true) (hp : s.payout = some p) :
    (nothingLeft p.left → (s.without .payout).headStays → payoutEnded s (afterConfirm judgeLoad s) p (payoutOutcome p)) ∧
    (¬ nothingLeft p.left → p.pulse.isSome = true → afterConfirm judgeLoad s = s) ∧
    (¬ nothingLeft p.left → p.pulse = none → nextCoinTaken s (afterConfirm judgeLoad s) p) := by
  simp only [← none?_iff]
  refine ⟨fun hdone hstays => ?_, fun hmore hpulse => ?_, fun hmore hpulse => ?_⟩
  · simp only [afterConfirm, hp, if_pos hdone]
    exact endPayout_ended hm hready hp hstays
  · simp only [afterConfirm, hp, if_neg hmore, if_pos hpulse]
  · simp only [afterConfirm, hp, if_neg hmore, hpulse, Option.isSome_none, Bool.false_eq_true, if_false]
    exact ejectNext_taken hm hready hp

end

/-! ## The exit sensor -/

section
variable {s : State} {returned : Bool}

theorem execExitCoinSeen_new (hworking : s.working = true) (hnew : returned = true ∨ s.spent.exit = false) :
    exec (.exitCoinSeen returned) s = .next (exitCoin { s with spent := { s.spent with exit := true } }) := by
  change execExitCoinSeen s returned = _
  rw [execExitCoinSeen, if_pos ⟨hworking, hnew⟩]

theorem execExitCoinSeen_spent (hspent : ¬ (returned = true ∨ s.spent.exit = false)) :
    exec (.exitCoinSeen returned) s = .next s := by
  change execExitCoinSeen s returned = _
  rw [execExitCoinSeen, if_neg fun h => hspent h.2]

theorem exitCoin_confirmed {p : Payout} {a : AirCoin} (hp : s.payout = some p) (hair : p.air = some a)
    (hmoment : s.missedAt ≠ some s.now) : exitCoin s = afterConfirm judgeLoad (confirmCoin a p s) := by
  have hcoin : s.airCoin = some a := by rw [State.airCoin, hp, Option.bind_some, hair]
  simp only [exitCoin, hp, hcoin, if_neg hmoment]

end

/-- Settles O41: a coin that is stray, and one that is confirmed, behind which the payout goes on. -/
theorem aCoinSeenIsConfirmedOrStray : Obligations.ACoinSeenIsConfirmedOrStray := by
  intro returned s hworking
  have hready : s.ready = true := working_ready hworking
  by_cases hnew : returned = true ∨ s.spent.exit = false
  · refine ⟨_, execExitCoinSeen_new hworking hnew, fun hno hspent => ?_, fun _ => ⟨fun hstray => ?_, ?_⟩⟩
    · simp [hno, hspent] at hnew
    · exact exitCoin_stray hstray
    · intro p a hp hair hmoment hm
      have hconfirmed := confirmCoin_confirmed (s := { s with spent := { s.spent with exit := true } }) hready a p
      rw [exitCoin_confirmed (s := { s with spent := { s.spent with exit := true } }) hp hair hmoment]
      refine ⟨_, _, hconfirmed, ?_⟩
      obtain ⟨_, _, _, _, _, hframe⟩ := hconfirmed
      refine afterConfirm_goesOn ?_ ?_ ?_ <;> rw [hframe]
      · exact hm
      · exact hready
  · refine ⟨s, execExitCoinSeen_spent hnew, fun _ _ => rfl, fun h => absurd h hnew⟩

end Sys2Proof.Machine

/-! The end of an ejector pulse, and a confirm window that expires (R132, R134). -/

namespace Sys2Proof.Machine

/-! ## The pulse that ends first (R132) -/

/-- One tube's look at the pulse that ends first among those before it. -/
def earlierPulse (ejectors : Vector (Option Nat) 4) (first : Option (Fin 4 × Nat)) (t : Fin 4) : Option (Fin 4 × Nat) :=
  match ejectors[t], first with
  | some m, some (_, n) => if m < n then some (t, m) else first
  | some m, none => some (t, m)
  | none, _ => first

theorem firstPulse_eq_foldl (s : State) : s.firstPulse = [0, 1, 2, 3].foldl (earlierPulse s.ejectors) none := rfl

section
variable {ejectors : Vector (Option Nat) 4} {tube : Fin 4} {m : Nat}

/-- No pulse has been seen yet, or one that ends later. -/
def endsLater (m : Nat) (first : Option (Fin 4 × Nat)) : Prop := ∀ q ∈ first, m < q.2

theorem earlierPulse_later {k : Fin 4} {first : Option (Fin 4 × Nat)} (hk : ∀ n, ejectors[k] = some n → m < n)
    (hfirst : endsLater m first) : endsLater m (earlierPulse ejectors first k) := by
  unfold earlierPulse
  split
  · next n j i hpulse =>
    split
    · rintro q ⟨⟩
      exact hk n hpulse
    · exact hfirst
  · next n hpulse =>
    rintro q ⟨⟩
    exact hk n hpulse
  · exact hfirst

theorem foldl_earlierPulse_later : ∀ {l : List (Fin 4)} {first : Option (Fin 4 × Nat)},
    (∀ k ∈ l, ∀ n, ejectors[k] = some n → m < n) → endsLater m first →
      endsLater m (l.foldl (earlierPulse ejectors) first)
  | [], _, _, hfirst => hfirst
  | k :: l, first, hl, hfirst => by
    rw [List.foldl_cons]
    exact foldl_earlierPulse_later (fun j hj => hl j (List.mem_cons_of_mem k hj))
      (earlierPulse_later (hl k List.mem_cons_self) hfirst)

theorem earlierPulse_takes {first : Option (Fin 4 × Nat)} (hpulse : ejectors[tube] = some m) (hfirst : endsLater m first) :
    earlierPulse ejectors first tube = some (tube, m) := by
  cases first with
  | none => simp only [earlierPulse, hpulse]
  | some q => simp only [earlierPulse, hpulse, if_pos (hfirst q rfl)]

theorem foldl_earlierPulse_keeps : ∀ {l : List (Fin 4)}, (∀ k ∈ l, ∀ n, ejectors[k] = some n → m ≤ n) →
    l.foldl (earlierPulse ejectors) (some (tube, m)) = some (tube, m)
  | [], _ => rfl
  | k :: l, hl => by
    have hkeeps : earlierPulse ejectors (some (tube, m)) k = some (tube, m) := by
      cases hk : ejectors[k] with
      | none => simp only [earlierPulse, hk]
      | some n => simp only [earlierPulse, hk, if_neg (Nat.not_lt.mpr (hl k List.mem_cons_self n hk))]
    rw [List.foldl_cons, hkeeps]
    exact foldl_earlierPulse_keeps fun j hj => hl j (List.mem_cons_of_mem _ hj)

theorem four_split : ∀ tube : Fin 4, ([0, 1, 2, 3] : List (Fin 4)) =
    [0, 1, 2, 3].filter (· < tube) ++ tube :: [0, 1, 2, 3].filter (tube < ·) := by decide

/-- The pulse that ends before every other, or together with those of higher tubes alone. -/
theorem firstPulse_eq {s : State} (hpulse : s.ejectors[tube] = some m)
    (hfirst : ∀ (k : Fin 4) (n : Nat), s.ejectors[k] = some n → m < n ∨ (m = n ∧ tube ≤ k)) :
    s.firstPulse = some (tube, m) := by
  have hbelow : endsLater m (([0, 1, 2, 3].filter (· < tube)).foldl (earlierPulse s.ejectors) none) := by
    refine foldl_earlierPulse_later (fun k hk n hn => ?_) fun _ h => nomatch h
    have hlt : k < tube := by simpa using (List.mem_filter.mp hk).2
    have hkn := hfirst k n hn
    omega
  rw [firstPulse_eq_foldl, four_split tube, List.foldl_append, List.foldl_cons, earlierPulse_takes hpulse hbelow]
  refine foldl_earlierPulse_keeps fun k _ n hn => ?_
  have hkn := hfirst k n hn
  omega

end

section
variable {s : State} {p : Payout} {tube : Fin 4}

/-- A pulse for which no payout waits leaves the engine as it is. -/
theorem afterPulse_alone (h : ∀ p, s.payout = some p → p.pulse ≠ some tube) : afterPulse tube s = s := by
  unfold afterPulse
  split
  · next p hp => rw [if_neg (h p hp)]
  · rfl

theorem afterPulse_inAir (hp : s.payout = some p) (hpulse : p.pulse = some tube) (hair : p.air.isSome = true) :
    afterPulse tube s = { s with payout := some { p with pulse := none } } := by
  simp only [afterPulse, hp, if_pos hpulse, if_pos hair]

theorem afterPulse_confirmed (hp : s.payout = some p) (hpulse : p.pulse = some tube) (hair : p.air = none) :
    afterPulse tube s = ejectNext judgeLoad { s with payout := some { p with pulse := none } } := by
  simp only [afterPulse, hp, if_pos hpulse, hair, Option.isSome_none, Bool.false_eq_true, if_false]

theorem exec_ejectorPulseEnd {m : Nat} (hworking : s.working = true) (hpulse : s.firstPulse = some (tube, m)) :
    exec .ejectorPulseEnd s =
      .next (afterPulse tube { s with now := max s.now m, ejectors := s.ejectors.set tube none }) := by
  change execEjectorPulseEnd s = _
  simp only [execEjectorPulseEnd, hpulse, if_pos hworking]
  rfl

/-! ## A window that expires (R134) -/

/-- The payout `p` behind the second miss of a coin of `tube`: what remains is planned anew with the records `tubes`. -/
def missedTwice (tubes : Vector Tube 4) (tube : Fin 4) (p : Payout) : Payout :=
  { p with
    emptyEvents := min 255 (p.emptyEvents + 1), air := none,
    left := match p.left with
      | .byTube n => .byTube (n.set tube 0)
      | .byValue _ => .byValue (planFor tubes (p.due - p.paid)).coins }

theorem handOverPlan_eq (hready : s.ready = true) (plan : Plan) :
    handOverPlan plan s = { s with noticePending := s.noticePending ||| moneyIf plan.reserveUsed } := by
  unfold handOverPlan
  cases plan.reserveUsed with
  | false =>
    have hnone : s.noticePending ||| moneyIf false = s.noticePending := BitVec.or_zero
    rw [hnone]
    rfl
  | true => exact raise_ready .money hready

theorem or_moneyIf_money (n : BitVec 9) (b : Bool) :
    n ||| moneyIf b ||| NoticeClass.money.bit = n ||| NoticeClass.money.bit := by
  rw [← moneyIf_true, BitVec.or_assoc, moneyIf_or, Bool.or_true]

theorem or_money_moneyIf (n : BitVec 9) (b : Bool) :
    n ||| NoticeClass.money.bit ||| moneyIf b = n ||| NoticeClass.money.bit := by
  rw [← moneyIf_true, BitVec.or_assoc, moneyIf_or, Bool.true_or]

/-- A tube is emptied: its count, the exact-change status, the audit block and the notice follow in one step (R134, R125). -/
theorem tubeEmptied_eq (hready : s.ready = true) (k : Fin 4) (r : Tube) :
    raise .money (count .tubeEmpty 1 (recomputeChange (putTube k r s))) =
      { s with tubes := s.tubes.set k r, exactOnly := exactChangeFlag (s.tubes.set k r) s.moneySet.guaranteeLimit,
               guaranteed := guaranteedAmount (s.tubes.set k r) s.moneySet.guaranteeLimit,
               live := s.live.set 23 (s.live[23] + 1), noticePending := s.noticePending ||| NoticeClass.money.bit } := by
  rw [recomputeChange_putTube hready, raise_ready .money (by exact hready),
    ← or_moneyIf_money s.noticePending (exactChangeFlag (s.tubes.set k r) s.moneySet.guaranteeLimit != s.exactOnly)]
  rfl

/-- A tube that is found empty, and the payout that goes on without it (R134). -/
theorem tubeFoundEmpty_eq (hready : s.ready = true) (tube : Fin 4) (p : Payout) :
    let tubes := s.tubes.set tube { s.tubes[tube] with count := 0 }
    tubeFoundEmpty tube p s =
      { s with tubes := tubes, exactOnly := exactChangeFlag tubes s.moneySet.guaranteeLimit,
               guaranteed := guaranteedAmount tubes s.moneySet.guaranteeLimit, payout := some (missedTwice tubes tube p),
               live := s.live.set 23 (s.live[23] + 1), noticePending := s.noticePending ||| NoticeClass.money.bit } := by
  dsimp only
  rw [tubeFoundEmpty, tubeEmptied_eq hready, missedTwice]
  cases p.left with
  | byTube n => rfl
  | byValue coins =>
    dsimp only
    rw [handOverPlan_eq (by exact hready), or_money_moneyIf]
    rfl

theorem exec_confirmWindowExpiry {a : AirCoin} (hworking : s.working = true) (hp : s.payout = some p)
    (hair : p.air = some a) :
    exec .confirmWindowExpiry s = .next (missCoin a p (s.reach a.window).missed) := by
  have hcoin : s.airCoin = some a := by rw [State.airCoin, hp, Option.bind_some, hair]
  change execConfirmWindowExpiry s = _
  simp only [execConfirmWindowExpiry, hp, hcoin, if_pos hworking]

/-- A coin that comes together with the expiry that was taken first is stray (R133, notes/assumptions/49.md). -/
theorem exitCoin_afterMiss {t : State} (hmoment : keepsMoment s t) (hworking : s.working = true)
    (hmissed : s.missedAt = some s.now) : exec .exitCoinSeen t =
      .next { t with spent := { t.spent with exit := true }, live := t.live.set 22 (t.live[22] + 1) } := by
  obtain ⟨hnow, hmissedAt, -, hready, hpfail⟩ := hmoment
  have hworking' : t.working = true := by rw [State.working, hready, hpfail]; exact hworking
  have hstray : ({ t with spent := { t.spent with exit := true } } : State).missedAt = some t.now := by
    rw [hnow, ← hmissed]
    exact hmissedAt
  rw [execExitCoinSeen_new hworking' (.inl rfl), exitCoin_stray (.inr hstray)]
  rfl

theorem missCoin_again {a : AirCoin} (hfirst : a.retried = false) (hmay : mayEject s p a.value) :
    missCoin a p s = ejecting s p a.tube a.value true := by
  rw [missCoin, if_neg (by simp [hfirst]), if_pos ((withinCredit_iff p a.value s).mpr hmay)]
  rfl

theorem missCoin_beyondCredit {a : AirCoin} (hfirst : a.retried = false) (hmay : ¬ mayEject s p a.value) :
    missCoin a p s = endPayout judgeLoad s := by
  rw [missCoin, if_neg (by simp [hfirst]), if_neg fun h => hmay ((withinCredit_iff p a.value s).mp h)]

theorem missCoin_twice {a : AirCoin} (hsecond : a.retried = true) :
    missCoin a p s = ejectNext judgeLoad (tubeFoundEmpty a.tube p s) := by
  rw [missCoin, if_pos hsecond]

end

/-- Settles O42: the pulse that ends first and the payout that waits for it; then the miss of a coin, first and second. -/
theorem aPulseAndAWindowEnd : Obligations.APulseAndAWindowEnd := by
  intro s hm hworking
  have hready : s.ready = true := working_ready hworking
  refine ⟨fun tube m hpulse hfirst => ?_, fun p a hp hair => ?_⟩
  · refine ⟨_, exec_ejectorPulseEnd hworking (firstPulse_eq hpulse hfirst), fun hnone => afterPulse_alone hnone,
      fun p hp hwaits => ⟨fun hair => afterPulse_inAir hp hwaits hair, fun hair => ?_⟩⟩
    rw [afterPulse_confirmed (s := { s with now := max s.now m, ejectors := s.ejectors.set tube none }) hp hwaits hair]
    exact ejectNext_taken hm hready rfl
  · refine ⟨_, exec_confirmWindowExpiry hworking hp hair, exitCoin_afterMiss (missCoin_moment _ _ _) hworking rfl,
      fun hmiss hmay => missCoin_again hmiss hmay, fun hmiss hmay hstays => ?_, fun hmiss => ?_⟩
    · rw [missCoin_beyondCredit (s := (s.reach a.window).missed) hmiss hmay]
      exact endPayout_ended (s := (s.reach a.window).missed) hm hready hp hstays
    · refine ⟨tubeFoundEmpty a.tube p (s.reach a.window).missed,
        missedTwice (s.tubes.set a.tube { s.tubes[a.tube] with count := 0 }) a.tube p, ?_⟩
      rw [missCoin_twice hmiss, tubeFoundEmpty_eq (s := (s.reach a.window).missed) hready]
      refine ⟨rfl, ⟨rfl, rfl⟩, rfl, ?_, ejectNext_taken hm hready rfl⟩
      unfold missedTwice
      cases p.left <;> rfl

end Sys2Proof.Machine

/-! The head of the payout queue starts, or ends at once (R130, R131, R138). -/

namespace Sys2Proof.Machine

/-! ## The busy markers and the solver -/

/-- The solver reads the values, the counts and the reserves alone. -/
theorem planFor_busy (b : Bool) (tubes : Vector Tube 4) (amount : Nat) :
    planFor (tubes.map fun x => { x with busy := b }) amount = planFor tubes amount := by
  have hdenominations : denominations (tubes.map fun x => { x with busy := b }) = denominations tubes := by
    simp only [denominations, Vector.toList_map, List.foldr_map]
  have hpass1 : pass1 (tubes.map fun x => { x with busy := b }) = pass1 tubes := by
    simp only [pass1, availability, keptShare, hdenominations, Vector.toList_map, List.map_map, Function.comp_def]
  have hpass2 : pass2 (tubes.map fun x => { x with busy := b }) = pass2 tubes := by
    simp only [pass2, availability, hdenominations, Vector.toList_map, List.map_map, Function.comp_def]
  simp only [planFor, bestUnder, hdenominations, hpass1, hpass2]

/-! ## What an entry asks for (R131) -/

/-- The entry asks for nothing: a TUBE_LIST by its coin numbers, any other by the amount due. -/
def asksNothing (e : PayEntry) (due : Nat) : Prop :=
  if e.form == .tubeList then ∀ k : Fin 4, e.coins[k] = 0 else due = 0

/-- The coins left to pay of an entry that starts with the tube records `tubes`. -/
def startLeft (tubes : Vector Tube 4) (e : PayEntry) (due : Nat) : CoinsLeft :=
  if e.form == .tubeList then .byTube e.coins else .byValue (planFor tubes due).coins

/-- A coin can be ejected for the entry. -/
def canEject (tubes : Vector Tube 4) (e : PayEntry) (due : Nat) : Prop :=
  if e.form == .tubeList then ∃ k : Fin 4, e.coins[k] ≠ 0 ∧ tubes[k].count ≠ 0
  else ∃ c ∈ (planFor tubes due).coins, c.2 ≠ 0

/-- The payout of an entry before its first coin. -/
def freshPayout (e : PayEntry) (due : Nat) (left : CoinsLeft) : Payout :=
  ⟨e, due, 0, left, Vector.replicate 4 0, 0, none, none⟩

section
variable {s : State} {e : PayEntry} {due : Nat}

theorem amountDue_eq (e : PayEntry) (s : State) : amountDue e s =
    match e.form with
    | .creditReturn => s.credit - s.held
    | .amount => e.amount
    | .tubeList => e.coins[0] * s.tubes[0].value + e.coins[1] * s.tubes[1].value + e.coins[2] * s.tubes[2].value +
        e.coins[3] * s.tubes[3].value := by
  unfold amountDue
  cases e.form with
  | creditReturn => rfl
  | amount => rfl
  | tubeList => simp [toList_vector4, Nat.add_assoc]

theorem isList_iff : (e.form == .tubeList) = true ↔ e.form = .tubeList := beq_iff_eq

theorem endsAtOnce_list (hform : e.form = .tubeList) : endsAtOnce e due s =
    if s.door = .closed then some .serviceOnly
    else if e.coins.toList.all (· == 0) then some .nothingToPay else none := by
  simp only [endsAtOnce, hform]

theorem endsAtOnce_other (hform : e.form ≠ .tubeList) : endsAtOnce e due s =
    if due = 0 then some .nothingToPay else none := by
  unfold endsAtOnce
  split
  · next hlist => exact absurd hlist hform
  · rfl

theorem endsAtOnce_serviceOnly (hlist : (e.form == .tubeList) = true) (hdoor : s.door = .closed) :
    endsAtOnce e due s = some .serviceOnly := by
  rw [endsAtOnce_list (isList_iff.mp hlist), if_pos hdoor]

theorem endsAtOnce_nothing (hopen : ¬ ((e.form == .tubeList) = true ∧ s.door = .closed)) (hnothing : asksNothing e due) :
    endsAtOnce e due s = some .nothingToPay := by
  unfold asksNothing at hnothing
  by_cases hlist : (e.form == .tubeList) = true
  · rw [if_pos hlist] at hnothing
    rw [endsAtOnce_list (isList_iff.mp hlist), if_neg fun hdoor => hopen ⟨hlist, hdoor⟩, if_pos (all_zero_iff.mpr hnothing)]
  · rw [if_neg hlist] at hnothing
    rw [endsAtOnce_other (mt isList_iff.mpr hlist), if_pos hnothing]

theorem endsAtOnce_none (hopen : ¬ ((e.form == .tubeList) = true ∧ s.door = .closed)) (hasks : ¬ asksNothing e due) :
    endsAtOnce e due s = none := by
  unfold asksNothing at hasks
  by_cases hlist : (e.form == .tubeList) = true
  · rw [if_pos hlist] at hasks
    rw [endsAtOnce_list (isList_iff.mp hlist), if_neg fun hdoor => hopen ⟨hlist, hdoor⟩, if_neg (mt all_zero_iff.mp hasks)]
  · rw [if_neg hlist] at hasks
    rw [endsAtOnce_other (mt isList_iff.mpr hlist), if_neg hasks]

/-- The plan of an entry that starts; a TUBE_LIST asks the solver for nothing (R122, R131). -/
theorem planStart_eq (hready : s.ready = true) : planStart e due (setBusy true s) =
    (startLeft s.tubes e due,
      { setBusy true s with
        noticePending := s.noticePending ||| moneyIf (!(e.form == .tubeList) && (planFor s.tubes due).reserveUsed) }) := by
  have hplan : planFor (setBusy true s).tubes due = planFor s.tubes due := planFor_busy true s.tubes due
  unfold planStart startLeft
  split
  · next hform =>
    have hnone : s.noticePending ||| moneyIf false = s.noticePending := BitVec.or_zero
    simp only [hform, beq_self_eq_true, if_true, Bool.not_true, Bool.false_and, hnone]
    rfl
  · next hform =>
    have hother : (e.form == .tubeList) = false := beq_eq_false_iff_ne.mpr hform
    simp only [hother, hplan, Bool.false_eq_true, if_false, Bool.not_false, Bool.true_and]
    rw [handOverPlan_eq (by exact hready)]
    rfl

theorem nothingToEject_iff (tubes : Vector Tube 4) (e : PayEntry) (due : Nat) :
    nothingToEject (tubes.map fun x => { x with busy := true }) (startLeft tubes e due) = true ↔ ¬ canEject tubes e due := by
  unfold startLeft canEject
  by_cases hlist : (e.form == .tubeList) = true
  · simp only [if_pos hlist, nothingToEject, Option.isNone_iff_eq_none, drawShare_eq_none four_sorted, mem_four,
      forall_const, shareSpent]
    simp [imp_iff_or_not, or_comm]
  · simp only [if_neg hlist, nothingToEject, none?_iff, nothingLeft]
    simp

/-- A payout that has paid nothing of what it asks for is not paid in full (R135). -/
theorem payoutOutcome_fresh (hasks : ¬ asksNothing e due) (left : CoinsLeft) :
    payoutOutcome (freshPayout e due left) = .partialPaid := by
  refine if_neg fun hpaid : if e.form = .tubeList then Vector.replicate 4 0 = e.coins else 0 = due => hasks ?_
  unfold asksNothing
  by_cases hform : e.form = .tubeList
  · rw [if_pos hform] at hpaid
    rw [if_pos (isList_iff.mpr hform), ← hpaid]
    simp
  · rw [if_neg hform] at hpaid
    rw [if_neg (mt isList_iff.mp hform), hpaid]

end

/-! ## The start -/

/-- The queue behind a head that starts: the pending-return mark has entered it (R130). -/
def headTaken (s : State) (rest : List PayEntry) : State :=
  { s with
    payQueue := rest ++ (s.returnMark.map fun o => PayEntry.mk o .creditReturn none 0 (Vector.replicate 4 0)).toList,
    returnMark := none }

theorem admitMark_eq (s : State) (rest : List PayEntry) : admitMark { s with payQueue := rest } = headTaken s rest := by
  unfold admitMark headTaken
  cases s.returnMark with
  | none => simp
  | some o => simp [creditReturnEntry]

section
variable {s : State} {e : PayEntry} {rest : List PayEntry}

theorem exec_payoutStart (hworking : s.working = true) (hpayout : s.payout = none) (hqueue : s.payQueue = e :: rest) :
    exec .payoutStart s = .next (startPayout judgeLoad e rest s) := by
  change execPayoutStart s = _
  simp only [execPayoutStart, hqueue, hpayout, if_pos hworking]

theorem startPayout_atOnce {o : CardOutcome}
    (hends : endsAtOnce e (amountDue e (headTaken s rest)) (headTaken s rest) = some o) (judge : State → State) :
    startPayout judge e rest s = endPayoutWith judge o
      { headTaken s rest with payout := some (freshPayout e (amountDue e (headTaken s rest)) (.byValue [])) } := by
  simp only [startPayout, admitMark_eq, hends, freshPayout]

/-- The state of a payout that has its plan and marks the tubes busy. -/
def payoutPlanned (u : State) (e : PayEntry) (due : Nat) : State :=
  { u with
    payout := some (freshPayout e due (startLeft u.tubes e due)), tubes := u.tubes.map fun x => { x with busy := true },
    noticePending := u.noticePending ||| moneyIf (!(e.form == .tubeList) && (planFor u.tubes due).reserveUsed) }

theorem startPayout_planned (hready : s.ready = true)
    (hgoes : endsAtOnce e (amountDue e (headTaken s rest)) (headTaken s rest) = none) (judge : State → State) :
    let due := amountDue e (headTaken s rest)
    let v := payoutPlanned (headTaken s rest) e due
    startPayout judge e rest s =
      if nothingToEject (s.tubes.map fun x => { x with busy := true }) (startLeft s.tubes e due) then endPayout judge v
      else placeClaim judge .payout s.loadSet.payoutSize v := by
  dsimp only
  simp only [startPayout, admitMark_eq, hgoes, planStart_eq (s := headTaken s rest) hready]
  rfl

/-- R131: the end of an entry that is answered at once. -/
theorem startPayout_endsAtOnce (hm : Memory.wf s.mem = true) (hready : s.ready = true)
    (hstays : (s.without .payout).headStays) {due : Nat} (hdue : amountDue e (headTaken s rest) = due) {o : CardOutcome}
    (hends : endsAtOnce e due (headTaken s rest) = some o) :
    payoutEnded (headTaken s rest) (startPayout judgeLoad e rest s) (freshPayout e due (.byValue [])) o := by
  subst hdue
  rw [startPayout_atOnce hends]
  generalize amountDue e (headTaken s rest) = due
  have hended := endPayoutWith_ended (p := freshPayout e due (.byValue []))
    (s := { headTaken s rest with payout := some (freshPayout e due (.byValue [])) }) hm hready rfl hstays o
  exact payoutEnded_left hended

/-- R131: the end of an entry for which no coin can be ejected. -/
theorem startPayout_cannotEject (hm : Memory.wf s.mem = true) (hready : s.ready = true)
    (hstays : (s.without .payout).headStays) {due : Nat} (hdue : amountDue e (headTaken s rest) = due)
    (hopen : ¬ ((e.form == .tubeList) = true ∧ s.door = .closed)) (hasks : ¬ asksNothing e due)
    (hcannot : ¬ canEject s.tubes e due) :
    payoutEnded { headTaken s rest with
        noticePending := s.noticePending ||| moneyIf (!(e.form == .tubeList) && (planFor s.tubes due).reserveUsed) }
      (startPayout judgeLoad e rest s) (freshPayout e due (startLeft s.tubes e due)) .partialPaid := by
  subst hdue
  rw [startPayout_planned hready (endsAtOnce_none hopen hasks), if_pos ((nothingToEject_iff _ _ _).mpr hcannot),
    ← payoutOutcome_fresh hasks]
  exact payoutEnded_of_busy (endPayout_ended (s := payoutPlanned (headTaken s rest) e _) hm hready rfl hstays)

/-- R131: every other entry marks the tubes busy and places its claim. -/
theorem startPayout_claims (hready : s.ready = true) {due : Nat} (hdue : amountDue e (headTaken s rest) = due)
    (hopen : ¬ ((e.form == .tubeList) = true ∧ s.door = .closed)) (hasks : ¬ asksNothing e due)
    (hcan : canEject s.tubes e due) :
    startPayout judgeLoad e rest s = judgeLoad { payoutPlanned (headTaken s rest) e due with
      waiting := s.waiting ++ [⟨.payout, s.loadSet.payoutSize⟩] } := by
  subst hdue
  rw [startPayout_planned hready (endsAtOnce_none hopen hasks),
    if_neg fun hnothing => (nothingToEject_iff _ _ _).mp hnothing hcan]
  rfl

end

/-- Settles O40: the entry ends at once, has nothing to eject, or places its claim. -/
theorem aPayoutStartsOrEndsAtOnce : Obligations.APayoutStartsOrEndsAtOnce := by
  intro s e rest hm hworking hpayout hqueue
  have hready : s.ready = true := working_ready hworking
  have hdue := amountDue_eq e (headTaken s rest)
  exact ⟨_, exec_payoutStart hworking hpayout hqueue,
    fun hlist hdoor hstays => startPayout_endsAtOnce hm hready hstays hdue (endsAtOnce_serviceOnly hlist hdoor),
    fun hopen hnothing hstays => startPayout_endsAtOnce hm hready hstays hdue (endsAtOnce_nothing hopen hnothing),
    fun hopen hasks hcannot hstays => startPayout_cannotEject hm hready hstays hdue hopen hasks hcannot,
    fun hopen hasks hcan => startPayout_claims hready hdue hopen hasks hcan⟩

end Sys2Proof.Machine

/-! The load arbiter: what a judgement may do to its list and its grants in any state, and the grant of the head
(R142 to R150). -/

namespace Sys2Proof.Machine

/-! ## What the ends of vends and payouts leave to the arbiter -/

/-- The wait list, the grants, the load settings and the state of the PFAIL line are the same. -/
def keepsLoad (s t : State) : Prop :=
  t.waiting = s.waiting ∧ t.grants = s.grants ∧ t.loadSet = s.loadSet ∧ t.pfail = s.pfail

theorem keepsLoad.refl (s : State) : keepsLoad s s := ⟨rfl, rfl, rfl, rfl⟩

theorem keepsLoad.trans {s t u : State} (h : keepsLoad s t) (h' : keepsLoad t u) : keepsLoad s u := by
  unfold keepsLoad at *
  simp_all

theorem settleMoney_load (f : Flight) (o : CardOutcome) (s : State) : keepsLoad s (settleMoney f o s) := by
  rw [(settleMoney_eq f o s).1]
  exact .refl s

theorem recordEnd_load (i : Fin 80) (twin : Bool) (o : CardOutcome) (s : State) : keepsLoad s (recordEnd i twin o s) := by
  rw [(recordEnd_eq i twin o s).1]
  exact .refl s

theorem auditVerdict_load (f : Flight) (o : CardOutcome) (s : State) : keepsLoad s (auditVerdict f o s) := by
  rw [(auditVerdict_eq f o s).1]
  exact .refl s

theorem requestReturn_load (origin : Origin) (card : Option AttachedCard) (s : State) :
    keepsLoad s (requestReturn origin card s) := by
  unfold requestReturn completeVendAtOnce
  repeat' split
  all_goals simp [keepsLoad]

theorem closeBasket_load (s : State) : keepsLoad s (closeBasket s) := by
  unfold closeBasket
  repeat' split
  all_goals simp [keepsLoad]

theorem endItem_load (slot : Nat) (basket : Option Nat) (o : CardOutcome) (s : State) :
    keepsLoad s (endItem slot basket o s) := by
  unfold endItem
  repeat' split
  · simp [keepsLoad]
  · exact .trans (.refl s) (closeBasket_load _)
  · exact .trans (by simp [keepsLoad]) (closeBasket_load _)

theorem afterVerdict_load (f : Flight) (o : CardOutcome) (s : State) : keepsLoad s (afterVerdict f o s) := by
  unfold afterVerdict
  split
  · exact requestReturn_load _ _ s
  · exact endItem_load _ _ _ s

/-- A verdict changes the arbiter's part of the state in the give-up of the load alone (R67). -/
theorem verdict_load {s : State} {f : Flight} (hflight : s.flight = some f) (judge : State → State) (o : CardOutcome) :
    keepsLoad (giveUp judge .drive { s with rev := none }) (verdict judge o s) := by
  rw [verdict_some hflight]
  generalize giveUp judge .drive { s with rev := none } = g
  have hwritten := ((settleMoney_load f o g).trans (recordEnd_load f.spiral f.twin o _)).trans (auditVerdict_load f o _)
  exact (hwritten.trans (by simp [keepsLoad])).trans (afterVerdict_load f o _)

/-- So does the end of a payout (R135). -/
theorem endPayoutWith_load {s : State} {p : Payout} (hp : s.payout = some p) (judge : State → State) (o : CardOutcome) :
    keepsLoad (giveUp judge .payout s) (endPayoutWith judge o s) := by
  simp only [endPayoutWith, hp]
  generalize giveUp judge .payout s = g
  unfold putPayoutResult
  repeat' split
  all_goals simp [keepsLoad]

/-! ## What a judgement can do to the list and the grants (R145) -/

/-- What the arbiter may do between `s` and `t`: claims leave the list and none joins it, and what is granted anew is granted
within the budget. -/
structure Arbitrated (s t : State) : Prop where
  pfail : t.pfail = s.pfail
  loadSet : t.loadSet = s.loadSet
  waiting : t.waiting.Sublist s.waiting
  granted : t.granted ≤ max s.granted s.loadSet.budget

theorem Arbitrated.refl (s : State) : Arbitrated s s := ⟨rfl, rfl, .refl _, le_max_left _ _⟩

/-- The head `w` joins the grants, and `rest` still waits. -/
def headGranted (s : State) (w : Claim) (rest : List Claim) : State :=
  { s with waiting := rest, grants := s.grants ++ [w] }

theorem headGranted_granted (s : State) (w : Claim) (rest : List Claim) :
    (headGranted s w rest).granted = s.granted + w.size := by
  simp [State.granted, headGranted]

/-- To release grants grants no more (R147). -/
theorem granted_without_le (s : State) (c : Claimant) : (s.without c).granted ≤ s.granted :=
  (List.filter_sublist.map Claim.size).sum_le_sum fun _ _ => Nat.zero_le _

section
variable {s t u : State}

theorem Arbitrated.keeps (h : Arbitrated s t) (hkeeps : keepsLoad t u) : Arbitrated s u := by
  obtain ⟨hwaiting, hgrants, hset, hpfail⟩ := hkeeps
  have hgranted : u.granted = t.granted := by unfold State.granted; rw [hgrants]
  exact ⟨hpfail.trans h.pfail, hset.trans h.loadSet, hwaiting ▸ h.waiting, hgranted ▸ h.granted⟩

theorem Arbitrated.without (h : Arbitrated s t) (c : Claimant) : Arbitrated s (t.without c) :=
  ⟨h.pfail, h.loadSet, List.filter_sublist.trans h.waiting, (granted_without_le t c).trans h.granted⟩

theorem Arbitrated.grant (h : Arbitrated s t) {w : Claim} {rest : List Claim} (hwaiting : t.waiting = w :: rest)
    (hfits : t.granted + w.size ≤ t.loadSet.budget) : Arbitrated s (headGranted t w rest) where
  pfail := h.pfail
  loadSet := h.loadSet
  waiting := (List.sublist_cons_self w rest).trans (hwaiting ▸ h.waiting)
  granted := by
    rw [headGranted_granted]
    exact (h.loadSet ▸ hfits).trans (le_max_right _ _)

end

section
variable {judge : State → State} {s t : State} (hj : ∀ u, Arbitrated s u → Arbitrated s (judge u)) (h : Arbitrated s t)
include hj h

theorem giveUp_arbitrated (c : Claimant) : Arbitrated s (giveUp judge c t) := hj _ (h.without c)

theorem verdict_arbitrated (o : CardOutcome) : Arbitrated s (verdict judge o t) := by
  cases hflight : t.flight with
  | none => simpa only [verdict, hflight] using h
  | some f =>
    have hstopped : Arbitrated s { t with rev := none } := h.keeps (.refl t)
    exact (giveUp_arbitrated hj hstopped .drive).keeps (verdict_load hflight judge o)

theorem endPayout_arbitrated : Arbitrated s (endPayout judge t) := by
  cases hp : t.payout with
  | none => simpa only [endPayout, hp] using h
  | some p =>
    simp only [endPayout, hp]
    exact (giveUp_arbitrated hj h .payout).keeps (endPayoutWith_load hp judge _)

theorem motorStart_arbitrated : Arbitrated s (motorStart judge t) := by
  unfold motorStart
  split
  · exact h
  · split
    · exact verdict_arbitrated hj h _
    · exact h.keeps (.refl t)

theorem ejectNext_arbitrated : Arbitrated s (ejectNext judge t) := by
  have hends (q : Payout) : Arbitrated s (endPayout judge { t with payout := some q }) :=
    endPayout_arbitrated hj (h.keeps (.refl t))
  unfold ejectNext
  split
  · exact h
  · split
    · exact hends _
    · dsimp only
      split
      · exact h.keeps (.refl t)
      · exact hends _

/-- Whatever a claimant does with its grant, it places no claim. -/
theorem onGrant_arbitrated (c : Claimant) : Arbitrated s (onGrant judge c t) := by
  cases c with
  | compressor => exact h.keeps (.refl t)
  | heater => exact h.keeps (.refl t)
  | drive => exact motorStart_arbitrated hj h
  | payout => exact ejectNext_arbitrated hj h

end

theorem judgeHead_arbitrated (n : Nat) {s t : State} (h : Arbitrated s t) : Arbitrated s (judgeHead n t) :=
  judgeHead_keeps (fun _ hj _ head _ h hwaiting _ hfits => onGrant_arbitrated hj (h.grant hwaiting hfits) head.claimant) n t h

theorem judgeLoad_arbitrated (s : State) : Arbitrated s (judgeLoad s) := judgeHead_arbitrated _ (.refl s)

/-- What the head does with its grant, within the judgement that granted it. -/
theorem onGrant_headGranted (n : Nat) (s : State) (w : Claim) (rest : List Claim) :
    Arbitrated (headGranted s w rest) (onGrant (judgeHead n) w.claimant (headGranted s w rest)) :=
  onGrant_arbitrated (fun _ => judgeHead_arbitrated n) (.refl _) w.claimant

/-! ## Where a judgement stops (R145, R150) -/

theorem headStays_of_empty {s : State} (h : s.waiting = []) : s.headStays := by simp [State.headStays, h]

theorem judgeHead_of_headStays {s : State} (h : s.headStays) : ∀ n, judgeHead n s = s
  | 0 => rfl
  | n + 1 => by
    cases hwaiting : s.waiting with
    | nil => simp only [judgeHead, hwaiting]
    | cons w rest =>
      have hfull : s.loadSet.budget < s.granted + w.size := h w (by rw [hwaiting]; rfl)
      simp only [judgeHead, hwaiting]
      exact if_neg fun hfits => absurd hfits.2 (Nat.not_le.mpr hfull)

/-- From the PFAIL warning on nothing is granted (R150). -/
theorem judgeLoad_of_pfail {s : State} (h : s.pfail ≠ .clear) : judgeLoad s = s := by
  cases hwaiting : s.waiting with
  | nil => exact judgeLoad_of_empty hwaiting
  | cons w rest =>
    simp only [judgeLoad, hwaiting, List.length_cons, judgeHead]
    exact if_neg fun hfits => h hfits.1

/-- Each grant takes a claim off the list, so with a round for each claim the judgement stops at a head that does not fit. -/
theorem judgeHead_headStays : ∀ (n : Nat) (s : State), s.waiting.length ≤ n → s.pfail = .clear →
    (judgeHead n s).headStays
  | 0, s, hlength, _ => headStays_of_empty (List.length_eq_zero_iff.mp (Nat.le_zero.mp hlength))
  | n + 1, s, hlength, hpfail => by
    cases hwaiting : s.waiting with
    | nil =>
      have hempty : s.headStays := headStays_of_empty hwaiting
      rwa [judgeHead_of_headStays hempty]
    | cons w rest =>
      simp only [judgeHead, hwaiting]
      split
      · have hacted := onGrant_headGranted n s w rest
        have hshorter : rest.length ≤ n := by
          rw [hwaiting, List.length_cons] at hlength
          omega
        exact judgeHead_headStays n _ (hacted.waiting.length_le.trans hshorter) (hacted.pfail.trans hpfail)
      · rename_i hfull
        intro v hv
        rw [hwaiting, List.head?_cons, Option.mem_some_iff] at hv
        subst hv
        exact Nat.not_le.mp fun hfits => hfull ⟨hpfail, hfits⟩

theorem judgeLoad_headStays {s : State} (hpfail : s.pfail = .clear) : (judgeLoad s).headStays :=
  judgeHead_headStays _ s le_rfl hpfail

/-! ## The grant of the head (R145) -/

section
variable {s : State} {w : Claim} {rest : List Claim}

theorem judgeLoad_of_fits (hwaiting : s.waiting = w :: rest) (hpfail : s.pfail = .clear)
    (hfits : s.granted + w.size ≤ s.loadSet.budget) :
    judgeLoad s = judgeHead rest.length (onGrant (judgeHead rest.length) w.claimant (headGranted s w rest)) := by
  simp only [judgeLoad, hwaiting, List.length_cons, judgeHead]
  exact if_pos ⟨hpfail, hfits⟩

/-- Where the claimant leaves the rest of the list waiting, its new head is judged as any other. -/
theorem judgeLoad_of_acted {c : Claimant} {t : State} (hwaiting : s.waiting = w :: rest) (hpfail : s.pfail = .clear)
    (hfits : s.granted + w.size ≤ s.loadSet.budget) (hclaimant : w.claimant = c)
    (hacts : onGrant (judgeHead rest.length) c (headGranted s w rest) = t) (hrest : t.waiting = rest) :
    judgeLoad s = judgeLoad t := by
  rw [judgeLoad_of_fits hwaiting hpfail hfits, hclaimant, hacts, judgeLoad, hrest]

theorem judgeLoad_sublist_rest (hwaiting : s.waiting = w :: rest) (hpfail : s.pfail = .clear)
    (hfits : s.granted + w.size ≤ s.loadSet.budget) : (judgeLoad s).waiting.Sublist rest := by
  rw [judgeLoad_of_fits hwaiting hpfail hfits]
  exact (judgeHead_arbitrated _ (onGrant_headGranted _ s w rest)).waiting

end

/-! ## A payout that ends at its grant (R132, R135) -/

section
variable {s t : State} {p : Payout}

theorem payoutEnded_headStays {o : CardOutcome} (h : payoutEnded s t p o) (hstays : (s.without .payout).headStays) :
    t.headStays := by
  rw [h.1]
  exact hstays

/-- An end that lets no other claim in is the same within a judgement as outside it. -/
theorem endPayout_judgeHead_ended (n : Nat) (hm : Memory.wf s.mem = true) (hready : s.ready = true) (hp : s.payout = some p)
    (hstays : (s.without .payout).headStays) : payoutEnded s (endPayout (judgeHead n) s) p (payoutOutcome p) := by
  have hgiven : giveUp (judgeHead n) .payout s = giveUp judgeLoad .payout s :=
    (judgeHead_of_headStays hstays n).trans (judgeLoad_of_full hstays).symm
  have hsame : endPayout (judgeHead n) s = endPayout judgeLoad s := by simp only [endPayout, endPayoutWith, hgiven]
  rw [hsame]
  exact endPayout_ended hm hready hp hstays

/-- A payout granted without a coin that it may eject ends at once. -/
theorem ejectNext_judgeHead_ended (n : Nat) (hm : Memory.wf s.mem = true) (hready : s.ready = true) (hp : s.payout = some p)
    (hcannot : ∀ k left, drawn s.tubes p.left left k → ¬ mayEject s p s.tubes[k].value)
    (hstays : (s.without .payout).headStays) : payoutEnded s (ejectNext (judgeHead n) s) p (payoutOutcome p) := by
  rw [ejectNext_ends hp hcannot]
  have hended := endPayout_judgeHead_ended
    (s := { s with payout := some { p with left := (nextCoin s.tubes p.left).2, air := none } }) n hm hready rfl hstays
  exact payoutEnded_left hended

end

/-- Settles O43: the arbiter grants from the head of its list within the budget, and the claimant acts on its grant. -/
theorem aJudgementGrantsFromTheHead : Obligations.AJudgementGrantsFromTheHead := by
  intro s
  obtain ⟨_, hset, hsublist, hgranted⟩ := judgeLoad_arbitrated s
  refine ⟨judgeLoad_headStays, fun hstop => hstop.elim judgeLoad_of_full judgeLoad_of_pfail, hset, hgranted, hsublist,
    fun w rest hwaiting hpfail hfits => ?_⟩
  refine ⟨judgeLoad_sublist_rest hwaiting hpfail hfits, fun hc => ?compressor, fun hc => ?heater,
    fun f hc hflight hallowed => ?drive, fun p hc hp hm => ⟨fun k left hdrawn hmay => ?ejects,
      fun hcannot hstays hready => ?ends⟩⟩
  case compressor => exact judgeLoad_of_acted hwaiting hpfail hfits hc rfl rfl
  case heater => exact judgeLoad_of_acted hwaiting hpfail hfits hc rfl rfl
  case drive =>
    exact judgeLoad_of_acted hwaiting hpfail hfits hc
      (motorStart_allowed (s := headGranted s w rest) hflight hallowed _) rfl
  case ejects =>
    exact judgeLoad_of_acted hwaiting hpfail hfits hc
      (ejectNext_ejects (s := headGranted s w rest) hp hdrawn hmay _) rfl
  case ends =>
    have hended := ejectNext_judgeHead_ended (s := headGranted s w rest) rest.length hm hready hp hcannot hstays
    rw [judgeLoad_of_fits hwaiting hpfail hfits, hc]
    simp only [onGrant]
    rwa [judgeHead_of_headStays (payoutEnded_headStays hended hstays)]

end Sys2Proof.Machine

/-! The machines that the arbiter serves: what the invariants of the relays and of the motors speak of, what a judgement of the
load can move in it, and what each claimant does with its grant (R81, R94, R143 to R147, R157, R162). -/

namespace Sys2Proof.Machine

/-! ## The gear -/

/-- The claimants that wait, the drive's grant, the conditions under which a flight stands, and the stages of the machines. -/
structure Gear where
  waiting : List Claimant
  driveGranted : Bool
  ready : Bool
  pfail : Pfail
  door : DoorState
  flight : Option (Stage × Bool)
  energised : Bool
  paying : Bool
  comp : CompressorState
  restTimed : Bool
  defrost : DefrostState

def State.gear (s : State) : Gear :=
  { waiting := s.waiting.map Claim.claimant, driveGranted := s.hasGrant .drive, ready := s.ready, pfail := s.pfail,
    door := s.door, flight := s.flight.map fun f => (f.stage, f.isTest), energised := s.rev.isSome,
    paying := s.payout.isSome, comp := s.comp.state, restTimed := s.comp.minOff.isSome, defrost := s.defrost.state }

def Gear.defrosting (g : Gear) : Prop := g.defrost ≠ .notDue ∧ g.defrost ≠ .due

/-- R143, R144: the stage in which a claimant waits. -/
def Gear.claims (g : Gear) : Claimant → Prop
  | .compressor => g.comp = .claiming
  | .heater => g.defrost = .claimingHeat
  | .drive => g.flight.isSome
  | .payout => g.paying

/-- R143, R157, R158, R162, R170: `State.coolingOk` in the terms of the gear. -/
structure Gear.coolingSafe (g : Gear) : Prop where
  once : g.waiting.Nodup
  stage : ∀ c ∈ g.waiting, g.claims c
  atRest : g.defrosting → g.comp = .offResting ∧ g.restTimed = false
  restTimed : g.restTimed → g.comp = .offResting
  restart : g.ready = false → g.comp = .offResting ∧ ¬ g.defrosting

/-- R81, R94, R95: `State.driveOk` in the terms of the gear. -/
def Gear.driveSafe (g : Gear) : Prop :=
  (∀ f ∈ g.flight, f.1 ≠ .claiming → g.driveGranted = true) ∧
  (g.energised = true → g.flight.isSome ∧ g.driveGranted = true ∧ g.ready = true ∧ g.pfail = .clear) ∧
  (g.ready = true ∧ g.pfail = .clear → ∀ f ∈ g.flight, f.2 = (g.door == .opened)) ∧
  (g.ready = false → g.flight = none)

/-- The two invariants of the gear, each kept without the other. -/
inductive Guard where
  | relays | motors

def Gear.safe (g : Gear) : Guard → Prop
  | .relays => g.coolingSafe
  | .motors => g.driveSafe

theorem Defrost.inProgress_iff (d : Defrost) : d.inProgress = true ↔ d.state ≠ .notDue ∧ d.state ≠ .due := by
  unfold Defrost.inProgress
  cases d.state <;> simp

theorem relays_safe_iff {s : State} : s.gear.safe .relays ↔ s.coolingOk := by
  have hprogress : s.defrost.inProgress = true ↔ s.gear.defrosting := s.defrost.inProgress_iff
  have hflight : s.gear.claims .drive ↔ s.flight.isSome = true := by simp [Gear.claims, State.gear]
  have htimer : s.gear.restTimed = false ↔ s.comp.minOff = none := by simp [State.gear]
  simp only [State.coolingOk, State.claimsOk, State.waitingFor, ← Bool.not_eq_true s.defrost.inProgress, hprogress,
    ← hflight, ← htimer]
  refine ⟨fun h => ⟨⟨h.once, h.stage .compressor, h.stage .heater, h.stage .drive, h.stage .payout⟩, h.atRest, h.restTimed,
    h.restart⟩, fun ⟨⟨once, compressor, heater, drive, payout⟩, atRest, restTimed, restart⟩ =>
      ⟨once, fun c hw => ?_, atRest, restTimed, restart⟩⟩
  cases c with
  | compressor => exact compressor hw
  | heater => exact heater hw
  | drive => exact drive hw
  | payout => exact payout hw

theorem motors_safe_iff {s : State} : s.gear.safe .motors ↔ s.driveOk := by
  simp [Gear.safe, Gear.driveSafe, State.driveOk, State.gear, working_iff]

/-! ## Steps of the gear -/

/-- R147: a claim withdrawn and a grant released. -/
def Gear.without (g : Gear) (c : Claimant) : Gear :=
  { g with waiting := g.waiting.filter (· != c), driveGranted := g.driveGranted && c != .drive }

/-- R145: the head `c` of the list is granted. -/
def Gear.granted (g : Gear) (c : Claimant) : Gear :=
  { g with waiting := g.waiting.tail, driveGranted := g.driveGranted || c == .drive }

theorem without_gear (s : State) (c : Claimant) : (s.without c).gear = s.gear.without c := by
  have hdrive : (s.without c).hasGrant .drive = (s.hasGrant .drive && c != .drive) := by
    rw [Bool.eq_iff_iff]
    cases c <;> simp [State.hasGrant, State.without] <;> grind
  simp only [State.gear, Gear.without, hdrive]
  simp only [State.without, List.filter_map]
  rfl

theorem headGranted_gear {s : State} {w : Claim} {rest : List Claim} (hwaiting : s.waiting = w :: rest) :
    (headGranted s w rest).gear = s.gear.granted w.claimant := by
  simp [State.gear, Gear.granted, headGranted, hwaiting, State.hasGrant]

theorem giveUp_eq (judge : State → State) (c : Claimant) (s : State) : giveUp judge c s = judge (s.without c) := rfl

theorem Gear.notMem_without (g : Gear) (c : Claimant) : c ∉ (g.without c).waiting := by simp [Gear.without]

theorem Gear.mem_of_without {g : Gear} {c d : Claimant} (h : d ∈ (g.without c).waiting) : d ∈ g.waiting :=
  List.mem_of_mem_filter h

section
variable {g : Gear} {l : Guard} {c : Claimant}

/-- To give up a load keeps what is safe, but for the drive's load in its flight. -/
theorem Gear.safe.without (h : g.safe l) (hc : l = .motors → c ≠ .drive) : (g.without c).safe l := by
  cases l with
  | relays =>
    exact { h with
      once := List.Nodup.filter _ h.once
      stage := fun d hw => h.stage d (mem_of_without hw) }
  | motors =>
    have hkeeps : (g.without c).driveGranted = g.driveGranted := by simp [Gear.without, hc rfl]
    obtain ⟨hgranted, henergised, hdoor⟩ := h
    exact ⟨by rw [hkeeps]; exact hgranted, by rw [hkeeps]; exact henergised, hdoor⟩

theorem Gear.safe.granted (h : g.safe l) : (g.granted c).safe l := by
  cases l with
  | relays =>
    exact { h with
      once := h.once.sublist (List.tail_sublist _)
      stage := fun d hw => h.stage d (List.mem_of_mem_tail hw) }
  | motors =>
    obtain ⟨hgranted, henergised, hdoor⟩ := h
    refine ⟨fun f hf hstage => ?_, fun he => ?_, hdoor⟩
    · simp [Gear.granted, hgranted f hf hstage]
    · obtain ⟨hflight, hheld, hworks⟩ := henergised he
      exact ⟨hflight, by simp [Gear.granted, hheld], hworks⟩

/-- What a machine does while its claim does not wait leaves the other claims in their stages. -/
theorem Gear.coolingSafe.stages {t : Gear} (h : g.coolingSafe) (c : Claimant) (hw : t.waiting = g.waiting)
    (hothers : ∀ d, d ≠ c → g.claims d → t.claims d) (hstage : c ∈ g.waiting → t.claims c) :
    ∀ d ∈ t.waiting, t.claims d := by
  intro d hd
  rw [hw] at hd
  by_cases hdc : d = c
  · exact hdc ▸ hstage (hdc ▸ hd)
  · exact hothers d hdc (h.stage d hd)

/-- A flight that has ended, its motors stopped and its load given up, leaves the gear safe. -/
theorem Gear.safe.landed (h : l = .relays → g.safe l) (hdrive : .drive ∉ g.waiting) (hstopped : g.energised = false) :
    Gear.safe { g with flight := none } l := by
  cases l with
  | relays =>
    have hsafe : g.coolingSafe := h rfl
    exact { hsafe with stage := hsafe.stages .drive rfl (by rintro ⟨⟩ <;> simp [Gear.claims]) fun hw => absurd hw hdrive }
  | motors => exact ⟨nofun, fun he => absurd (hstopped.symm.trans he) (by decide), fun _ => nofun, fun _ => rfl⟩

/-- A payout that has ended, its load given up, leaves the gear safe. -/
theorem Gear.safe.paid (h : g.safe l) (hpayout : .payout ∉ g.waiting) : Gear.safe { g with paying := false } l := by
  cases l with
  | relays =>
    exact { h with stage := h.stages .payout rfl (by rintro ⟨⟩ <;> simp [Gear.claims]) fun hw => absurd hw hpayout }
  | motors => exact h

/-- A claim joins the tail of the list, its claimant in the stage in which it waits (R144). -/
theorem Gear.safe.placed (h : g.safe l) (hstage : l = .relays → c ∉ g.waiting ∧ g.claims c) :
    Gear.safe { g with waiting := g.waiting ++ [c] } l := by
  cases l with
  | relays =>
    obtain ⟨hnone, hclaims⟩ := hstage rfl
    refine { h with once := ?_, stage := fun d hw => ?_ }
    · exact List.nodup_append.mpr ⟨h.once, List.nodup_singleton c, fun d hd e he => by
        rw [List.mem_singleton.mp he]
        exact fun hdc => hnone (hdc ▸ hd)⟩
    · rcases List.mem_append.mp hw with hw | hw
      · exact h.stage d hw
      · exact List.mem_singleton.mp hw ▸ hclaims
  | motors => exact h

/-- A compressor that does not rest has neither a defrost nor a minimum off timer beside it, and the part is ready. -/
theorem Gear.coolingSafe.awake (h : g.coolingSafe) (hcomp : g.comp ≠ .offResting) :
    ¬ g.defrosting ∧ g.restTimed = false ∧ g.ready = true :=
  ⟨fun hd => hcomp (h.atRest hd).1, Bool.eq_false_iff.mpr fun hr => hcomp (h.restTimed hr),
    Bool.not_eq_false _ ▸ fun hr => hcomp (h.restart hr).1⟩

/-- Beside a defrost the compressor rests without a timer, and the part is ready. -/
theorem Gear.coolingSafe.asleep (h : g.coolingSafe) (hd : g.defrosting) :
    g.comp = .offResting ∧ g.restTimed = false ∧ g.ready = true :=
  ⟨(h.atRest hd).1, (h.atRest hd).2, Bool.not_eq_false _ ▸ fun hr => (h.restart hr).2 hd⟩

/-- The compressor moves between its other states outside a defrost (R157). -/
theorem Gear.safe.comp {state : CompressorState} (h : g.safe l)
    (hfree : l = .relays → ¬ g.defrosting ∧ g.restTimed = false ∧ g.ready = true)
    (hstage : l = .relays → .compressor ∈ g.waiting → state = .claiming) : Gear.safe { g with comp := state } l := by
  cases l with
  | relays =>
    obtain ⟨hdefrost, htimer, hready⟩ := hfree rfl
    exact { h with
      stage := h.stages .compressor rfl (by rintro ⟨⟩ <;> simp [Gear.claims]) (hstage rfl)
      atRest := fun hd => absurd hd hdefrost
      restTimed := fun hr => absurd (htimer.symm.trans hr) (by decide)
      restart := fun hr => absurd (hready.symm.trans hr) (by decide) }
  | motors => exact h

/-- The compressor comes to rest; it rests on a timer outside a defrost alone (R157, R158). -/
theorem Gear.safe.rested {timed : Bool} (h : g.safe l) (hnone : l = .relays → .compressor ∉ g.waiting)
    (htimed : l = .relays → timed = true → ¬ g.defrosting) :
    Gear.safe { g with comp := .offResting, restTimed := timed } l := by
  cases l with
  | relays =>
    exact { h with
      stage := h.stages .compressor rfl (by rintro ⟨⟩ <;> simp [Gear.claims]) fun hw => absurd hw (hnone rfl)
      atRest := fun hd => ⟨rfl, Bool.eq_false_iff.mpr fun ht => htimed rfl ht hd⟩
      restTimed := fun _ => rfl
      restart := fun hr => ⟨rfl, (h.restart hr).2⟩ }
  | motors => exact h

/-- A defrost beside a compressor at rest goes to another stage (R162 to R165). -/
theorem Gear.safe.defrosted {state : DefrostState} (h : g.safe l)
    (hrest : l = .relays → g.comp = .offResting ∧ g.restTimed = false ∧ g.ready = true)
    (hstage : l = .relays → .heater ∈ g.waiting → state = .claimingHeat) : Gear.safe { g with defrost := state } l := by
  cases l with
  | relays =>
    obtain ⟨hcomp, htimer, hready⟩ := hrest rfl
    exact { h with
      stage := h.stages .heater rfl (by rintro ⟨⟩ <;> simp [Gear.claims]) (hstage rfl)
      atRest := fun _ => ⟨hcomp, htimer⟩
      restart := fun hr => absurd (hready.symm.trans hr) (by decide) }
  | motors => exact h

/-- No defrost is in progress any more, or it only falls due (R161, R165). -/
theorem Gear.safe.undefrosted {state : DefrostState} (h : g.safe l) (hstate : state = .notDue ∨ state = .due)
    (hnone : g.defrost ≠ .claimingHeat) : Gear.safe { g with defrost := state } l := by
  cases l with
  | relays =>
    have hidle : ¬ Gear.defrosting { g with defrost := state } := fun ⟨hnotDue, hdue⟩ => hstate.elim hnotDue hdue
    exact { h with
      stage := h.stages .heater rfl (by rintro ⟨⟩ <;> simp [Gear.claims]) fun hw => absurd (h.stage .heater hw) hnone
      atRest := fun hd => absurd hd hidle
      restart := fun hr => ⟨(h.restart hr).1, hidle⟩ }
  | motors => exact h

/-- From the PFAIL warning on the motors stand (R94, R180). -/
theorem Gear.safe.warned {p : Pfail} {e : Bool} (h : g.safe l) (hp : p ≠ .clear) (hstill : l = .motors → e = false) :
    Gear.safe { g with energised := e, pfail := p } l := by
  cases l with
  | relays => exact { h with }
  | motors =>
    obtain ⟨hgranted, _, _, hrestart⟩ := h
    exact ⟨hgranted, fun he => absurd ((hstill rfl).symm.trans he) (by decide), fun hw => absurd hw.2 hp, hrestart⟩

end

/-! ## What a judgement can move -/

/-- Claims leave the list, and a machine moves only where its claim waits. -/
structure Gear.Moved (g t : Gear) : Prop where
  waiting : t.waiting.Sublist g.waiting
  line : t.ready = g.ready ∧ t.pfail = g.pfail ∧ t.door = g.door
  compressor : .compressor ∉ g.waiting → t.comp = g.comp ∧ t.restTimed = g.restTimed
  heater : .heater ∉ g.waiting → t.defrost = g.defrost
  drive : .drive ∉ g.waiting → t.flight = g.flight ∧ t.energised = g.energised ∧ t.driveGranted = g.driveGranted
  payout : .payout ∉ g.waiting → t.paying = g.paying

section
variable {g t : Gear} {c : Claimant}

theorem Gear.Moved.refl (g : Gear) : g.Moved g :=
  ⟨.refl _, ⟨rfl, rfl, rfl⟩, fun _ => ⟨rfl, rfl⟩, fun _ => rfl, fun _ => ⟨rfl, rfl, rfl⟩, fun _ => rfl⟩

theorem Gear.Moved.notMem (h : g.Moved t) (hc : c ∉ g.waiting) : c ∉ t.waiting := fun hw => hc (h.waiting.mem hw)

theorem Gear.Moved.without (h : g.Moved t) (hc : .drive ∉ g.waiting → c ≠ .drive) : g.Moved (t.without c) where
  waiting := List.filter_sublist.trans h.waiting
  line := h.line
  compressor := h.compressor
  heater := h.heater
  drive := fun hd => by
    obtain ⟨hflight, henergised, hgranted⟩ := h.drive hd
    exact ⟨hflight, henergised, by simp [Gear.without, hc hd, hgranted]⟩
  payout := h.payout

theorem Gear.Moved.granted (h : g.Moved t) (hc : .drive ∉ g.waiting → c ≠ .drive) : g.Moved (t.granted c) where
  waiting := (List.tail_sublist _).trans h.waiting
  line := h.line
  compressor := h.compressor
  heater := h.heater
  drive := fun hd => by
    obtain ⟨hflight, henergised, hgranted⟩ := h.drive hd
    exact ⟨hflight, henergised, by simp [Gear.granted, hc hd, hgranted]⟩
  payout := h.payout

/-- The drive moves as its claim has waited. -/
theorem Gear.Moved.driven (h : g.Moved t) (hc : .drive ∈ g.waiting) {f : Option (Stage × Bool)} {e : Bool} :
    g.Moved { t with flight := f, energised := e } := { h with drive := fun hd => absurd hc hd }

end

/-! ## Operations that move nothing -/

theorem State.gear_def (s : State) : s.gear =
    { waiting := s.waiting.map Claim.claimant, driveGranted := s.grants.any fun g => g.claimant == .drive, ready := s.ready,
      pfail := s.pfail, door := s.door, flight := s.flight.map fun f => (f.stage, f.isTest), energised := s.rev.isSome,
      paying := s.payout.isSome, comp := s.comp.state, restTimed := s.comp.minOff.isSome, defrost := s.defrost.state } := rfl

theorem raise_gear (c : NoticeClass) (s : State) : (raise c s).gear = s.gear := by simp [State.gear_def]

theorem complete_gear (slot : Nat) (o : CardOutcome) (s : State) : (complete slot o s).gear = s.gear := by
  simp [State.gear_def]

theorem recomputeChange_gear (s : State) : (recomputeChange s).gear = s.gear := by simp [State.gear_def]

theorem requestSave_gear (s : State) : (requestSave s).gear = s.gear := by simp [State.gear_def]

theorem completeOk_gear (slot : Nat) (s : State) : (completeOk slot s).gear = s.gear := by simp [State.gear_def]

theorem putCredit_gear (c n : Nat) (s : State) : (putCredit c n s).gear = s.gear := by simp [State.gear_def]

theorem putSpiral_gear (i : Fin 80) (r : Spiral) (s : State) : (putSpiral i r s).gear = s.gear := by simp [State.gear_def]

theorem putZone_gear (z : ZoneState) (e : Nat) (s : State) : (putZone z e s).gear = s.gear := by simp [State.gear_def]

theorem setInFlight_gear (b : Bool) (selected : List (Fin 80)) (s : State) : (setInFlight b selected s).gear = s.gear := by
  obtain ⟨v, n, h⟩ := setInFlight_frame b selected s
  rw [h]
  rfl

theorem requestReturn_gear (origin : Origin) (card : Option AttachedCard) (s : State) :
    (requestReturn origin card s).gear = s.gear := by
  unfold requestReturn completeVendAtOnce
  repeat' split
  all_goals simp [State.gear_def]

theorem closeBasket_gear (s : State) : (closeBasket s).gear = s.gear := by
  unfold closeBasket
  repeat' split
  all_goals simp [State.gear_def]

theorem endItem_gear (slot : Nat) (basket : Option Nat) (o : CardOutcome) (s : State) :
    (endItem slot basket o s).gear = s.gear := by
  unfold endItem
  repeat' split
  · exact complete_gear _ _ _
  · exact closeBasket_gear _
  · exact (closeBasket_gear _).trans (complete_gear _ _ _)

theorem afterVerdict_gear (f : Flight) (o : CardOutcome) (s : State) : (afterVerdict f o s).gear = s.gear := by
  unfold afterVerdict
  split
  · exact requestReturn_gear _ _ _
  · exact endItem_gear _ _ _ _

theorem settleMoney_gear (f : Flight) (o : CardOutcome) (s : State) : (settleMoney f o s).gear = s.gear := by
  rw [(settleMoney_eq f o s).1]
  rfl

theorem recordEnd_gear (i : Fin 80) (twin : Bool) (o : CardOutcome) (s : State) : (recordEnd i twin o s).gear = s.gear := by
  rw [(recordEnd_eq i twin o s).1]
  rfl

theorem auditVerdict_gear (f : Flight) (o : CardOutcome) (s : State) : (auditVerdict f o s).gear = s.gear := by
  rw [(auditVerdict_eq f o s).1]
  rfl

/-! ## The ends of flights and payouts -/

section
variable {s : State} {f : Flight} {p : Payout} {judge : State → State}

/-- A state whose flight is taken away. -/
theorem landed_gear {u v : State} (h : v.gear = u.gear) :
    State.gear { v with flight := none } = { u.gear with flight := none } := by
  rw [← h]
  rfl

/-- A verdict moves the gear in the give-up of the load, and ends the flight (R67). -/
theorem verdict_gear (hflight : s.flight = some f) (judge : State → State) (o : CardOutcome) :
    (verdict judge o s).gear = { (judge (State.without { s with rev := none } .drive)).gear with flight := none } := by
  rw [verdict_some hflight, giveUp_eq, afterVerdict_gear]
  generalize judge (State.without { s with rev := none } .drive) = u
  exact landed_gear ((auditVerdict_gear f o _).trans ((recordEnd_gear f.spiral f.twin o _).trans (settleMoney_gear f o u)))

/-- So does the end of a test (R79). -/
theorem testEnd_gear (hflight : s.flight = some f) (judge : State → State) (o : CardOutcome) (time : Nat) :
    (testEnd judge o time s).gear = { (judge (State.without { s with rev := none } .drive)).gear with flight := none } := by
  rw [testEnd_some hflight, giveUp_eq, complete_gear]
  generalize judge (State.without { s with rev := none } .drive) = u
  exact landed_gear (recordEnd_gear f.spiral f.twin o u)

/-- The end of a payout moves the gear in the give-up of the load, and ends the payout (R135). -/
theorem endPayoutWith_gear (hp : s.payout = some p) (judge : State → State) (o : CardOutcome) :
    (endPayoutWith judge o s).gear = { (judge (s.without .payout)).gear with paying := false } := by
  simp only [endPayoutWith, hp, giveUp_eq]
  generalize judge (s.without .payout) = u
  unfold putPayoutResult
  repeat' split
  all_goals simp [State.gear_def]

/-- The payout in flight goes on with other coins. -/
theorem payout_gear (hp : s.payout.isSome = true) (q : Payout) : State.gear { s with payout := some q } = s.gear := by
  simp [State.gear_def, hp]

theorem energise_gear (f : Flight) (s : State) : ∃ stage,
    (energise f s).gear = { s.gear with flight := some (stage, f.isTest), energised := true } :=
  ⟨_, rfl⟩

/-! ## A judgement moves what waits -/

section
variable {g : Gear} (hj : ∀ t : State, g.Moved t.gear → g.Moved (judge t).gear) (h : g.Moved s.gear)
include hj h

theorem verdict_moved (hdrive : .drive ∈ g.waiting) (o : CardOutcome) : g.Moved (verdict judge o s).gear := by
  cases hflight : s.flight with
  | none => simpa only [verdict, hflight] using h
  | some f =>
    rw [verdict_gear hflight]
    refine Gear.Moved.driven (hj _ ?_) hdrive
    rw [without_gear]
    exact Gear.Moved.without (h.driven hdrive) fun hd => absurd hdrive hd

theorem motorStart_moved (hdrive : .drive ∈ g.waiting) : g.Moved (motorStart judge s).gear := by
  unfold motorStart
  split
  · exact h
  · split
    · exact verdict_moved hj h hdrive _
    · exact h.driven hdrive

theorem endPayout_moved (hpayout : .payout ∈ g.waiting) : g.Moved (endPayout judge s).gear := by
  cases hp : s.payout with
  | none => simpa only [endPayout, hp] using h
  | some p =>
    simp only [endPayout, hp, endPayoutWith_gear hp]
    refine { hj _ ?_ with payout := fun hw => absurd hpayout hw }
    rw [without_gear]
    exact h.without fun _ => nofun

theorem ejectNext_moved (hpayout : .payout ∈ g.waiting) : g.Moved (ejectNext judge s).gear := by
  cases hp : s.payout with
  | none => simpa only [ejectNext, hp] using h
  | some p =>
    have hends (q : Payout) : g.Moved (endPayout judge { s with payout := some q }).gear :=
      endPayout_moved hj (by rwa [payout_gear (s := s) (by simp [hp])]) hpayout
    simp only [ejectNext, hp]
    split
    · exact hends _
    · split
      · rw [ejectFrom]
        exact (payout_gear (s := s) (by simp [hp]) _).symm ▸ h
      · exact hends _

theorem onGrant_moved {c : Claimant} (hc : c ∈ g.waiting) : g.Moved (onGrant judge c s).gear := by
  cases c with
  | compressor => exact { h with compressor := fun hw => absurd hc hw }
  | heater => exact { h with heater := fun hw => absurd hc hw }
  | drive => exact motorStart_moved hj h hc
  | payout => exact ejectNext_moved hj h hc

end

theorem judgeHead_moved (n : Nat) (s : State) : s.gear.Moved (judgeHead n s).gear := by
  refine judgeHead_keeps (P := fun t => s.gear.Moved t.gear) (fun judge hj t w rest h hwaiting _ _ => ?_) n s (.refl _)
  have hmem : w.claimant ∈ s.gear.waiting := h.waiting.mem (by simp [State.gear, hwaiting])
  refine onGrant_moved hj ?_ hmem
  rw [← headGranted, headGranted_gear hwaiting]
  exact h.granted fun hd e => hd (e ▸ hmem)

theorem judgeLoad_moved (s : State) : s.gear.Moved (judgeLoad s).gear := judgeHead_moved _ s

end
/-! ## A judgement keeps the gear safe -/

/-- A judgement of the load moves what waits, and keeps the gear safe. -/
structure KeepsGear (l : Guard) (judge : State → State) : Prop where
  moved : ∀ s : State, s.gear.Moved (judge s).gear
  safe : ∀ s : State, s.gear.safe l → (judge s).gear.safe l

section
variable {s : State} {l : Guard} {judge : State → State} (hj : KeepsGear l judge)
include hj

/-- However a flight ends, its load is given up and its motors stand (R67, R79). -/
theorem landed_safe (h : l = .relays → s.gear.safe l) :
    Gear.safe { (judge (State.without { s with rev := none } .drive)).gear with flight := none } l := by
  have hmoved := hj.moved (State.without { s with rev := none } .drive)
  rw [without_gear] at hmoved
  have hdrive : .drive ∉ (Gear.without (State.gear { s with rev := none }) .drive).waiting := Gear.notMem_without _ _
  refine Gear.safe.landed (fun hl => hj.safe _ ?_) (hmoved.notMem hdrive) (hmoved.drive hdrive).2.1
  subst hl
  have hsafe : s.gear.coolingSafe := h rfl
  rw [without_gear]
  exact Gear.safe.without (l := .relays) { hsafe with } nofun

theorem verdict_landed {f : Flight} (hflight : s.flight = some f) (h : l = .relays → s.gear.safe l) (o : CardOutcome) :
    (verdict judge o s).gear.safe l := by
  rw [verdict_gear hflight]
  exact landed_safe hj h

theorem testEnd_landed {f : Flight} (hflight : s.flight = some f) (h : l = .relays → s.gear.safe l) (o : CardOutcome)
    (time : Nat) : (testEnd judge o time s).gear.safe l := by
  rw [testEnd_gear hflight]
  exact landed_safe hj h

theorem verdict_safe (h : s.gear.safe l) (o : CardOutcome) : (verdict judge o s).gear.safe l := by
  cases hflight : s.flight with
  | none => simpa only [verdict, hflight] using h
  | some f => exact verdict_landed hj hflight (fun _ => h) o

theorem testEnd_safe (h : s.gear.safe l) (o : CardOutcome) (time : Nat) : (testEnd judge o time s).gear.safe l := by
  cases hflight : s.flight with
  | none => simpa only [testEnd, hflight] using h
  | some f => exact testEnd_landed hj hflight (fun _ => h) o time

/-- The motors start under the drive's grant, while the part is at work (R63, R81). -/
theorem motorStart_safe (h : s.gear.safe l) (hgranted : l = .motors → s.gear.driveGranted = true) (hpfail : s.pfail = .clear) :
    (motorStart judge s).gear.safe l := by
  cases hflight : s.flight with
  | none => simpa only [motorStart, hflight] using h
  | some f =>
    simp only [motorStart, hflight]
    split
    · exact verdict_safe hj h _
    · obtain ⟨stage, henergised⟩ := energise_gear f s
      rw [henergised]
      cases l with
      | relays =>
        exact { h with stage := h.stages .drive rfl (by rintro ⟨⟩ <;> simp [Gear.claims]) fun _ => rfl }
      | motors =>
        obtain ⟨-, -, hdoor, hrestart⟩ := h
        have hgranted := hgranted rfl
        have hready : s.ready = true := by
          by_contra hr
          have := hrestart (by simpa [State.gear] using hr)
          simp [State.gear, hflight] at this
        refine ⟨fun _ _ _ => hgranted, fun _ => ⟨rfl, hgranted, hready, hpfail⟩, fun hw x hx => ?_,
          fun hr => absurd (hready.symm.trans hr) (by decide)⟩
        obtain rfl := Option.some.inj hx
        exact hdoor hw (f.stage, f.isTest) (by simp [State.gear, hflight])

theorem endPayoutWith_safe (h : s.gear.safe l) (o : CardOutcome) : (endPayoutWith judge o s).gear.safe l := by
  cases hp : s.payout with
  | none => simpa only [endPayoutWith, hp] using h
  | some p =>
    have hmoved := hj.moved (s.without .payout)
    have hsafe : (s.without .payout).gear.safe l := by
      rw [without_gear]
      exact h.without fun _ => nofun
    rw [without_gear] at hmoved
    rw [endPayoutWith_gear hp]
    exact (hj.safe _ hsafe).paid (hmoved.notMem (Gear.notMem_without _ _))

theorem endPayout_safe (h : s.gear.safe l) : (endPayout judge s).gear.safe l := by
  unfold endPayout
  split
  · exact h
  · exact endPayoutWith_safe hj h _

theorem ejectNext_safe (h : s.gear.safe l) : (ejectNext judge s).gear.safe l := by
  cases hp : s.payout with
  | none => simpa only [ejectNext, hp] using h
  | some p =>
    have hkept (q : Payout) : (State.gear { s with payout := some q }).safe l := by rwa [payout_gear (s := s) (by simp [hp])]
    simp only [ejectNext, hp]
    split
    · exact endPayout_safe hj (hkept _)
    · split
      · exact hkept _
      · exact endPayout_safe hj (hkept _)

/-- Each claimant acts on its grant in the stage in which it has waited (R145, R157, R163). -/
theorem onGrant_safe {w : Claim} {rest : List Claim} (h : s.gear.safe l) (hwaiting : s.waiting = w :: rest)
    (hpfail : s.pfail = .clear) : (onGrant judge w.claimant (headGranted s w rest)).gear.safe l := by
  have hgear := headGranted_gear hwaiting
  have hgranted : (headGranted s w rest).gear.safe l := by
    rw [hgear]
    exact h.granted
  have hhead : s.gear.waiting = w.claimant :: rest.map Claim.claimant := by simp [State.gear, hwaiting]
  have honce (hl : l = .relays) : s.gear.claims w.claimant ∧ w.claimant ∉ (headGranted s w rest).gear.waiting := by
    subst hl
    refine ⟨h.stage w.claimant (by simp [hhead]), ?_⟩
    have hnodup := h.once
    rw [hhead] at hnodup
    exact (List.nodup_cons.mp hnodup).1
  cases hc : w.claimant with
  | compressor =>
    rw [hc] at honce
    refine hgranted.comp (fun hl => ?_) fun hl hw => absurd hw (honce hl).2
    have hclaiming : (headGranted s w rest).gear.comp = .claiming := (honce hl).1
    subst hl
    exact Gear.coolingSafe.awake hgranted (by rw [hclaiming]; exact nofun)
  | heater =>
    rw [hc] at honce
    refine hgranted.defrosted (fun hl => ?_) fun hl hw => absurd hw (honce hl).2
    have hclaiming : (headGranted s w rest).gear.defrost = .claimingHeat := (honce hl).1
    subst hl
    exact Gear.coolingSafe.asleep hgranted (by rw [Gear.defrosting, hclaiming]; exact ⟨nofun, nofun⟩)
  | drive =>
    refine motorStart_safe hj hgranted (fun _ => ?_) hpfail
    rw [hgear, hc]
    simp [Gear.granted]
  | payout => exact ejectNext_safe hj hgranted

end

theorem judgeHead_safe {l : Guard} : ∀ n, KeepsGear l (judgeHead n)
  | 0 => ⟨judgeHead_moved 0, fun _ h => h⟩
  | n + 1 => ⟨judgeHead_moved _, fun s h => by
    unfold judgeHead
    split
    · exact h
    · next w rest hwaiting =>
      split
      · next hfits => exact (judgeHead_safe n).safe _ (onGrant_safe (judgeHead_safe n) h hwaiting hfits.1)
      · exact h⟩

theorem judgeLoad_keepsGear {l : Guard} : KeepsGear l judgeLoad := ⟨judgeLoad_moved, fun s => (judgeHead_safe _).safe s⟩

end Sys2Proof.Machine

/-! Every command keeps the compressor at rest during a defrost, the claims in their stages, and the motors still but under
their grant (R81, R94, R95, R143, R144, R157, R158, R162, R163, R166). -/

namespace Sys2Proof.Machine

/-! ## Operations that move nothing -/

theorem updateFallback_gear (s : State) : (updateFallback s).gear = s.gear := by
  unfold updateFallback
  split
  · exact raise_gear _ _
  · exact raise_gear _ _
  · rfl

theorem putCooling_gear (c : CoolingSettings) (s : State) : (putCooling c s).gear = s.gear := by
  unfold putCooling switchCabB
  split
  · rfl
  · exact (updateFallback_gear _).trans (raise_gear _ _)

theorem sampleChannels_gear (a b e : BitVec 12) (s : State) : (sampleChannels a b e s).gear = s.gear := by
  unfold sampleChannels
  dsimp only
  split
  · rfl
  · exact raise_gear _ _

theorem setAirflow_gear (b : Bool) (s : State) : (setAirflow b s).gear = s.gear := by
  unfold setAirflow
  split
  · rfl
  · exact raise_gear _ _

theorem judgeSpread_gear (s : State) : (judgeSpread s).gear = s.gear := by
  unfold judgeSpread
  dsimp only
  repeat' split
  · exact setAirflow_gear _ _
  · rfl
  · exact setAirflow_gear _ _
  · rfl
  · rfl

theorem expose_gear (z : ZoneState) (s : State) : (expose z s).gear = s.gear := by
  unfold expose lockZone
  dsimp only
  split
  · exact putZone_gear _ _ _
  · exact putZone_gear _ _ _

theorem judgeZone_gear (s : State) : (judgeZone s).gear = s.gear := by
  unfold judgeZone
  repeat' split
  · rfl
  · exact putZone_gear _ _ _
  · rfl
  · exact putZone_gear _ _ _
  · rfl
  · exact expose_gear _ _
  · exact putZone_gear _ _ _
  · rfl
  · exact expose_gear _ _

theorem requestReturnIfAny_gear (origin : Origin) (s : State) : (requestReturnIfAny origin s).gear = s.gear := by
  unfold requestReturnIfAny
  split
  · exact requestReturn_gear _ _ _
  · rfl

theorem handOverPlan_gear (p : Plan) (s : State) : (handOverPlan p s).gear = s.gear := by simp [State.gear_def]

theorem admitMark_gear (s : State) : (admitMark s).gear = s.gear := by
  unfold admitMark
  split <;> rfl

theorem planStart_gear (e : PayEntry) (due : Nat) (s : State) : (planStart e due s).2.gear = s.gear := by
  unfold planStart
  split
  · rfl
  · exact handOverPlan_gear _ _

theorem confirmCoin_gear {s : State} (hp : s.payout.isSome = true) (a : AirCoin) (p : Payout) :
    (confirmCoin a p s).gear = s.gear := by
  unfold confirmCoin
  dsimp only
  split <;> simp [State.gear_def, hp]

theorem tubeFoundEmpty_gear {s : State} (hp : s.payout.isSome = true) (t : Fin 4) (p : Payout) :
    (tubeFoundEmpty t p s).gear = s.gear := by
  unfold tubeFoundEmpty
  dsimp only
  split <;> simp [State.gear_def, hp]

theorem coinArrives_gear (channel : Fin 6) (s : State) : (coinArrives channel s).gear = s.gear := by
  unfold coinArrives routeCoin creditCoin
  dsimp only
  repeat' split
  all_goals simp [State.gear_def]

theorem periodEnds_gear (s : State) : (periodEnds s).gear = s.gear := by
  unfold periodEnds
  split <;> rfl

theorem judgeKeepalive_gear (s : State) : (judgeKeepalive s).gear = s.gear := by
  unfold judgeKeepalive
  split <;> rfl

theorem clearNotice_gear (s : State) : (clearNotice s).gear = s.gear := by
  unfold clearNotice
  repeat' split
  all_goals rfl

theorem countRefused_gear (s : State) : (countRefused s).gear = s.gear := raise_gear _ _

theorem writeRegister_gear (register : Byte) (data : List Byte) (s : State) :
    (writeRegister register data s).gear = s.gear := by
  unfold writeRegister
  repeat' split
  · rfl
  · exact countRefused_gear s
  · exact countRefused_gear s

theorem evaluateHolders_gear : ∀ (bytes : List (Nat × Nat)) (r : State × Bool),
    (evaluateHolders bytes r).1.gear = r.1.gear
  | [], _ => rfl
  | (slot, value) :: rest, (s, refused) => by
    rw [evaluateHolders, evaluateHolders_gear rest]
    unfold evaluateHolder
    dsimp only
    split <;> rfl

theorem applyWrite_gear (addr : Half) (data : List Byte) (completed : List Nat) (s : State) :
    (applyWrite addr data completed s).gear = s.gear := by
  have hstored (l : List (Nat × Nat)) (mem : List Host.Cell) (refused : Bool) :
      (evaluateHolders l ({ s with mem := mem }, refused)).1.gear = s.gear := evaluateHolders_gear _ _
  unfold applyWrite
  dsimp only
  repeat' split
  · exact (countRefused_gear _).trans ((judgeKeepalive_gear _).trans (hstored _ _ _))
  · exact (countRefused_gear _).trans (hstored _ _ _)
  · exact (judgeKeepalive_gear _).trans (hstored _ _ _)
  · exact hstored _ _ _

theorem applyPort_gear (p : PortSettings) (s : State) : (applyPort p s).gear = s.gear := by
  rw [applyPort_eq]
  rfl

theorem writeSpiral_gear (q : SpiralRequest) (p : Pairing) (i : Fin 80) (s : State) :
    (writeSpiral q p i s).gear = s.gear := by
  have hpartner : (pairPartner p i s).gear = s.gear := by
    unfold pairPartner
    dsimp only
    split
    · exact putSpiral_gear _ _ _
    · exact putSpiral_gear _ _ _
    · rfl
    · rfl
  unfold writeSpiral mirror
  dsimp only
  split
  · exact (putSpiral_gear _ _ _).trans ((putSpiral_gear _ _ _).trans hpartner)
  · exact (putSpiral_gear _ _ _).trans hpartner

theorem defaultSpirals_gear : ∀ (is : List (Fin 80)) (s : State), (defaultSpirals is s).gear = s.gear
  | [], _ => rfl
  | i :: rest, s => by rw [defaultSpirals, defaultSpirals_gear rest, putSpiral_gear]

theorem putSlot_gear (slot off : Nat) (bytes : List Byte) (s : State) : (s.putSlot slot off bytes).gear = s.gear := rfl

theorem takeSlot_gear (slot : Nat) (s : State) : (takeSlot slot s).gear = s.gear := by simp [State.gear_def]

theorem takeHead_gear (slot : Nat) (s : State) : (takeHead slot s).gear = s.gear := by simp [State.gear_def, takeHead]

theorem endVendAtIntake_gear (slot : Nat) (o : CardOutcome) (s : State) : (endVendAtIntake slot o s).gear = s.gear :=
  (complete_gear _ _ _).trans rfl

theorem forEach_gear {f : Nat → State → State} (hf : ∀ slot s, (f slot s).gear = s.gear) :
    ∀ (slots : List Nat) (s : State), (forEach f slots s).gear = s.gear
  | [], _ => rfl
  | slot :: rest, s => by rw [forEach, forEach_gear hf rest, hf]

theorem abortFollower_gear (slot : Nat) (s : State) : (abortFollower slot s).gear = s.gear := by
  unfold abortFollower
  dsimp only
  split
  · exact (endVendAtIntake_gear _ _ _).trans (takeSlot_gear _ _)
  · exact (complete_gear _ _ _).trans (takeSlot_gear _ _)

theorem takeVend_gear (slot : Nat) (s : State) : (takeVend slot s).gear = s.gear := by
  unfold takeVend takeBasket
  repeat' split
  · rfl
  · exact endVendAtIntake_gear _ _ _
  · exact forEach_gear takeSlot_gear _ s
  · exact (endVendAtIntake_gear _ _ _).trans
      (forEach_gear (fun _ _ => (endVendAtIntake_gear _ _ _).trans (takeSlot_gear _ _)) _ _)
  · exact (endVendAtIntake_gear _ _ _).trans (forEach_gear abortFollower_gear _ _)

theorem takeTest_gear (slot : Nat) (s : State) : (takeTest slot s).gear = s.gear := by
  unfold takeTest
  split
  · rfl
  · exact complete_gear _ _ _

theorem cancelQueued_gear (slots : List Nat) (s : State) : (cancelQueued slots s).gear = s.gear :=
  forEach_gear (fun _ _ => endVendAtIntake_gear _ _ _) slots { s with vendQueue := _ }

theorem takePayout_gear (slot : Nat) (s : State) : (takePayout slot s).gear = s.gear := by
  unfold takePayout
  split
  · rfl
  · exact complete_gear _ _ _

theorem applyTubeFill_gear (slot : Nat) (s : State) : (applyTubeFill slot s).gear = s.gear := by
  unfold applyTubeFill fillTube
  dsimp only
  repeat' split
  all_goals simp [State.gear_def]

theorem applySetSpiral_gear (slot : Nat) (s : State) : (applySetSpiral slot s).gear = s.gear := by
  have hresult (r : Spiral) (u : State) : (putSpiralResult slot r u).gear = u.gear := rfl
  unfold applySetSpiral setSpiral
  dsimp only
  repeat' split
  · rfl
  · exact complete_gear _ _ _
  · exact complete_gear _ _ _
  · exact complete_gear _ _ _
  · exact (completeOk_gear _ _).trans ((hresult _ _).trans (writeSpiral_gear _ _ _ _))

theorem applySetCoin_gear (slot : Nat) (s : State) : (applySetCoin slot s).gear = s.gear := by
  unfold applySetCoin setChannel setTube
  dsimp only
  repeat' split
  all_goals simp [State.gear_def]

theorem applyMoney_gear (slot : Nat) (m : MoneySettings) (s : State) : (applyMoney slot m s).gear = s.gear := by
  unfold applyMoney
  split
  · exact complete_gear _ _ _
  · exact (completeOk_gear _ _).trans (recomputeChange_gear _)

theorem applyReleaseZone_gear (slot : Nat) (s : State) : (applyReleaseZone slot s).gear = s.gear := by
  unfold applyReleaseZone
  dsimp only
  repeat' split
  · exact complete_gear _ _ _
  · exact (completeOk_gear _ _).trans (putZone_gear _ _ _)
  · exact completeOk_gear _ _

theorem takeResumeDrive_gear (slot : Nat) (s : State) : (takeResumeDrive slot s).gear = s.gear := by
  unfold takeResumeDrive
  repeat' split
  · exact complete_gear _ _ _
  · rfl
  · exact completeOk_gear _ _

theorem takeSnapshot_gear (slot : Nat) (s : State) : (takeSnapshot slot s).gear = s.gear := by
  unfold takeSnapshot
  split
  · exact complete_gear _ _ _
  · exact requestSave_gear _

theorem takeStore_gear (slot : Nat) (s : State) : (takeStore slot s).gear = s.gear := by
  unfold takeStore
  split
  · exact complete_gear _ _ _
  · exact requestSave_gear _

theorem completeHeld_gear (h : Option HeldSave) (i : Image) (s : State) : (completeHeld h i s).gear = s.gear := by
  unfold completeHeld
  split
  · exact complete_gear _ _ _
  · rfl

theorem afterSave_gear (i : Image) (s : State) : (afterSave i s).gear = s.gear := by
  unfold afterSave
  dsimp only
  split
  · exact (completeHeld_gear _ _ _).trans (completeHeld_gear _ _ _)
  · exact (completeHeld_gear _ _ _).trans (completeHeld_gear _ _ _)

theorem idle_gear (s : State) : (idle s).gear = s.gear := by
  unfold idle
  split <;> rfl

section
variable {s t u : State} {l : Guard} {slot : Nat}

theorem Gear.safe.of (h : s.gear.safe l) (heq : t.gear = s.gear) : t.gear.safe l := heq ▸ h

theorem ite_safe {c : Prop} [Decidable c] (hs : c → s.gear.safe l) (ht : ¬ c → t.gear.safe l) :
    (if c then s else t).gear.safe l := by
  split
  · exact hs ‹_›
  · exact ht ‹_›

/-- A claim joins the tail of the list. -/
theorem placed_gear (s : State) (w : Claim) :
    State.gear { s with waiting := s.waiting ++ [w] } = { s.gear with waiting := s.gear.waiting ++ [w.claimant] } := by
  simp [State.gear_def]

/-! ## Vends and tests -/

theorem endFlight_safe (h : s.gear.safe l) (o testO : CardOutcome) : (endFlight judgeLoad o testO s).gear.safe l := by
  unfold endFlight
  split
  · exact h
  · exact ite_safe (fun _ => testEnd_safe judgeLoad_keepsGear h _ _) fun _ => verdict_safe judgeLoad_keepsGear h _

/-- The motors stop. -/
theorem Gear.safe.stopped (h : s.gear.safe l) : (State.gear { s with rev := none }).safe l := by
  cases l with
  | relays => exact { h with }
  | motors =>
    obtain ⟨hgranted, _, hdoor⟩ := h
    exact ⟨hgranted, nofun, hdoor⟩

/-- Motors that turn go on to turn. -/
theorem turning_gear (hrev : s.rev.isSome = true) (r : Revolution) : State.gear { s with rev := some r } = s.gear := by
  simp [State.gear_def, hrev]

theorem jamReport_safe (h : s.gear.safe l) : (jamReport judgeLoad s).gear.safe l :=
  endFlight_safe (h.stopped.of (raise_gear _ _)) _ _

theorem shortReport_safe (h : s.gear.safe l) : (shortReport judgeLoad s).gear.safe l :=
  Gear.safe.of (jamReport_safe (h.of (raise_gear _ { s with driveFaulted := true }))) (requestSave_gear _)

/-- A flight enters CLAIMING, and its claim joins the list (R54, R61, R62). -/
theorem enterClaiming_safe (h : s.gear.safe l) (hnone : s.flight = none) {f : Flight} (hstage : f.stage = .claiming)
    (hready : s.ready = true) (hdoor : f.isTest = (s.door == .opened)) : (enterClaiming judgeLoad f s).gear.safe l := by
  have hentered : (setInFlight true (selection f.spiral f.twin) { s with flight := some f }).gear =
      { s.gear with flight := some (.claiming, f.isTest) } := by
    rw [setInFlight_gear, ← hstage]
    rfl
  rw [enterClaiming, placeClaim]
  refine judgeLoad_keepsGear.safe _ ?_
  rw [placed_gear, hentered]
  have hnoFlight : s.gear.flight = none := by simp [State.gear, hnone]
  have hsafe : Gear.safe { s.gear with flight := some (.claiming, f.isTest) } l := by
    cases l with
    | relays => exact { h with stage := h.stages .drive rfl (by rintro ⟨⟩ <;> simp [Gear.claims]) fun _ => rfl }
    | motors =>
      obtain ⟨-, henergised, -, -⟩ := h
      refine ⟨fun x hx hne => ?_, fun he => ?_, fun _ x hx => ?_, fun hr => absurd (hready.symm.trans hr) (by decide)⟩
      · obtain rfl := Option.some.inj hx
        exact absurd rfl hne
      · exact absurd (henergised he).1 (by simp [hnoFlight])
      · obtain rfl := Option.some.inj hx
        exact hdoor
  refine hsafe.placed fun hl => ⟨fun hw => ?_, rfl⟩
  subst hl
  have hclaims : s.gear.claims .drive := h.stage .drive hw
  simp [Gear.claims, hnoFlight] at hclaims

theorem door_of_vendCheck {i : Option (Fin 80)} {p : Payment} (h : vendCheck i p s = none) : s.door = .closed := by
  unfold vendCheck at h
  split at h
  · cases h
  · next hdoor => cases hd : s.door <;> simp_all

theorem door_of_testCheck {i : Option (Fin 80)} (h : testCheck i s = none) : s.door = .opened := by
  unfold testCheck at h
  split at h
  · cases h
  · next hdoor => cases hd : s.door <;> simp_all

theorem checkVend_safe (h : s.gear.safe l) (hnone : s.flight = none) (hready : s.ready = true) (e : QueueEntry) :
    (checkVend judgeLoad e s).gear.safe l := by
  have hopen : (openBasket e s).gear.safe l ∧ (openBasket e s).flight = none ∧ (openBasket e s).ready = true := by
    rw [openBasket_eq]
    exact ⟨h, hnone, hready⟩
  unfold checkVend
  dsimp only
  generalize openBasket e s = u at hopen
  obtain ⟨hopen, hnone, hready⟩ := hopen
  split
  · next i hpassed _ =>
    have hclosed : u.door = .closed := door_of_vendCheck hpassed
    split
    · exact enterClaiming_safe (hopen.of (putCredit_gear _ _ _)) (by simpa using hnone) rfl (by simpa using hready)
        (by simp [newFlight, hclosed])
    · exact enterClaiming_safe hopen hnone rfl hready (by simp [newFlight, hclosed])
  · exact hopen.of (endItem_gear _ _ _ _)

theorem checkTest_safe (h : s.gear.safe l) (hnone : s.flight = none) (hready : s.ready = true) (e : QueueEntry) :
    (checkTest judgeLoad e s).gear.safe l := by
  unfold checkTest
  dsimp only
  split
  · next i hpassed _ => exact enterClaiming_safe h hnone rfl hready (by simp [newFlight, door_of_testCheck hpassed])
  · exact h.of (complete_gear _ _ _)

theorem takeQueueHead_safe {k : CardKind} {check : QueueEntry → State → State} (h : s.gear.safe l)
    (hcheck : ∀ (e : QueueEntry) (s : State), s.gear.safe l → s.flight = none → s.ready = true → (check e s).gear.safe l) :
    (takeQueueHead k check s).gear.safe l := by
  unfold takeQueueHead
  split
  · next hnone =>
    exact ite_safe (fun hworks => hcheck _ _ (by exact h) hnone (working_ready hworks.1)) fun _ => h
  · exact h

/-- What a vend or test in flight learns leaves its stage as it is. -/
theorem flight_gear {f g : Flight} (hf : s.flight = some f) (hstage : g.stage = f.stage) (htest : g.isTest = f.isTest) :
    State.gear { s with flight := some g } = s.gear := by
  simp [State.gear_def, hf, hstage, htest]

/-- A flight that has turned goes to another stage under its grant (R63 to R65). -/
theorem Gear.safe.advanced {g : Gear} {before stage : Stage} {isTest : Bool} (h : g.safe l)
    (hf : g.flight = some (before, isTest)) (hgranted : l = .motors → g.driveGranted = true) :
    Gear.safe { g with flight := some (stage, isTest) } l := by
  cases l with
  | relays => exact { h with stage := h.stages .drive rfl (by rintro ⟨⟩ <;> simp [Gear.claims]) fun _ => rfl }
  | motors =>
    obtain ⟨-, henergised, hdoor, hrestart⟩ := h
    refine ⟨fun _ _ _ => hgranted rfl, fun he => ⟨rfl, (henergised he).2⟩, fun hw x hx => ?_, fun hr => ?_⟩
    · obtain rfl := Option.some.inj hx
      exact hdoor hw (before, isTest) hf
    · exact nomatch hf.symm.trans (hrestart hr)

/-- The flight whose motors turn holds the grant. -/
theorem granted_of_turning (h : s.gear.safe .motors) (hrev : s.rev.isSome = true) : s.gear.driveGranted = true :=
  (h.2.1 hrev).2.1

theorem revolutionComplete_safe (h : s.gear.safe l) (hrev : s.rev.isSome = true) (time : Nat) :
    (revolutionComplete judgeLoad time s).gear.safe l := by
  cases hf : s.flight with
  | none => simpa only [revolutionComplete, hf] using h.stopped
  | some f =>
    have hrecorded : (revolutionRecorded s f time).gear.safe l := h.stopped.of (by simp [revolutionRecorded, State.gear_def, hf])
    rw [revolutionComplete_eq hf]
    have hgranted (hl : l = .motors) : (revolutionRecorded s f time).gear.driveGranted = true := by
      subst hl
      have hheld := granted_of_turning h hrev
      exact hheld
    exact ite_safe (fun _ => testEnd_safe judgeLoad_keepsGear hrecorded _ _) fun _ =>
      ite_safe (fun _ => verdict_safe judgeLoad_keepsGear hrecorded _) fun _ =>
      ite_safe (fun _ => verdict_safe judgeLoad_keepsGear hrecorded _) fun _ =>
      ite_safe (fun _ => verdict_safe judgeLoad_keepsGear hrecorded _) fun _ =>
      hrecorded.advanced (before := f.stage) rfl hgranted

/-! ## The drive -/

theorem camLine_safe (h : s.gear.safe l) (spiral : Fin 80) (level : CamLevel) : (camLine spiral level s).gear.safe l := by
  unfold camLine
  dsimp only
  split
  · exact h
  · next r hrev =>
    split
    · have hturns : (State.gear { s with camLevel := s.camLevel.set spiral level, rev := some { r with
          cams := (changeLine (s.now - r.started) spiral level r.cams).1 } }).safe l :=
        Gear.safe.of (by exact h) (turning_gear (s := { s with camLevel := s.camLevel.set spiral level }) (by simp [hrev]) _)
      exact ite_safe (fun _ => jamReport_safe hturns) fun _ => hturns
    · exact h

theorem reportOpened_safe (h : s.gear.safe l) (hrev : s.rev.isSome = true) (cams : List Cam) :
    (reportOpened cams s).gear.safe l := by
  unfold reportOpened
  refine ite_safe (fun _ => ?_) fun _ => h
  cases hf : s.flight with
  | none => exact h.of (by simp [State.gear_def, hf])
  | some f =>
    simp only [Option.map_some]
    split
    · exact h.advanced (before := f.stage) (by simp [State.gear, hf]) fun hl => granted_of_turning (hl ▸ h) hrev
    · exact h.of (flight_gear hf rfl rfl)

theorem consumeEdge_safe (h : s.gear.safe l) (hrev : s.rev.isSome = true) (column : Fin 10) (time : Nat) (r : Revolution) :
    (consumeEdge column time r s).gear.safe l := by
  unfold consumeEdge
  refine ite_safe (fun _ => revolutionComplete_safe h hrev time) fun _ => reportOpened_safe ?_ rfl _
  exact h.of (turning_gear hrev _)

theorem takeLimit_safe (h : s.gear.safe l) (hrev : s.rev.isSome = true) (judged waits : Cam → Bool) (r : Revolution) :
    (takeLimit judged waits r s).gear.safe l := by
  unfold takeLimit
  exact ite_safe (fun _ => jamReport_safe h) fun _ => h.of (turning_gear hrev _)

theorem setCurrent_safe (h : s.gear.safe l) (current : Nat) : (setCurrent current s).gear.safe l := by
  unfold setCurrent
  split
  · exact h
  · next r hrev =>
    exact ite_safe (fun _ => ite_safe (fun _ => shortReport_safe h) fun _ => h.of (turning_gear (by simp [hrev]) _)) fun _ => h

/-- The door that changes ends the flight that needs it as it was (R70, R79, R94, R95). -/
theorem doorAborts_safe {door : DoorState} (h : s.gear.safe l) (hdoor : door ≠ s.door) (hu : u.gear = { s.gear with door := door })
    (hflight : u.flight = s.flight) : (if s.working then doorAborts u else u).gear.safe l := by
  have hrelays (hl : l = .relays) : u.gear.safe l := by
    subst hl
    rw [hu]
    exact { h with }
  have hchanged : u.door = door := congrArg Gear.door hu
  have hopposite : (s.door == .opened) = (u.door == .closed) := by
    rw [hchanged]
    revert hdoor
    cases s.door <;> cases door <;> decide
  cases hf : s.flight with
  | none =>
    rw [hf] at hflight
    have hstands : doorAborts u = u := doorAborts_none (by simp [hflight])
    rw [hstands, ite_self]
    cases l with
    | relays => exact hrelays rfl
    | motors =>
      obtain ⟨hgranted, henergised, _, hrestart⟩ := h
      rw [hu]
      exact ⟨hgranted, henergised, fun _ => by simp [State.gear, hf], hrestart⟩
  | some f =>
    rw [hf] at hflight
    refine ite_safe (fun hw => ?_) fun hw => ?_
    · cases l with
      | relays =>
        unfold doorAborts
        repeat' split
        · exact hrelays rfl
        · exact verdict_safe judgeLoad_keepsGear (hrelays rfl) _
        · exact testEnd_safe judgeLoad_keepsGear (hrelays rfl) _ _
        · exact hrelays rfl
      | motors =>
        obtain ⟨_, _, hneeds, _⟩ := h
        have hends : f.isTest = (u.door == .closed) :=
          (hneeds ((working_iff s).mp hw) (f.stage, f.isTest) (by simp [State.gear, hf])).trans hopposite
        cases hkind : f.isTest with
        | false =>
          rw [doorAborts_vend hflight hends hkind]
          exact verdict_landed (l := .motors) judgeLoad_keepsGear hflight nofun _
        | true =>
          rw [doorAborts_test hflight hends hkind]
          exact testEnd_landed (l := .motors) judgeLoad_keepsGear hflight nofun _ _
    · cases l with
      | relays => exact hrelays rfl
      | motors =>
        obtain ⟨hgranted, henergised, _, hrestart⟩ := h
        rw [hu]
        exact ⟨hgranted, henergised, fun hworks => absurd ((working_iff s).mpr hworks) hw, hrestart⟩

end

end Sys2Proof.Machine

/-! The operations of the compressor and of the defrost, said by what each of them does before and after a judgement of the
load (R157 to R165). -/

namespace Sys2Proof.Machine

/-- The compressor stands in OFF_RESTING without a timer (R162). -/
def State.stopped (s : State) : State :=
  { s with comp := { state := .offResting, minOff := none, minOn := none, window := none }, runSecond := none }

/-- The compressor stands and has given up its load (R162). -/
def State.unloaded (s : State) : State := s.stopped.without .compressor

/-- A defrost begins in the stage `state`, its timer started and the accumulator cleared (R161, R162). -/
def State.defrostFrom (state : DefrostState) (s : State) : State :=
  { s with runTime := 0,
           defrost := { s.defrost with state := state, forcedAt := none, forced := false, startedAt := s.now,
                                       timer := some (s.now + 60000 * s.coolSet.maxDuration), grace := none } }

/-- The start of a defrost, when the load of the compressor has been given up (R162). -/
def defrostStarts (judge : State → State) (s : State) : State :=
  match s.coolSet.defrostType with
  | .offCycle => s.defrostFrom .offCycle
  | .heater => placeClaim judge .heater s.loadSet.heaterSize (s.defrostFrom .claimingHeat)

theorem startDefrost_eq (judge : State → State) (s : State) :
    startDefrost judge s = defrostStarts judge (judge s.unloaded) := rfl

/-- A defrost goes to DRAINING, with the result that its card is to show (R164). -/
def State.drainFrom (byTime : Bool) (s : State) : State :=
  { s with defrost := { s.defrost with
      state := .draining, timer := none, timeoutFlag := byTime, drip := some (s.now + 60000 * s.coolSet.dripTime),
      result := some { kind := if byTime then .timedOut else .complete, seconds := defrostSeconds s,
                       evap := s.evap.reading } } }

/-- The notice of a defrost that ends by time (R164). -/
def State.reported (byTime : Bool) (s : State) : State := if byTime then raise .cooling s else s

theorem endDefrost_eq (judge : State → State) (byTime : Bool) (s : State) :
    endDefrost judge byTime s =
      if ((judge ((s.drainFrom byTime).without .heater)).reported byTime).coolSet.dripTime = 0 then
        endDraining ((judge ((s.drainFrom byTime).without .heater)).reported byTime)
      else (judge ((s.drainFrom byTime).without .heater)).reported byTime := rfl

end Sys2Proof.Machine

/-! The drop sensor, the payout engine and the refrigeration controller keep the gear safe (R81, R131 to R134, R157 to R165). -/

namespace Sys2Proof.Machine

section
variable {s t u : State} {l : Guard} {slot : Nat}

/-! ## The drop sensor -/

/-- A flight that has turned holds the grant (R81). -/
theorem granted_of_stage (h : s.gear.safe .motors) {f : Flight} (hf : s.flight = some f) (hstage : f.stage ≠ .claiming) :
    s.gear.driveGranted = true :=
  h.1 (f.stage, f.isTest) (by simp [State.gear, hf]) hstage

theorem dropWaitEnds_safe (h : s.gear.safe l) {f : Flight} (hf : s.flight = some f) (hstage : f.stage = .dropWait)
    (hworks : s.working = true) : (dropWaitEnds f s).gear.safe l := by
  have hgranted (hl : l = .motors) : s.gear.driveGranted = true := granted_of_stage (hl ▸ h) hf (by simp [hstage])
  exact ite_safe (fun _ => motorStart_safe judgeLoad_keepsGear h hgranted (working_pfail hworks)) fun _ =>
    verdict_safe judgeLoad_keepsGear h _

theorem giveDrop_safe (h : s.gear.safe l) : (giveDrop s).gear.safe l := by
  unfold giveDrop
  split
  · next f hf =>
    split
    · next start _ _ =>
      dsimp only
      have hseen := h.of (flight_gear (g := { f with dropSeen := some (s.now - start) }) hf rfl rfl)
      exact ite_safe (fun _ => verdict_safe judgeLoad_keepsGear hseen _) fun _ => hseen
    · exact h
  · exact h

theorem sensorFails_safe (h : s.gear.safe l) : (sensorFails s).gear.safe l := by
  have hfails : (raise .drive { s.reach (s.drop.since + 2001) with drop := { s.drop with fault := true } }).gear.safe l :=
    h.of (raise_gear _ _)
  unfold sensorFails faultVerdict
  dsimp only
  refine ite_safe (fun _ => ?_) fun _ => hfails
  split
  · exact ite_safe (fun _ => verdict_safe judgeLoad_keepsGear hfails _) fun _ => hfails
  · exact hfails

/-! ## Payouts -/

theorem startPayout_safe (h : s.gear.safe l) (hnone : s.payout = none) (e : PayEntry) (rest : List PayEntry) :
    (startPayout judgeLoad e rest s).gear.safe l := by
  have hadmitted : (admitMark { s with payQueue := rest }).gear = s.gear := admitMark_gear { s with payQueue := rest }
  unfold startPayout
  dsimp only
  generalize admitMark { s with payQueue := rest } = u at hadmitted
  have hpaying (v : State) (hv : v.gear = s.gear) (p : Payout) :
      State.gear { v with payout := some p } = { s.gear with paying := true } := by
    rw [← hv]
    rfl
  have hstarted : Gear.safe { s.gear with paying := true } l := by
    cases l with
    | relays => exact { h with stage := h.stages .payout rfl (by rintro ⟨⟩ <;> simp [Gear.claims]) fun _ => rfl }
    | motors => exact h
  split
  · refine endPayoutWith_safe judgeLoad_keepsGear ?_ _
    rwa [hpaying u hadmitted]
  · have hplanned : (planStart e (amountDue e u) (setBusy true u)).2.gear = s.gear :=
      (planStart_gear e _ _).trans hadmitted
    generalize planStart e (amountDue e u) (setBusy true u) = plan at hplanned
    refine ite_safe (fun _ => endPayout_safe judgeLoad_keepsGear ?_) fun _ => judgeLoad_keepsGear.safe _ ?_
    · rwa [hpaying _ hplanned]
    · rw [placed_gear, hpaying _ hplanned]
      refine hstarted.placed fun hl => ⟨fun hw => ?_, rfl⟩
      subst hl
      have hclaims : s.gear.claims .payout := h.stage .payout hw
      simp [Gear.claims, State.gear, hnone] at hclaims

theorem afterConfirm_safe (h : s.gear.safe l) : (afterConfirm judgeLoad s).gear.safe l := by
  unfold afterConfirm
  split
  · exact h
  · exact ite_safe (fun _ => endPayout_safe judgeLoad_keepsGear h) fun _ =>
      ite_safe (fun _ => h) fun _ => ejectNext_safe judgeLoad_keepsGear h

theorem afterPulse_safe (h : s.gear.safe l) (tube : Fin 4) : (afterPulse tube s).gear.safe l := by
  unfold afterPulse
  split
  · next p hp =>
    have hkept (q : Payout) : (State.gear { s with payout := some q }).safe l := h.of (payout_gear (by simp [hp]) q)
    exact ite_safe (fun _ => ite_safe (fun _ => hkept _) fun _ => ejectNext_safe judgeLoad_keepsGear (hkept _)) fun _ => h
  · exact h

theorem exitCoin_safe (h : s.gear.safe l) : (exitCoin s).gear.safe l := by
  unfold exitCoin
  split
  · next p a hp _ =>
    exact ite_safe (fun _ => h) fun _ => afterConfirm_safe (h.of (confirmCoin_gear (by simp [hp]) _ _))
  · exact h

theorem missCoin_safe (h : s.gear.safe l) (hp : s.payout.isSome = true) (a : AirCoin) (p : Payout) :
    (missCoin a p s).gear.safe l := by
  unfold missCoin
  exact ite_safe (fun _ => ejectNext_safe judgeLoad_keepsGear (h.of (tubeFoundEmpty_gear hp _ _))) fun _ =>
    ite_safe (fun _ => h.of (payout_gear hp _)) fun _ => endPayout_safe judgeLoad_keepsGear h

/-! ## The compressor and the defrost -/

/-- The compressor places its claim in OFF_IDLE (R157). -/
theorem claimStart_safe (h : s.gear.safe l) (hidle : s.comp.state = .offIdle) : (claimStart judgeLoad s).gear.safe l := by
  have hcomp : s.gear.comp = .offIdle := hidle
  have hclaims : Gear.safe { s.gear with comp := .claiming } l := h.comp (fun hl => by
    subst hl
    exact Gear.coolingSafe.awake h (by rw [hcomp]; exact nofun)) fun _ _ => rfl
  refine judgeLoad_keepsGear.safe _ ?_
  rw [placed_gear]
  refine hclaims.placed fun hl => ⟨fun hw => ?_, rfl⟩
  subst hl
  have hclaiming : s.gear.comp = .claiming := h.stage .compressor hw
  rw [hcomp] at hclaiming
  cases hclaiming

theorem withdrawStart_safe (h : s.gear.safe l) (hclaiming : s.comp.state = .claiming) :
    (withdrawStart judgeLoad s).gear.safe l := by
  have hcomp : (s.gear.without .compressor).comp = .claiming := hclaiming
  rw [withdrawStart, giveUp_eq]
  refine judgeLoad_keepsGear.safe _ ?_
  rw [without_gear]
  have hwithout : (s.gear.without .compressor).safe l := h.without fun _ => nofun
  exact hwithout.comp (state := .offIdle) (fun hl => by
    subst hl
    exact Gear.coolingSafe.awake hwithout (by rw [hcomp]; exact nofun)) fun _ hw => absurd hw (Gear.notMem_without _ _)

/-- A DUE defrost starts: the compressor rests with its load given up, and the heater claims (R162). -/
theorem startDefrost_safe (h : s.gear.safe l) (hdue : s.defrost.state = .due) (hready : l = .relays → s.gear.ready = true) :
    (startDefrost judgeLoad s).gear.safe l := by
  have hgear : s.unloaded.gear = { s.gear.without .compressor with comp := .offResting, restTimed := false } :=
    without_gear (State.stopped s) .compressor
  have hunloaded : s.unloaded.gear.safe l := by
    have hwithout : (s.gear.without .compressor).safe l := h.without fun _ => nofun
    rw [hgear]
    exact hwithout.rested (fun _ => Gear.notMem_without _ _) fun _ => nofun
  have hsafe := judgeLoad_keepsGear.safe _ hunloaded
  have hmoved := judgeLoad_moved s.unloaded
  rw [startDefrost_eq, defrostStarts]
  generalize judgeLoad s.unloaded = u at hsafe hmoved
  rw [hgear] at hmoved
  have hrest (hl : l = .relays) : u.gear.comp = .offResting ∧ u.gear.restTimed = false ∧ u.gear.ready = true := by
    obtain ⟨hcomp, htimer⟩ := hmoved.compressor (Gear.notMem_without _ _)
    exact ⟨hcomp, htimer, hmoved.line.1.trans (hready hl)⟩
  have hheater (hl : l = .relays) : .heater ∉ u.gear.waiting := by
    subst hl
    refine hmoved.notMem fun hw => ?_
    have hclaims : s.gear.defrost = .claimingHeat := h.stage .heater (Gear.mem_of_without hw)
    exact nomatch hclaims.symm.trans hdue
  have hbegun (state : DefrostState) : (u.defrostFrom state).gear.safe l :=
    hsafe.defrosted hrest fun hl hw => absurd hw (hheater hl)
  split
  · exact hbegun _
  · refine judgeLoad_keepsGear.safe _ ?_
    rw [placed_gear]
    exact (hbegun .claimingHeat).placed fun hl => ⟨hheater hl, rfl⟩

theorem callDefrost_safe (h : s.gear.safe l) : (callDefrost s).gear.safe l := by
  unfold callDefrost
  refine ite_safe (fun hnotDue => ?_) fun _ => h
  have hstate : s.gear.defrost = .notDue := hnotDue
  exact h.undefrosted (.inr rfl) (by rw [hstate]; exact nofun)

theorem callIfReached_safe (h : s.gear.safe l) : (callIfReached s).gear.safe l := by
  unfold callIfReached
  exact ite_safe (fun _ => callDefrost_safe h) fun _ => h

theorem settleRun_safe (h : s.gear.safe l) : (settleRun s).gear.safe l := by
  unfold settleRun
  exact ite_safe (fun _ => h) fun _ => callIfReached_safe (by exact h)

theorem startIfOff_safe (h : s.gear.safe l) (hready : l = .relays → s.gear.ready = true) :
    (startIfOff judgeLoad s).gear.safe l := by
  unfold startIfOff
  exact ite_safe (fun hdue => startDefrost_safe h hdue.1 hready) fun _ => h

theorem callDefrost_ready (s : State) : (callDefrost s).ready = s.ready := by
  unfold callDefrost
  split <;> rfl

theorem becomeDue_safe (h : s.gear.safe l) (hready : s.ready = true) : (becomeDue judgeLoad s).gear.safe l :=
  startIfOff_safe (callDefrost_safe h) fun _ => (callDefrost_ready s).trans hready

theorem judgeDue_safe (h : s.gear.safe l) (hready : s.ready = true) : (judgeDue judgeLoad s).gear.safe l :=
  ite_safe (fun _ => becomeDue_safe h hready) fun _ => h

/-- A compressor that runs stands beside no defrost, and the part is ready (R157, R162, R170). -/
theorem awake_of_comp {state : CompressorState} (h : s.gear.safe .relays) (hcomp : s.comp.state = state)
    (hstate : state ≠ .offResting) : ¬ s.gear.defrosting ∧ s.gear.restTimed = false ∧ s.gear.ready = true :=
  Gear.coolingSafe.awake h (show s.comp.state ≠ .offResting from hcomp ▸ hstate)

/-- A run ends: the compressor rests, or a DUE defrost starts (R157, R162). -/
theorem cutOut_safe (h : s.gear.safe l) (hrunning : s.comp.state = .running) : (cutOut judgeLoad s).gear.safe l := by
  have hcounted := settleRun_safe h
  have hcomp : (settleRun s).comp.state = .running := by rw [settleRun_eq]; exact hrunning
  unfold cutOut
  dsimp only
  generalize settleRun s = u at hcounted hcomp
  have hawake (hl : l = .relays) := awake_of_comp (hl ▸ hcounted) hcomp nofun
  refine ite_safe (fun hdue => startDefrost_safe hcounted hdue fun hl => (hawake hl).2.2) fun _ => ?_
  rw [giveUp_eq]
  refine judgeLoad_keepsGear.safe _ ?_
  rw [without_gear]
  have hwithout : (u.gear.without .compressor).safe l := hcounted.without fun _ => nofun
  exact hwithout.rested (timed := true) (fun _ => Gear.notMem_without _ _) fun hl _ => (hawake hl).1

theorem thermostat_safe (h : s.gear.safe l) : (thermostat judgeLoad s).gear.safe l := by
  unfold thermostat
  split
  · next hidle => exact ite_safe (fun _ => claimStart_safe h hidle) fun _ => h
  · next hclaiming => exact ite_safe (fun _ => h) fun _ => withdrawStart_safe h hclaiming
  · next hrunning => exact ite_safe (fun _ => cutOut_safe h hrunning) fun _ => h
  · exact h
  · exact h

/-- The minimum off time is over (R157, R158). -/
theorem enterIdle_safe (h : s.gear.safe l) (htimer : s.gear.restTimed = true) (hready : s.gear.ready = true) :
    (enterIdle judgeLoad s).gear.safe l := by
  have hidle : (State.gear { s with comp := { s.comp with state := .offIdle, minOff := none } }).safe l := by
    have htimerless : Gear.safe { s.gear with restTimed := false } l := by
      cases l with
      | relays => exact { h with
          atRest := fun hd => ⟨(h.atRest hd).1, rfl⟩
          restTimed := nofun }
      | motors => exact h
    refine htimerless.comp (state := .offIdle) (fun hl => ⟨fun hd => ?_, rfl, hready⟩) fun hl hw => ?_
    · subst hl
      exact nomatch htimer.symm.trans (h.atRest hd).2
    · subst hl
      have hclaiming : s.gear.comp = .claiming := h.stage .compressor hw
      exact nomatch hclaiming.symm.trans (h.restTimed htimer)
  exact ite_safe (fun _ => claimStart_safe hidle rfl) fun _ => hidle

theorem minOnEnds_safe (h : s.gear.safe l) : (minOnEnds judgeLoad s).gear.safe l := by
  have hended : (State.gear { s with comp := { s.comp with minOn := none } }).safe l := h
  unfold minOnEnds
  refine ite_safe (fun _ => hended) fun hrunning => ?_
  have hcomp : s.comp.state = .running := not_not.mp hrunning
  refine ite_safe (fun hdue => startDefrost_safe hended hdue.1 fun hl => ?_) fun _ =>
    ite_safe (fun _ => cutOut_safe hended hcomp) fun _ => hended
  exact (awake_of_comp (hl ▸ h) hcomp nofun).2.2

theorem forcedStop_safe (h : s.gear.safe l) (hdue : s.defrost.state = .due) (hready : s.gear.ready = true) :
    (forcedStop judgeLoad s).gear.safe l := by
  unfold forcedStop
  exact ite_safe (fun _ => startDefrost_safe h hdue fun _ => hready) fun _ => h

theorem phaseStarts_safe (h : s.gear.safe l) (on : Bool) : (phaseStarts judgeLoad on s).gear.safe l := by
  have hstarted : (State.gear { s with fallback := some { on := on, ends := s.now + 900000 } }).safe l := h
  unfold phaseStarts
  dsimp only
  split
  · next hidle => exact claimStart_safe hstarted hidle
  · next hclaiming => exact withdrawStart_safe hstarted hclaiming
  · next hrunning => exact ite_safe (fun _ => cutOut_safe hstarted hrunning) fun _ => hstarted
  · exact hstarted

/-- The start window ends, and the grant shrinks (R146, R157). -/
theorem windowEnds_safe (h : s.gear.safe l) (hstarting : s.comp.state = .starting) : (windowEnds s).gear.safe l := by
  refine judgeLoad_keepsGear.safe _ ?_
  have hruns : Gear.safe { s.gear with comp := .running } l :=
    h.comp (fun hl => awake_of_comp (hl ▸ h) hstarting nofun) fun hl hw => by
      subst hl
      have hclaiming : s.gear.comp = .claiming := h.stage .compressor hw
      exact nomatch hclaiming.symm.trans hstarting
  have hshrunk : (s.grants.map fun g =>
      if g.claimant = .compressor then { g with size := min g.size s.loadSet.runSize } else g).any
      (fun g => g.claimant == .drive) = s.hasGrant .drive := by
    rw [State.hasGrant, List.any_map]
    congr 1
    funext g
    by_cases hg : g.claimant = .compressor <;> simp [hg]
  rw [State.gear_def]
  dsimp only
  rw [hshrunk]
  exact hruns

theorem completeDefrostCard_gear (s : State) : (completeDefrostCard s).gear = s.gear := by
  unfold completeDefrostCard
  split
  · exact (complete_gear _ _ _).trans rfl
  · rfl

theorem endDraining_safe (h : s.gear.safe l) (hdraining : s.defrost.state = .draining) : (endDraining s).gear.safe l := by
  have hstate : s.gear.defrost = .draining := hdraining
  have hended : Gear.safe { s.gear with defrost := .notDue } l := h.undefrosted (.inl rfl) (by rw [hstate]; exact nofun)
  refine Gear.safe.of ?_ (completeDefrostCard_gear _)
  refine hended.rested (timed := true) (fun hl hw => ?_) fun _ _ hd => hd.1 rfl
  subst hl
  have hcomp : s.gear.comp = .offResting := (h.atRest (by rw [Gear.defrosting, hstate]; exact ⟨nofun, nofun⟩)).1
  have hclaiming : s.gear.comp = .claiming := h.stage .compressor hw
  exact nomatch hclaiming.symm.trans hcomp

theorem inProgress_of_endable {d : Defrost} (h : d.endable = true) : d.inProgress = true := by
  revert h
  unfold Defrost.endable Defrost.inProgress
  cases d.state <;> simp

/-- A defrost ends: the heater's load is given up, and the coil drains (R164, R165). -/
theorem endDefrost_safe (h : s.gear.safe l) (hend : s.defrost.endable = true) (byTime : Bool) :
    (endDefrost judgeLoad byTime s).gear.safe l := by
  have hdefrosting : s.gear.defrosting := by
    have hstate : s.gear.defrost = s.defrost.state := rfl
    rw [Gear.defrosting, hstate]
    exact s.defrost.inProgress_iff.mp (inProgress_of_endable hend)
  have hgear : ((s.drainFrom byTime).without .heater).gear = { s.gear.without .heater with defrost := .draining } :=
    without_gear _ _
  have hdrains : ((s.drainFrom byTime).without .heater).gear.safe l := by
    have hwithout : (s.gear.without .heater).safe l := h.without fun _ => nofun
    rw [hgear]
    refine hwithout.defrosted (fun hl => ?_) fun _ hw => absurd hw (Gear.notMem_without _ _)
    subst hl
    exact Gear.coolingSafe.asleep (g := s.gear) h hdefrosting
  have hsafe := judgeLoad_keepsGear.safe _ hdrains
  have hmoved := judgeLoad_moved ((s.drainFrom byTime).without .heater)
  rw [endDefrost_eq]
  generalize judgeLoad ((s.drainFrom byTime).without .heater) = u at hsafe hmoved
  have hreported : (u.reported byTime).gear = u.gear := by
    unfold State.reported
    split
    · exact raise_gear _ _
    · rfl
  have hstate : u.gear.defrost = .draining := by
    rw [hgear] at hmoved
    exact hmoved.heater (Gear.notMem_without _ _)
  exact ite_safe (fun _ => endDraining_safe (hsafe.of hreported) ((congrArg Gear.defrost hreported).trans hstate)) fun _ =>
    hsafe.of hreported

theorem judgeTermination_safe (h : s.gear.safe l) : (judgeTermination judgeLoad s).gear.safe l := by
  unfold judgeTermination
  split
  · exact h
  · refine ite_safe (fun hends => endDefrost_safe h ?_ false) fun _ => h
    exact (Bool.and_eq_true_iff.mp hends).1

theorem takeSample_safe (h : s.gear.safe l) (a b e : BitVec 12) : (takeSample judgeLoad a b e s).gear.safe l := by
  have hchannels : (updateFallback (judgeSpread (sampleChannels a b e (takeSetpoint s)))).gear.safe l :=
    h.of ((updateFallback_gear _).trans ((judgeSpread_gear _).trans (sampleChannels_gear a b e (takeSetpoint s))))
  refine Gear.safe.of (judgeTermination_safe ?_) (judgeZone_gear _)
  exact ite_safe (fun _ => hchannels) fun _ => thermostat_safe hchannels

end

end Sys2Proof.Machine

/-! Every command keeps the gear safe, and so the relays apart and the motors under their grant (R81, R94, R157, R163). -/

namespace Sys2Proof.Machine

section
variable {s t u : State} {l : Guard} {slot : Nat}

/-! ## Cards -/

theorem endBadCard_gear (slot off : Nat) (s : State) : (endBadCard slot off s).gear = s.gear :=
  (complete_gear _ _ _).trans (putSlot_gear _ _ _ _)

/-- The dispatcher, once for all: what the owner of a card keeps safe, the take and the answer of that card keep safe. -/
theorem dispatch_safe {k : CardKind} {handle : Nat → State → State}
    (hhandle : ∀ {slot : Nat} {s : State}, s.gear.safe l → s.ready = true → (handle slot s).gear.safe l)
    (h : s.gear.safe l) : (dispatch k handle s).gear.safe l := by
  unfold dispatch State.headSlot
  by_cases hworks : s.working = true
  · have htaken (slot : Nat) : (takeHead slot s).gear.safe l := h.of (takeHead_gear _ _)
    have hready (slot : Nat) : (takeHead slot s).ready = true := by simp [takeHead, working_ready hworks]
    rw [if_pos hworks]
    repeat' split
    · exact h
    · exact (htaken _).of (endBadCard_gear _ _ _)
    · exact hhandle (htaken _) (hready _)
    · exact h
  · rw [if_neg hworks]
    exact h

theorem completeOk_safe (h : s.gear.safe l) : (completeOk slot s).gear.safe l := h.of (completeOk_gear _ _)

theorem applyCancel_safe (h : s.gear.safe l) : (applyCancel slot s).gear.safe l := by
  have hended (n : Nat) (o : CardOutcome) (u : State) : (endCancel slot n o u).gear = u.gear := complete_gear _ _ _
  have hcancelled (slots : List Nat) (u : State) : (closeBasket (cancelQueued slots u)).gear = u.gear :=
    (closeBasket_gear _).trans (cancelQueued_gear _ _)
  unfold applyCancel
  dsimp only
  split
  · exact h.of (hended _ _ _)
  · exact h.of (hended _ _ _)
  · exact h.of ((hended _ _ _).trans (hcancelled _ _))
  · exact Gear.safe.of (verdict_safe judgeLoad_keepsGear h _) ((hended _ _ _).trans (hcancelled _ _))

theorem applyLoad_safe (h : s.gear.safe l) (m : LoadSettings) : (applyLoad slot m s).gear.safe l := by
  refine completeOk_safe (judgeLoad_keepsGear.safe _ (h.of ?_))
  simp [State.gear_def, resizeClaims]

theorem applySetLoad_safe (h : s.gear.safe l) : (applySetLoad slot s).gear.safe l :=
  ite_safe (fun _ => applyLoad_safe h _) fun _ => h.of (complete_gear _ _ _)

theorem applyCooling_safe (h : s.gear.safe l) (hready : s.ready = true) (c : CoolingSettings) :
    (applyCooling slot c s).gear.safe l := by
  have hput : (putCooling c s).gear.safe l := h.of (putCooling_gear _ _)
  have hputReady : (putCooling c s).ready = true := (congrArg Gear.ready (putCooling_gear c s)).trans hready
  exact completeOk_safe (ite_safe (fun _ => hput) fun _ => judgeDue_safe hput hputReady)

theorem defaultCooling_safe (h : s.gear.safe l) : (defaultCooling slot s).gear.safe l := by
  have hput : (putCooling .factory s).gear.safe l := h.of (putCooling_gear _ _)
  exact completeOk_safe (ite_safe (fun _ => hput) fun _ => callIfReached_safe hput)

theorem defaultSpiralGroup_gear (slot : Nat) (s : State) : (defaultSpiralGroup slot s).gear = s.gear := by
  unfold defaultSpiralGroup
  split
  · exact complete_gear _ _ _
  · exact (completeOk_gear _ _).trans (defaultSpirals_gear _ _)

theorem defaultCoinGroup_gear (slot : Nat) (s : State) : (defaultCoinGroup slot s).gear = s.gear := by
  unfold defaultCoinGroup
  split
  · exact complete_gear _ _ _
  · exact (completeOk_gear _ _).trans (recomputeChange_gear _)

theorem applyDefaults_safe (h : s.gear.safe l) : (applyDefaults slot s).gear.safe l := by
  unfold applyDefaults
  split
  · exact h.of (applyMoney_gear _ _ _)
  · exact completeOk_safe (by exact h)
  · exact applyLoad_safe h _
  · exact completeOk_safe (h.of (applyPort_gear _ _))
  · exact defaultCooling_safe h
  · exact h.of (defaultSpiralGroup_gear _ _)
  · exact h.of (defaultCoinGroup_gear _ _)
  · exact h

theorem takeDefrostNow_safe (h : s.gear.safe l) (hready : s.ready = true) : (takeDefrostNow slot s).gear.safe l :=
  ite_safe (fun _ => h.of (complete_gear _ _ _)) fun _ => becomeDue_safe (by exact h) hready

/-! ## The supply -/

/-- A restart leaves nothing in flight and both machines at their start (R170, R181). -/
theorem restart_safe (reason : RestartReason) (pins : Pins) (s : State) : (restart reason pins s).gear.safe l := by
  have hrestored (i : Image) (lost : Bool) : (restored reason pins i lost s).gear.safe l := by
    cases l with
    | relays =>
      have hrests : ¬ (restored reason pins i lost s).gear.defrosting := fun hd => hd.1 rfl
      exact ⟨.nil, nofun, fun hd => absurd hd hrests, nofun, fun _ => ⟨rfl, hrests⟩⟩
    | motors => exact ⟨nofun, nofun, fun _ => nofun, fun _ => rfl⟩
  have hbegun (u : State) : (recomputeChange (count .restarts 1 u)).gear = u.gear := recomputeChange_gear _
  unfold restart
  split
  · exact (hrestored _ _).of (hbegun _)
  · exact (hrestored _ _).of (hbegun _)

/-- The part becomes ready with nothing in flight and the compressor at rest (R158, R181). -/
theorem finishRestart_safe (h : s.gear.safe l) (hready : s.gear.ready = false) (active : PulseInputs) :
    (finishRestart active s).gear.safe l := by
  cases l with
  | relays =>
    obtain ⟨hcomp, hdefrost⟩ := h.restart hready
    exact { h with
      atRest := fun hd => absurd hd hdefrost
      restTimed := fun _ => hcomp
      restart := nofun }
  | motors =>
    obtain ⟨hgranted, henergised, _, hrestart⟩ := h
    have hnone : s.gear.flight = none := hrestart hready
    refine ⟨hgranted, fun he => absurd ((henergised he).2.2.1) (by simp [hready]), fun _ f hf => ?_, nofun⟩
    exact nomatch hnone.symm.trans hf

theorem countInterrupted_gear (s : State) : (countInterrupted s).gear = s.gear := by
  unfold countInterrupted
  repeat' split
  all_goals rfl

theorem stopOutputs_gear (s : State) : (stopOutputs s).gear = { s.gear with energised := false } := by
  simp [State.gear_def, stopOutputs]

theorem beginSave_gear (s : State) : (beginSave s).gear = s.gear := rfl

theorem assertPfail_safe (h : s.gear.safe l) : (assertPfail s).gear.safe l := by
  have hcounted := (settleRun_safe h).of (countInterrupted_gear _)
  unfold assertPfail
  generalize countInterrupted (settleRun s) = u at hcounted
  rw [beginSave_gear, stopOutputs_gear]
  have hwarned := hcounted.warned (p := .asserted) (e := false) nofun fun _ => rfl
  exact hwarned

/-- Under a PFAIL warning the motors stand (R94). -/
theorem still_of_warning (h : s.gear.safe .motors) (hpfail : s.pfail ≠ .clear) : s.gear.energised = false := by
  by_contra he
  exact hpfail (h.2.1 (by simpa using he)).2.2.2

/-- The supply warns once more, or is back and waits for the save (R180). -/
theorem warned_safe {p : Pfail} (h : s.gear.safe l) (hpfail : s.pfail ≠ .clear) (hp : p ≠ .clear) :
    (State.gear { s with pfail := p }).safe l := by
  have hwarned := h.warned (e := s.gear.energised) hp fun hl => still_of_warning (hl ▸ h) hpfail
  exact hwarned

theorem completeSave_safe (h : s.gear.safe l) (pins : Pins) (i : Image) : (completeSave pins i s).gear.safe l := by
  unfold completeSave
  dsimp only
  split
  · exact Gear.safe.of (by exact h) (afterSave_gear _ _)
  · exact h
  · exact restart_safe _ _ _

end

/-! ## Every command -/

/-- A next state, if there is one, has a safe gear. -/
def nextSafe (l : Guard) (o : Host.Outcome State Fault Refusal) : Prop := ∀ t, o = .next t → t.gear.safe l

theorem nextSafe.next {l : Guard} {t : State} (h : t.gear.safe l) : nextSafe l (.next t) := by
  rintro _ ⟨rfl⟩
  exact h

section
variable {l : Guard} {s : State} (h : s.gear.safe l)
include h

theorem execMemoryRead_safe (start : Option Half) (count : Nat) : nextSafe l (execMemoryRead start count s) := by
  refine .next ?_
  split
  · exact h
  · exact h
  · exact h

theorem execNoticeRead_safe (read : RegisterRead) : nextSafe l (execNoticeRead read s) :=
  .next (ite_safe (fun _ => h.of (clearNotice_gear _)) fun _ => h)

theorem execPortReset_safe (released : Bool) : nextSafe l (execPortReset s released) :=
  .next (ite_safe (fun _ => Gear.safe.of (by exact h) (raise_gear _ _)) fun _ => h)

theorem execKeepalivePeriodEnd_safe : nextSafe l (execKeepalivePeriodEnd s) := by
  refine .next ?_
  split
  · exact ite_safe (fun _ => Gear.safe.of (by exact h) (periodEnds_gear _)) fun _ => h
  · exact h

theorem execSilentReturnExpiry_safe : nextSafe l (execSilentReturnExpiry s) := by
  refine .next ?_
  split
  · exact ite_safe (fun _ => Gear.safe.of (by exact h) (requestReturnIfAny_gear _ _)) fun _ => h
  · exact h

theorem execBadCard_safe : nextSafe l (execBadCard s) := by
  refine .next ?_
  repeat' split
  · exact h
  · exact h.of ((endBadCard_gear _ _ _).trans (takeHead_gear _ _))
  · exact h

theorem execLoadWaitExpiry_safe : nextSafe l (execLoadWaitExpiry s) := by
  refine .next ?_
  split
  · exact endFlight_safe (by exact h) _ _
  · exact h

theorem execCamEdgeConsumed_safe (column : Fin 10) : nextSafe l (execCamEdgeConsumed column s) := by
  refine .next ?_
  split
  · exact h
  · next r hrev =>
    split
    · exact ite_safe (fun _ => consumeEdge_safe (by exact h) (by simp [State.reach, hrev]) _ _ _) fun _ => h
    · exact h

theorem execCamLeaveLimit_safe : nextSafe l (execCamLeaveLimit s) := by
  refine .next ?_
  split
  · exact h
  · next r hrev => exact ite_safe (fun _ => takeLimit_safe (by exact h) (by simp [State.reach, hrev]) _ _ _) fun _ => h

theorem execRevolutionLimit_safe : nextSafe l (execRevolutionLimit s) := by
  refine .next ?_
  split
  · exact h
  · next r hrev => exact ite_safe (fun _ => takeLimit_safe (by exact h) (by simp [State.reach, hrev]) _ _ _) fun _ => h

theorem execJamTimerExpiry_safe : nextSafe l (execJamTimerExpiry s) := by
  refine .next ?_
  repeat' split
  · exact h
  · exact jamReport_safe (by exact h)
  · exact h
  · exact h

theorem execMotorShort_safe (current : Nat) : nextSafe l (execMotorShort current s) :=
  .next (ite_safe (fun _ => shortReport_safe h) fun _ => h)

theorem execOffCurrentCheckPass_safe (highest : Nat) : nextSafe l (execOffCurrentCheckPass highest s) := by
  refine .next ?_
  split
  · refine ite_safe (fun _ => completeOk_safe ?_) fun _ => h
    exact Gear.safe.of (by exact h) (raise_gear _ _)
  · exact h

theorem execOffCurrentCheckFail_safe (highest : Nat) : nextSafe l (execOffCurrentCheckFail highest s) := by
  refine .next ?_
  split
  · exact ite_safe (fun _ => Gear.safe.of (by exact h) (complete_gear _ _ _)) fun _ => h
  · exact h

theorem execBeamChange_safe (after : Nat) (blocked : Bool) : nextSafe l (execBeamChange after blocked s) :=
  .next (ite_safe (fun _ => h) fun _ => h)

theorem execDropRecognised_safe : nextSafe l (execDropRecognised s) :=
  .next (ite_safe (fun _ => giveDrop_safe (by exact h)) fun _ => h)

theorem execDropSensorFault_safe : nextSafe l (execDropSensorFault s) :=
  .next (ite_safe (fun _ => sensorFails_safe h) fun _ => h)

theorem execDropSensorRecovery_safe : nextSafe l (execDropSensorRecovery s) :=
  .next (ite_safe (fun _ => Gear.safe.of (by exact h) (raise_gear _ _)) fun _ => h)

theorem execDropWaitExpiry_safe : nextSafe l (execDropWaitExpiry s) := by
  refine .next ?_
  split
  · next f hf =>
    split
    · exact ite_safe (fun hwaits => dropWaitEnds_safe (by exact h) hf hwaits.2 hwaits.1) fun _ => h
    · exact h
  · exact h

theorem execDoorStateChange_safe (door : DoorState) : nextSafe l (execDoorStateChange door s) := by
  refine .next (ite_safe (fun _ => h) fun hchanges => ?_)
  have hworking : (raise .door { s with door := door }).working = s.working := by simp [raise_bits, State.working]
  dsimp only
  rw [hworking]
  exact doorAborts_safe h (Ne.symm hchanges) ((raise_gear _ _).trans rfl) (by simp [raise_bits])

theorem execCoinArrival_safe (channel : Fin 6) (returned : Bool) : nextSafe l (execCoinArrival channel s returned) :=
  .next (ite_safe (fun _ => Gear.safe.of (by exact h) (coinArrives_gear _ _)) fun _ => h)

theorem execGateTimerExpiry_safe (tube : Fin 4) : nextSafe l (execGateTimerExpiry tube s) := by
  refine .next ?_
  split
  · exact h
  · exact h

theorem execCoinReturnLever_safe : nextSafe l (execCoinReturnLever s) :=
  .next (ite_safe (fun _ => h.of ((requestReturnIfAny_gear _ _).trans (raise_gear _ _))) fun _ => h)

theorem execPayoutStart_safe : nextSafe l (execPayoutStart s) := by
  refine .next ?_
  split
  · next hnone => exact ite_safe (fun _ => startPayout_safe h hnone _ _) fun _ => h
  · exact h

theorem execEjectorPulseEnd_safe : nextSafe l (execEjectorPulseEnd s) := by
  refine .next ?_
  split
  · exact ite_safe (fun _ => afterPulse_safe (by exact h) _) fun _ => h
  · exact h

theorem execExitCoinSeen_safe (returned : Bool) : nextSafe l (execExitCoinSeen s returned) :=
  .next (ite_safe (fun _ => exitCoin_safe (by exact h)) fun _ => h)

theorem execConfirmWindowExpiry_safe : nextSafe l (execConfirmWindowExpiry s) := by
  refine .next ?_
  split
  · next p a hp _ =>
    exact ite_safe (fun _ => missCoin_safe (by exact h) (by simp [State.missed, State.reach, hp]) _ _) fun _ => h
  · exact h

theorem execSample_safe (a b e : BitVec 12) : nextSafe l (execSample a b e s) := by
  refine .next ?_
  split
  · exact ite_safe (fun _ => takeSample_safe (by exact h) _ _ _) fun _ => h
  · exact h

theorem execMinOffExpiry_safe : nextSafe l (execMinOffExpiry s) := by
  refine .next ?_
  split
  · next hminOff =>
    refine ite_safe (fun hworks => enterIdle_safe (by exact h) ?_ (working_ready hworks)) fun _ => h
    simp [State.gear, State.reach, hminOff]
  · exact h

theorem execMinOnExpiry_safe : nextSafe l (execMinOnExpiry s) := by
  refine .next ?_
  split
  · exact ite_safe (fun _ => minOnEnds_safe (by exact h)) fun _ => h
  · exact h

theorem execStartWindowExpiry_safe : nextSafe l (execStartWindowExpiry s) := by
  refine .next ?_
  split
  · exact ite_safe (fun hstarting => windowEnds_safe (by exact h) hstarting.2) fun _ => h
  · exact h

theorem execFallbackPhaseExpiry_safe : nextSafe l (execFallbackPhaseExpiry s) := by
  refine .next ?_
  split
  · exact ite_safe (fun _ => phaseStarts_safe (by exact h) _) fun _ => h
  · exact h

theorem execDefrostDue_safe : nextSafe l (execDefrostDue s) := by
  refine .next (ite_safe (fun hworks => startIfOff_safe (callIfReached_safe h) fun _ => ?_) fun _ => h)
  unfold callIfReached
  split
  · exact (callDefrost_ready s).trans (working_ready hworks)
  · exact working_ready hworks

theorem execDefrostForcedStop_safe : nextSafe l (execDefrostForcedStop s) := by
  refine .next ?_
  split
  · exact ite_safe (fun hdue => forcedStop_safe (by exact h) hdue.2 (working_ready hdue.1)) fun _ => h
  · exact h

theorem execDefrostTimerExpiry_safe : nextSafe l (execDefrostTimerExpiry s) := by
  refine .next ?_
  split
  · exact ite_safe (fun hends => endDefrost_safe (s := s.reach _) (by exact h) hends.2 true) fun _ => h
  · exact h

theorem execDrainingEnd_safe : nextSafe l (execDrainingEnd s) := by
  refine .next ?_
  split
  · exact ite_safe (fun hdrains => endDraining_safe (by exact h) hdrains.2) fun _ => h
  · exact h

theorem execRecoveryGraceEnd_safe : nextSafe l (execRecoveryGraceEnd s) := by
  refine .next ?_
  split
  · exact ite_safe (fun _ => h) fun _ => h
  · exact h

theorem execRunTimeAccumulatorSecond_safe : nextSafe l (execRunTimeAccumulatorSecond s) := by
  refine .next ?_
  split
  · exact ite_safe (fun hworks => judgeDue_safe (by exact h) (working_ready hworks)) fun _ => h
  · exact h

theorem execSaveComplete_safe (pins : Pins) : nextSafe l (execSaveComplete pins s) := by
  refine .next ?_
  split
  · exact h
  · exact completeSave_safe h _ _

theorem execPfailAssert_safe : nextSafe l (execPfailAssert s) := by
  refine .next ?_
  split
  · exact assertPfail_safe h
  · next hreleased =>
    rw [beginSave_gear]
    exact warned_safe h (by simp [hreleased]) nofun
  · exact h

theorem execPfailRelease_safe (pins : Pins) : nextSafe l (execPfailRelease pins s) := by
  refine .next ?_
  split
  · next hasserted =>
    exact ite_safe (fun _ => warned_safe h (by simp [hasserted]) nofun) fun _ => restart_safe _ _ _
  · exact h
  · exact h

theorem execRestartSequenceEnd_safe (active : PulseInputs) : nextSafe l (execRestartSequenceEnd s active) :=
  .next (ite_safe (fun _ => h) fun hready => finishRestart_safe h (Bool.not_eq_true _ ▸ hready) _)

/-- Every command keeps the gear safe. -/
theorem exec_safe (i : Instr) : nextSafe l (exec i s) := by
  cases i with
  | memoryRead start count => exact execMemoryRead_safe h start count
  | memoryWrite addr data completed => exact .next (ite_safe (fun _ => h.of (applyWrite_gear _ _ _ _)) fun _ => h)
  | unknownCommand command => exact .next (ite_safe (fun _ => h.of (countRefused_gear s)) fun _ => h)
  | noticeRead read => exact execNoticeRead_safe h read
  | noticeMaskWrite data => exact .next (ite_safe (fun _ => h.of (writeRegister_gear _ _ _)) fun _ => h)
  | registerWriteRefused register data => exact .next (ite_safe (fun _ => h.of (writeRegister_gear _ _ _)) fun _ => h)
  | portReset released => exact execPortReset_safe h released
  | keepalivePeriodEnd => exact execKeepalivePeriodEnd_safe h
  | silentReturnExpiry => exact execSilentReturnExpiry_safe h
  | badCard => exact execBadCard_safe h
  | vend => exact .next (dispatch_safe (fun h _ => h.of (takeVend_gear _ _)) h)
  | cancel => exact .next (dispatch_safe (fun h _ => applyCancel_safe h) h)
  | returnCredit => exact .next (dispatch_safe (fun h _ => h.of (requestReturn_gear _ _ _)) h)
  | payout => exact .next (dispatch_safe (fun h _ => h.of (takePayout_gear _ _)) h)
  | tubeFill => exact .next (dispatch_safe (fun h _ => h.of (applyTubeFill_gear _ _)) h)
  | setSpiral => exact .next (dispatch_safe (fun h _ => h.of (applySetSpiral_gear _ _)) h)
  | setCoin => exact .next (dispatch_safe (fun h _ => h.of (applySetCoin_gear _ _)) h)
  | setMoney => exact .next (dispatch_safe (fun h _ => h.of (applyMoney_gear _ _ _)) h)
  | setVend => exact .next (dispatch_safe (fun h _ => completeOk_safe (by exact h)) h)
  | setCooling => exact .next (dispatch_safe (fun h hready => applyCooling_safe h hready _) h)
  | setLoad => exact .next (dispatch_safe (fun h _ => applySetLoad_safe h) h)
  | setPort => exact .next (dispatch_safe (fun h _ => completeOk_safe (h.of (applyPort_gear _ _))) h)
  | defaults => exact .next (dispatch_safe (fun h _ => applyDefaults_safe h) h)
  | releaseZone => exact .next (dispatch_safe (fun h _ => h.of (applyReleaseZone_gear _ _)) h)
  | defrostNow => exact .next (dispatch_safe takeDefrostNow_safe h)
  | testSpiral => exact .next (dispatch_safe (fun h _ => h.of (takeTest_gear _ _)) h)
  | resumeDrive => exact .next (dispatch_safe (fun h _ => h.of (takeResumeDrive_gear _ _)) h)
  | snapshot => exact .next (dispatch_safe (fun h _ => h.of (takeSnapshot_gear _ _)) h)
  | store => exact .next (dispatch_safe (fun h _ => h.of (takeStore_gear _ _)) h)
  | vendCheckStage => exact .next (takeQueueHead_safe h fun e _ h hnone hready => checkVend_safe h hnone hready e)
  | testCheckStage => exact .next (takeQueueHead_safe h fun e _ h hnone hready => checkTest_safe h hnone hready e)
  | loadWaitExpiry => exact execLoadWaitExpiry_safe h
  | camLineChange after spiral level => exact .next (camLine_safe (by exact h) spiral level)
  | camEdgeConsumed column => exact execCamEdgeConsumed_safe h column
  | camLeaveLimit => exact execCamLeaveLimit_safe h
  | revolutionLimit => exact execRevolutionLimit_safe h
  | motorCurrentChange after current => exact .next (setCurrent_safe (by exact h) current)
  | jamTimerExpiry => exact execJamTimerExpiry_safe h
  | motorShort current => exact execMotorShort_safe h current
  | offCurrentCheckPass highest => exact execOffCurrentCheckPass_safe h highest
  | offCurrentCheckFail highest => exact execOffCurrentCheckFail_safe h highest
  | beamChange after blocked => exact execBeamChange_safe h after blocked
  | dropRecognised => exact execDropRecognised_safe h
  | dropSensorFault => exact execDropSensorFault_safe h
  | dropSensorRecovery => exact execDropSensorRecovery_safe h
  | dropWaitExpiry => exact execDropWaitExpiry_safe h
  | doorStateChange door => exact execDoorStateChange_safe h door
  | coinArrival channel returned => exact execCoinArrival_safe h channel returned
  | gateTimerExpiry tube => exact execGateTimerExpiry_safe h tube
  | fullSensorChange tube full => exact .next h
  | coinReturnLever => exact execCoinReturnLever_safe h
  | payoutStart => exact execPayoutStart_safe h
  | ejectorPulseEnd => exact execEjectorPulseEnd_safe h
  | exitCoinSeen returned => exact execExitCoinSeen_safe h returned
  | confirmWindowExpiry => exact execConfirmWindowExpiry_safe h
  | sample cabA cabB evap => exact execSample_safe h cabA cabB evap
  | minOffExpiry => exact execMinOffExpiry_safe h
  | minOnExpiry => exact execMinOnExpiry_safe h
  | startWindowExpiry => exact execStartWindowExpiry_safe h
  | fallbackPhaseExpiry => exact execFallbackPhaseExpiry_safe h
  | defrostDue => exact execDefrostDue_safe h
  | defrostForcedStop => exact execDefrostForcedStop_safe h
  | defrostTimerExpiry => exact execDefrostTimerExpiry_safe h
  | drainingEnd => exact execDrainingEnd_safe h
  | recoveryGraceEnd => exact execRecoveryGraceEnd_safe h
  | saveComplete pins => exact execSaveComplete_safe h pins
  | pfailAssert => exact execPfailAssert_safe h
  | pfailRelease pins => exact execPfailRelease_safe h pins
  | resetAssert pins => exact .next (restart_safe _ _ _)
  | powerOn pins => exact .next (restart_safe _ _ _)
  | restartSequenceEnd active => exact execRestartSequenceEnd_safe h active
  | runTimeAccumulatorSecond => exact execRunTimeAccumulatorSecond_safe h

end

theorem step_safe {l : Guard} {s t : State} (h : s.gear.safe l) (hstep : step s = .next t) : t.gear.safe l := by
  unfold step at hstep
  split at hstep
  · obtain ⟨rfl⟩ := hstep
    exact h.of (idle_gear s)
  · exact exec_safe (by exact h) _ t hstep

/-- Beside a closed heater relay a defrost is in progress, and the compressor rests (R157, R163). -/
theorem relays_apart {s : State} (h : s.coolingOk) : ¬ (s.compressorRelay = true ∧ s.heaterRelay = true) := by
  rintro ⟨hcompressor, hheater⟩
  have hheats : s.defrost.state = .heating := beq_iff_eq.mp (Bool.and_eq_true_iff.mp hheater).2
  obtain ⟨-, hatRest, -, -⟩ := h
  obtain ⟨hrests, -⟩ := hatRest (by simp [Defrost.inProgress, hheats])
  have hruns : s.comp.state.runs = true := (Bool.and_eq_true_iff.mp hcompressor).2
  simp [hrests, CompressorState.runs] at hruns

/-- Settles O60: each guard of the gear is kept by every command (`step_safe`). -/
theorem everyStepKeepsTheRelaysAndTheMotors : Obligations.EveryStepKeepsTheRelaysAndTheMotors := by
  refine ⟨fun s t hs hstep => ?_, fun s t hs hstep => motors_safe_iff.mp (step_safe (motors_safe_iff.mpr hs) hstep)⟩
  have ht : t.coolingOk := relays_safe_iff.mp (step_safe (relays_safe_iff.mpr hs) hstep)
  exact ⟨ht, relays_apart ht⟩

end Sys2Proof.Machine

/-! When a defrost is called for, and what its start and the end of a run come to where the load of the compressor lets no
other claim in (R157, R158, R161, R162). -/

namespace Sys2Proof.Machine

section
variable {s : State}

/-! ## The call for a defrost -/

theorem callDefrost_of_notDue (h : s.defrost.state = .notDue) :
    callDefrost s =
      { s with defrost := { s.defrost with state := .due, forcedAt := some (s.now + 3600000), forced := false } } :=
  if_pos h

theorem callDefrost_of_ne (h : s.defrost.state ≠ .notDue) : callDefrost s = s := if_neg h

theorem intervalReached_iff : s.intervalReached = true ↔ s.dueByTime := by
  simp [State.intervalReached, State.dueByTime, Nat.mul_comm 3600]

theorem callIfReached_of_due (h : s.dueByTime) : callIfReached s = callDefrost s := if_pos (intervalReached_iff.mpr h)

theorem callIfReached_of_not_due (h : ¬ s.dueByTime) : callIfReached s = s := if_neg fun hr => h (intervalReached_iff.mp hr)

/-- The whole seconds of a run are counted, without the judgement of the interval (R161). -/
def State.secondsCounted (s : State) : State :=
  { s with runTime := min maxRunTime (s.runTime + s.secondsDue), runSecond := s.runSecond.map (· + 1000 * s.secondsDue) }

theorem settleRun_def (s : State) : settleRun s = if s.secondsDue = 0 then s else callIfReached s.secondsCounted := rfl

theorem runCounted_def (s : State) :
    runCounted s = if s.secondsDue = 0 then s
      else if s.secondsCounted.dueByTime ∧ s.secondsCounted.defrost.state = .notDue then
        { s.secondsCounted with
          defrost := { s.secondsCounted.defrost with state := .due, forcedAt := some (s.now + 3600000), forced := false } }
      else s.secondsCounted := rfl

theorem settleRun_eq_runCounted (s : State) : settleRun s = runCounted s := by
  rw [settleRun_def, runCounted_def]
  refine if_congr Iff.rfl rfl ?_
  by_cases hreached : s.secondsCounted.dueByTime
  · rw [callIfReached_of_due hreached]
    by_cases hnotDue : s.secondsCounted.defrost.state = .notDue
    · rw [callDefrost_of_notDue hnotDue, if_pos ⟨hreached, hnotDue⟩]
      rfl
    · rw [callDefrost_of_ne hnotDue, if_neg fun h => hnotDue h.2]
  · rw [callIfReached_of_not_due hreached, if_neg fun h => hreached h.1]

/-! ## The start of a defrost -/

/-- What a defrost starts from but for the accumulator, the second that runs and the call itself (R162). -/
theorem defrostBegun_called (s : State) (runTime : Nat) (runSecond forcedAt : Option Nat) (state : DefrostState) (forced : Bool) :
    defrostBegun { s with
      runTime := runTime, runSecond := runSecond,
      defrost := { s.defrost with state := state, forcedAt := forcedAt, forced := forced } } = defrostBegun s := rfl

theorem defrostBegun_callDefrost (s : State) : defrostBegun (callDefrost s) = defrostBegun s := by
  unfold callDefrost
  split
  · exact defrostBegun_called s s.runTime s.runSecond _ _ _
  · rfl

theorem defrostBegun_runCounted (s : State) : defrostBegun (runCounted s) = defrostBegun s := by
  rw [runCounted_def]
  split
  · rfl
  · split
    · exact defrostBegun_called s _ _ _ _ _
    · exact defrostBegun_called s _ _ s.defrost.forcedAt s.defrost.state s.defrost.forced

theorem startDefrost_alone (h : (s.without .compressor).headStays) : startDefrost judgeLoad s = defrostBegun s := by
  have hstands : judgeLoad s.unloaded = s.unloaded := judgeLoad_of_full h
  rw [startDefrost_eq, hstands]
  rfl

theorem startIfOff_of_waits (hdue : s.defrost.state = .due) (hoff : ¬ s.compressorRuns)
    (hstays : (s.without .compressor).headStays) : startIfOff judgeLoad s = defrostBegun s := by
  have hstops : s.comp.state.runs = false := Bool.eq_false_iff.mpr fun hr => hoff ((comp_runs_iff s).mp hr)
  exact (if_pos ⟨hdue, hstops⟩).trans (startDefrost_alone hstays)

theorem startIfOff_of_not_waits (h : s.defrost.state = .due → s.compressorRuns) : startIfOff judgeLoad s = s := by
  refine if_neg fun ⟨hdue, hoff⟩ => ?_
  simp [(comp_runs_iff s).mpr (h hdue)] at hoff

/-- A call for a defrost leaves what the compressor and the arbiter are about. -/
theorem callDefrost_frame (s : State) : callDefrost s = { s with defrost := (callDefrost s).defrost } := by
  unfold callDefrost
  split <;> rfl

theorem becomeDue_called (h : s.defrost.state = .notDue) : defrostCalled s (becomeDue judgeLoad s) := by
  refine ⟨fun hruns => ?_, fun hoff hstays => ?_⟩
  · rw [becomeDue, callDefrost_of_notDue h]
    exact startIfOff_of_not_waits fun _ => hruns
  · have hdue : (callDefrost s).defrost.state = .due := by rw [callDefrost_of_notDue h]
    have hframe := callDefrost_frame s
    rw [becomeDue, startIfOff_of_waits hdue (by rw [hframe]; exact hoff) (by rw [hframe]; exact hstays),
      defrostBegun_callDefrost]

theorem becomeDue_of_ne (h : s.defrost.state ≠ .notDue) : becomeDue judgeLoad s = startIfOff judgeLoad s := by
  rw [becomeDue, callDefrost_of_ne h]

theorem judgeDue_judged (s : State) : dueJudged s (judgeDue judgeLoad s) := by
  by_cases hreached : s.dueByTime
  · have hjudges : judgeDue judgeLoad s = becomeDue judgeLoad s := if_pos (intervalReached_iff.mpr hreached)
    rw [hjudges]
    refine ⟨fun _ hnotDue => becomeDue_called hnotDue, fun _ hdue hoff hstays => ?_, fun hstands => ?_⟩
    · rw [becomeDue_of_ne (by simp [hdue])]
      exact startIfOff_of_waits hdue hoff hstays
    · obtain ⟨hne, hruns⟩ := hstands.resolve_left (not_not.mpr hreached)
      rw [becomeDue_of_ne hne]
      exact startIfOff_of_not_waits hruns
  · have hstands : judgeDue judgeLoad s = s := if_neg fun hr => hreached (intervalReached_iff.mp hr)
    exact ⟨fun h => absurd h hreached, fun h => absurd h hreached, fun _ => hstands⟩

/-! ## The end of a run -/

theorem runCounted_frame (s : State) : runCounted s = { s with
    runTime := (runCounted s).runTime, runSecond := (runCounted s).runSecond, defrost := (runCounted s).defrost } := by
  rw [← settleRun_eq_runCounted]
  exact settleRun_eq s

/-- Without a defrost that is DUE the compressor rests (R157, R158). -/
theorem cutOut_of_not_due (h : (runCounted s).defrost.state ≠ .due) :
    cutOut judgeLoad s = judgeLoad ((runCounted s).rested.without .compressor) := by
  rw [cutOut, settleRun_eq_runCounted]
  exact if_neg h

/-- A DUE defrost starts in place of the rest (R162). -/
theorem cutOut_of_due (h : (runCounted s).defrost.state = .due) (hstays : (s.without .compressor).headStays) :
    cutOut judgeLoad s = defrostBegun s := by
  have hcounted : ((runCounted s).without .compressor).headStays := by
    rw [runCounted_frame]
    exact hstays
  rw [cutOut, settleRun_eq_runCounted]
  exact (if_pos h).trans ((startDefrost_alone hcounted).trans (defrostBegun_runCounted s))

end

end Sys2Proof.Machine

/-! The compressor's timers and the second of running (R146, R157 to R159, R161). -/

namespace Sys2Proof.Machine

section
variable {s : State}

/-! ## The thermostat and the phase -/

theorem cutInReached_iff : s.cutInReached = true ↔ s.coldNeeded := by
  unfold State.cutInReached State.coldNeeded
  cases s.controlTemp <;> simp

theorem cutOutReached_iff : s.cutOutReached = true ↔ s.coldReached := by
  unfold State.cutOutReached State.coldReached
  cases s.controlTemp <;> simp

/-- What the compressor is called to do: by the phase in fallback, by the thermostat otherwise (R157, R159). -/
theorem phase_or_thermostat_iff {f : Option Fallback} {phase : Fallback → Bool} {judged : Bool} {p : Prop} {on : Bool}
    (hphase : ∀ g, phase g = true ↔ g.on = on) (hjudged : judged = true ↔ p) :
    (match f with | some g => phase g | none => judged) = true ↔ (∃ g, f = some g ∧ g.on = on) ∨ (f = none ∧ p) := by
  cases f with
  | none => simp [hjudged]
  | some g => simp [hphase]

/-! ## The timers -/

theorem execMinOffExpiry_of {m : Nat} (hworks : s.working = true) (hm : s.comp.minOff = some m) :
    execMinOffExpiry s = .next (enterIdle judgeLoad (s.reach m)) := by
  simp only [execMinOffExpiry, hm, hworks, if_true]

theorem execMinOnExpiry_of {m : Nat} (hworks : s.working = true) (hm : s.comp.minOn = some m) :
    execMinOnExpiry s = .next (minOnEnds judgeLoad (s.reach m)) := by
  simp only [execMinOnExpiry, hm, hworks, if_true]

theorem execStartWindowExpiry_of {m : Nat} (hworks : s.working = true) (hm : s.comp.window = some m)
    (hstarting : s.comp.state = .starting) : execStartWindowExpiry s = .next (windowEnds (s.reach m)) := by
  simp only [execStartWindowExpiry, hm, hworks, hstarting, and_self, if_true]

theorem execFallbackPhaseExpiry_of {f : Fallback} (hworks : s.working = true) (hf : s.fallback = some f) :
    execFallbackPhaseExpiry s = .next (phaseStarts judgeLoad (!f.on) (s.reach f.ends)) := by
  simp only [execFallbackPhaseExpiry, hf, hworks, if_true]

theorem execRunTimeAccumulatorSecond_of {m : Nat} (hworks : s.working = true) (hm : s.runSecond = some m) :
    execRunTimeAccumulatorSecond s = .next (judgeDue judgeLoad
      { s.reach m with runTime := min maxRunTime (s.runTime + 1), runSecond := some (m + 1000) }) := by
  simp only [execRunTimeAccumulatorSecond, hm, hworks, if_true]

/-- The grant of the compressor shrinks, and no other (R146). -/
theorem windowEnds_eq (s : State) : windowEnds s = judgeLoad { s with
    comp := { s.comp with state := .running, window := none },
    grants := s.grants.map fun g =>
      { g with size := if g.claimant = .compressor then min g.size s.loadSet.runSize else g.size } } := by
  have hshrinks : (fun g : Claim => if g.claimant = .compressor then { g with size := min g.size s.loadSet.runSize } else g) =
      fun g => { g with size := if g.claimant = .compressor then min g.size s.loadSet.runSize else g.size } := by
    funext g
    split <;> rfl
  rw [windowEnds, shrinkStart]
  dsimp only
  rw [hshrinks]

/-! ### The minimum on time -/

/-- A run is to stop: by the phase in fallback, by the thermostat otherwise (R157, R159). -/
def State.cutOutCalled (s : State) : Bool :=
  match s.fallback with
  | some f => !f.on
  | none => s.cutOutReached

theorem minOnEnds_eq (s : State) : minOnEnds judgeLoad s =
    if s.comp.state ≠ .running then { s with comp := { s.comp with minOn := none } }
    else if s.defrost.state = .due ∧ s.defrost.forced then
      startDefrost judgeLoad { s with comp := { s.comp with minOn := none } }
    else if s.cutOutCalled then cutOut judgeLoad { s with comp := { s.comp with minOn := none } }
    else { s with comp := { s.comp with minOn := none } } := rfl

theorem cutOutCalled_iff : s.cutOutCalled = true ↔
    (∃ f, s.fallback = some f ∧ f.on = false) ∨ (s.fallback = none ∧ s.coldReached) :=
  phase_or_thermostat_iff (fun f => by simp) cutOutReached_iff

theorem runCounted_due (h : s.defrost.state = .due) : (runCounted s).defrost.state = .due := by
  rw [runCounted_def]
  split
  · exact h
  · split
    · rfl
    · exact h

/-! ### The phase -/

/-- A fallback phase has begun (R159). -/
def State.inPhase (on : Bool) (s : State) : State := { s with fallback := some { on := on, ends := s.now + 900000 } }

theorem phaseStarts_on (s : State) : phaseStarts judgeLoad true s =
    if s.comp.state = .offIdle then claimStart judgeLoad (s.inPhase true) else s.inPhase true := by
  unfold phaseStarts
  dsimp only
  split
  · next hidle _ => exact (if_pos hidle).symm
  · next h => cases h
  · next h => cases h
  · next hother _ _ => exact (if_neg fun hidle => hother hidle rfl).symm

theorem phaseStarts_off (s : State) : phaseStarts judgeLoad false s =
    if s.comp.state = .claiming then withdrawStart judgeLoad (s.inPhase false)
    else if s.comp.state = .running ∧ s.comp.minOn.isNone then cutOut judgeLoad (s.inPhase false)
    else s.inPhase false := by
  unfold phaseStarts
  dsimp only
  split
  · next h => cases h
  · next hclaiming _ => exact (if_pos hclaiming).symm
  · next hrunning _ =>
    have hclaiming : s.comp.state ≠ .claiming := by simp [hrunning]
    rw [if_neg hclaiming]
    exact if_congr (by simp [hrunning]) rfl rfl
  · next _ hclaiming hrunning =>
    rw [if_neg fun h => hclaiming h rfl]
    exact (if_neg fun h => hrunning h.1 rfl).symm

end

/-- Settles O47: each timer by the equation of its end, a run's end by `cutOut_of_not_due` and `cutOut_of_due`. -/
theorem theCompressorTimersEnd : Obligations.TheCompressorTimersEnd := by
  intro s m hworks at_ phase stopped alone
  refine ⟨fun hm => ?_, fun hm hstarting => ?_, fun hm => ?_, fun on hf => ?_, fun hm => ?_⟩
  · intro u cutIn
    have hcalled : _ ↔ cutIn := phase_or_thermostat_iff (f := s.fallback) (fun _ => Iff.rfl) (cutInReached_iff (s := s))
    refine ⟨_, execMinOffExpiry_of hworks hm, fun h => ?_, fun h => ?_⟩
    · exact if_pos (hcalled.mpr h)
    · exact if_neg fun hin => h (hcalled.mp hin)
  · exact (execStartWindowExpiry_of hworks hm hstarting).trans (congrArg _ (windowEnds_eq _))
  · intro u out forced
    refine ⟨_, execMinOnExpiry_of hworks hm, fun hout hnotDue => ?_, fun hends halone => ?_, fun hout hforced => ?_⟩
    all_goals rw [minOnEnds_eq]
    · obtain ⟨hrunning, hcalled⟩ := hout
      have hunforced : ¬ (s.defrost.state = .due ∧ s.defrost.forced) := fun hf =>
        hnotDue (runCounted_due (s := u) hf.1)
      exact (if_neg (not_not.mpr hrunning)).trans ((if_neg hunforced).trans
        ((if_pos (cutOutCalled_iff.mpr hcalled)).trans (cutOut_of_not_due hnotDue)))
    · have hrunning : s.comp.state = .running := hends.elim And.left (·.1.1)
      refine (if_neg (not_not.mpr hrunning)).trans ?_
      by_cases hf : s.defrost.state = .due ∧ s.defrost.forced = true
      · exact (if_pos hf).trans (startDefrost_alone halone)
      · obtain ⟨⟨-, hcalled⟩, hdue⟩ := hends.resolve_left fun h => hf h.2
        exact (if_neg hf).trans ((if_pos (cutOutCalled_iff.mpr hcalled)).trans (cutOut_of_due hdue halone))
    · by_cases hrunning : s.comp.state = .running
      · exact (if_neg (not_not.mpr hrunning)).trans ((if_neg fun hf => hforced ⟨hrunning, hf⟩).trans
          (if_neg fun hcalled => hout ⟨hrunning, cutOutCalled_iff.mp hcalled⟩))
      · exact if_pos hrunning
  · refine ⟨_, execFallbackPhaseExpiry_of hworks hf, ?_⟩
    intro u out
    have hcutsOut (hout : out) : phaseStarts judgeLoad (!on) (s.reach m) = cutOut judgeLoad u := by
      obtain ⟨rfl, hrunning, hfree⟩ := hout
      have hclaiming : s.comp.state ≠ .claiming := by simp [hrunning]
      exact (phaseStarts_off _).trans ((if_neg hclaiming).trans (if_pos ⟨hrunning, Option.isNone_iff_eq_none.mpr hfree⟩))
    refine ⟨fun hon hidle => ?_, fun hon hclaiming => ?_, fun hout hnotDue => ?_, fun hout hdue halone => ?_, fun hstands => ?_⟩
    · subst hon
      exact (phaseStarts_on _).trans (if_pos hidle)
    · subst hon
      exact (phaseStarts_off _).trans (if_pos hclaiming)
    · exact (hcutsOut hout).trans (cutOut_of_not_due hnotDue)
    · exact (hcutsOut hout).trans (cutOut_of_due hdue halone)
    · rcases hstands with ⟨rfl, hidle⟩ | ⟨rfl, hclaiming, hheld⟩
      · exact (phaseStarts_on _).trans (if_neg hidle)
      · refine (phaseStarts_off _).trans ((if_neg hclaiming).trans (if_neg fun ⟨hrunning, hfree⟩ => ?_))
        have hheld : s.comp.minOn.isSome = true := hheld hrunning
        exact absurd hfree (by simpa [State.reach, Option.isSome_iff_ne_none] using hheld)
  · exact ⟨_, execRunTimeAccumulatorSecond_of hworks hm, fun _ => judgeDue_judged _⟩

end Sys2Proof.Machine

/-! A defrost falls due, waits for the compressor and starts (R161, R162, R169). -/

namespace Sys2Proof.Machine

section
variable {s : State}

/-- A call judged again changes nothing (R161). -/
theorem callIfReached_stands (h : s.defrost.state = .notDue → ¬ s.dueByTime) : callIfReached s = s := by
  by_cases hreached : s.dueByTime
  · rw [callIfReached_of_due hreached]
    exact callDefrost_of_ne fun hnotDue => h hnotDue hreached
  · exact callIfReached_of_not_due hreached

theorem execDefrostDue_of (hworks : s.working = true) :
    execDefrostDue s = .next (startIfOff judgeLoad (callIfReached s)) := by
  simp only [execDefrostDue, hworks, if_true]

theorem execDefrostForcedStop_of {m : Nat} (hworks : s.working = true) (hdue : s.defrost.state = .due)
    (hm : s.defrost.forcedAt = some m) : execDefrostForcedStop s = .next (forcedStop judgeLoad (s.reach m)) := by
  simp only [execDefrostForcedStop, hm, hworks, hdue, and_self, if_true]

/-- A DEFROST_NOW is taken and held (R169). -/
def defrostCardHeld (slot : Nat) (s : State) : State :=
  { s with intake := s.intake.tail, mem := (takeSlot slot s).mem, defrost := { s.defrost with card := some slot } }

theorem exec_defrostNow {slot : Nat} (hhead : s.validHead .defrostNow slot) : exec .defrostNow s = .next
    (if s.defrost.inProgress = true ∨ s.defrost.card.isSome = true then
      complete slot .alreadyDefrosting (withResult s slot [] s)
    else becomeDue judgeLoad (defrostCardHeld slot s)) := by
  have htaken : takeHead slot s = { s with intake := s.intake.tail, mem := (takeSlot slot s).mem } := by
    rw [takeHead_eq, List.drop_one]
  change execDefrostNow s = _
  rw [execDefrostNow, dispatch_valid hhead, ← takeHead_eq_withResult, htaken]
  simp only [takeDefrostNow, defrostCardHeld, Bool.or_eq_true]

theorem defrostCardHeld_taken (hm : Memory.wf s.mem = true) (slot : Nat) :
    (defrostCardHeld slot s).takenIn slot ∧ keepsBytes s (defrostCardHeld slot s) (cardByte slot) := by
  have hmem : (defrostCardHeld slot s).mem = (takeHead slot s).mem := by simp only [defrostCardHeld, takeHead_mem]
  refine ⟨takenIn_congr hmem (takeHead_taken hm slot), fun a ha => ?_⟩
  rw [hmem]
  exact readCell_takeHead_kept hm ha

/-- A DEFROST_NOW that is held changes nothing of what a defrost waits for. -/
theorem defrostCardHeld_stands (slot : Nat) (s : State) :
    (defrostCardHeld slot s).defrost.state = s.defrost.state ∧ ((defrostCardHeld slot s).compressorRuns ↔ s.compressorRuns) ∧
      (((defrostCardHeld slot s).without .compressor).headStays ↔ (s.without .compressor).headStays) := by
  simp only [defrostCardHeld, State.compressorRuns, State.headStays, State.without, State.granted, true_and, iff_self]

end

/-- Settles O48: the call for a defrost by `becomeDue_called`, its start by `startIfOff_of_waits`. -/
theorem aDefrostFallsDueAndStarts : Obligations.ADefrostFallsDueAndStarts := by
  intro s hworks alone waits
  refine ⟨⟨_, execDefrostDue_of hworks, fun hnotDue hreached => ?_, fun hwaits halone => ?_, fun hwaits hcalled => ?_⟩,
    fun m hdue hm => ⟨_, execDefrostForcedStop_of hworks hdue hm, fun hfree halone => ?_, fun hheld => ?_⟩,
    fun slot hhead => ?_⟩
  · rw [callIfReached_of_due hreached]
    exact becomeDue_called hnotDue
  · rw [callIfReached_stands (by simp [hwaits.1])]
    exact startIfOff_of_waits hwaits.1 hwaits.2 halone
  · rw [callIfReached_stands hcalled]
    exact startIfOff_of_not_waits fun hdue => not_not.mp fun hoff => hwaits ⟨hdue, hoff⟩
  · exact (if_pos (Option.isNone_iff_eq_none.mpr hfree)).trans (startDefrost_alone halone)
  · have hnone : ¬ (s.reach m).comp.minOn.isNone = true := by simpa [State.reach, Option.isSome_iff_ne_none] using hheld
    exact if_neg hnone
  · rw [exec_defrostNow hhead]
    by_cases hrefused : s.defrost.inProgress = true ∨ s.defrost.card.isSome = true
    · rw [if_pos hrefused]
      refine ⟨_, rfl, ?_⟩
      dsimp only
      rw [if_pos hrefused]
      exact complete_answered hhead.wf hhead.ready (by simp) _
    · rw [if_neg hrefused]
      refine ⟨_, rfl, ?_⟩
      dsimp only
      rw [if_neg hrefused, ← defrostCardHeld]
      obtain ⟨htaken, hkept⟩ := defrostCardHeld_taken hhead.wf slot
      obtain ⟨hstate, hruns, hstays⟩ := defrostCardHeld_stands slot s
      refine ⟨htaken, hkept, fun hnotDue => becomeDue_called (hstate.trans hnotDue), fun hwaits halone => ?_,
        fun hdue hheld => ?_⟩
      · rw [becomeDue_of_ne (by simp [hstate, hwaits.1])]
        exact startIfOff_of_waits (hstate.trans hwaits.1) (fun h => hwaits.2 (hruns.mp h)) (hstays.mpr halone)
      · rw [becomeDue_of_ne (by simp [hstate, hdue])]
        exact startIfOff_of_not_waits fun _ => hruns.mpr hheld

end Sys2Proof.Machine

/-! The parts of a sample: what each of them writes (R152 to R159, R171 to R174), and the sample as their sequence. -/

namespace Sys2Proof.Machine

section
variable {s : State}

theorem sampleChannels_frame (a b e : BitVec 12) (s : State) : sampleChannels a b e s = { s with
    cabA := s.cabA.sampled s.coolSet.filterK (convert a s.coolSet.trimA),
    cabB := s.cabB.sampled s.coolSet.filterK (convert b s.coolSet.trimB),
    evap := s.evap.sampled s.coolSet.filterK (convert e s.coolSet.trimEvap),
    noticePending := (sampleChannels a b e s).noticePending } := by
  unfold sampleChannels raise
  dsimp only
  repeat' split
  all_goals rfl

theorem setAirflow_frame (b : Bool) (s : State) :
    setAirflow b s = { s with airflow := b, noticePending := (setAirflow b s).noticePending } := by
  unfold setAirflow raise
  dsimp only
  split
  · next hsame => rw [← hsame]
  · split <;> rfl

theorem judgeSpread_frame (s : State) : judgeSpread s = { s with
    airflow := (judgeSpread s).airflow, aboveCount := (judgeSpread s).aboveCount,
    withinCount := (judgeSpread s).withinCount, noticePending := (judgeSpread s).noticePending } := by
  unfold judgeSpread
  dsimp only
  repeat' split
  · rw [setAirflow_frame]
  · rfl
  · rw [setAirflow_frame]
  · rfl
  · rfl

theorem updateFallback_frame (s : State) : updateFallback s = { s with
    fallback := (updateFallback s).fallback, noticePending := (updateFallback s).noticePending } := by
  unfold updateFallback raise
  repeat' split
  all_goals rfl

theorem putZone_eq (z : ZoneState) (e : Nat) (s : State) :
    putZone z e s = { s with zone := z, exposure := e, noticePending := (putZone z e s).noticePending } := by
  unfold putZone raise
  dsimp only
  repeat' split
  all_goals rfl

theorem expose_frame (z : ZoneState) (s : State) : expose z s = { s with
    zone := (expose z s).zone, exposure := (expose z s).exposure, noticePending := (expose z s).noticePending,
    store := (expose z s).store } := by
  unfold expose lockZone beginSave
  dsimp only
  split
  · rw [putZone_eq]
  · rw [putZone_eq]

theorem judgeZone_frame (s : State) : judgeZone s = { s with
    zone := (judgeZone s).zone, exposure := (judgeZone s).exposure, noticePending := (judgeZone s).noticePending,
    store := (judgeZone s).store } := by
  unfold judgeZone
  repeat' split
  · rfl
  · rw [putZone_eq]
  · rfl
  · rw [putZone_eq]
  · rfl
  · exact expose_frame _ _
  · rw [putZone_eq]
  · rfl
  · exact expose_frame _ _

/-- The judgement of the zone writes the zone, E, the notices and the store alone (R172 to R174). -/
theorem exists_judgeZone (s : State) : ∃ zone exposure notices store,
    judgeZone s = { s with zone := zone, exposure := exposure, noticePending := notices, store := store } :=
  ⟨_, _, _, _, judgeZone_frame s⟩

/-! ## The sequence -/

/-- A sample up to the airflow flag: the channels are sampled and the spread judged (R152 to R156, R168). -/
def State.sensed (a b e : BitVec 12) (s : State) : State := judgeSpread (sampleChannels a b e (takeSetpoint s))

/-- A sample up to the judgement of fallback cycling (R159). -/
def State.read (a b e : BitVec 12) (s : State) : State := updateFallback (s.sensed a b e)

theorem sensed_frame (a b e : BitVec 12) (s : State) : s.sensed a b e = { s with
    cabA := s.cabA.sampled s.coolSet.filterK (convert a s.coolSet.trimA),
    cabB := s.cabB.sampled s.coolSet.filterK (convert b s.coolSet.trimB),
    evap := s.evap.sampled s.coolSet.filterK (convert e s.coolSet.trimEvap),
    thermostat := { setpoint := s.coolSet.setpoint, differential := s.coolSet.differential },
    airflow := (s.sensed a b e).airflow, aboveCount := (s.sensed a b e).aboveCount,
    withinCount := (s.sensed a b e).withinCount, noticePending := (s.sensed a b e).noticePending } := by
  unfold State.sensed
  rw [judgeSpread_frame, sampleChannels_frame]
  rfl

theorem read_frame (a b e : BitVec 12) (s : State) : s.read a b e = { s with
    cabA := s.cabA.sampled s.coolSet.filterK (convert a s.coolSet.trimA),
    cabB := s.cabB.sampled s.coolSet.filterK (convert b s.coolSet.trimB),
    evap := s.evap.sampled s.coolSet.filterK (convert e s.coolSet.trimEvap),
    thermostat := { setpoint := s.coolSet.setpoint, differential := s.coolSet.differential },
    airflow := (s.sensed a b e).airflow, aboveCount := (s.sensed a b e).aboveCount,
    withinCount := (s.sensed a b e).withinCount,
    fallback := (s.read a b e).fallback, noticePending := (s.read a b e).noticePending } := by
  unfold State.read
  rw [updateFallback_frame, sensed_frame]

/-- The thermostat judges the samples outside fallback (R157, R159). -/
def thermostatJudged (a b e : BitVec 12) (s : State) : State :=
  if (s.sensed a b e).fallback.isSome || (s.read a b e).fallback.isSome then s.read a b e
  else thermostat judgeLoad (s.read a b e)

theorem takeSample_eq (a b e : BitVec 12) (s : State) :
    takeSample judgeLoad a b e s = judgeZone (judgeTermination judgeLoad (thermostatJudged a b e s)) := rfl

/-- The moment of a sample (R152). -/
def State.sampling (m : Nat) (s : State) : State := { s.reach m with nextSample := some (m + 1000) }

/-- Up to the thermostat a sample leaves the machines and the arbiter as they are. -/
theorem read_keeps (a b e : BitVec 12) (m : Nat) (s : State) :
    ((s.sampling m).read a b e).now = max s.now m ∧ ((s.sampling m).read a b e).ready = s.ready ∧
      ((s.sampling m).read a b e).mem = s.mem ∧ ((s.sampling m).read a b e).coolSet = s.coolSet ∧
      ((s.sampling m).read a b e).comp = s.comp ∧ ((s.sampling m).read a b e).defrost = s.defrost ∧
      ((s.sampling m).read a b e).waiting = s.waiting ∧ ((s.sampling m).read a b e).grants = s.grants ∧
      ((s.sampling m).read a b e).loadSet = s.loadSet := by
  rw [read_frame]
  exact ⟨rfl, rfl, rfl, rfl, rfl, rfl, rfl, rfl, rfl⟩

theorem execSample_of {m : Nat} (hworks : s.working = true) (hm : s.nextSample = some m) (a b e : BitVec 12) :
    execSample a b e s = .next (takeSample judgeLoad a b e (s.sampling m)) := by
  simp only [execSample, hm, hworks, if_true, State.sampling]

end

end Sys2Proof.Machine

/-! The end of a defrost, by time or by temperature, and of the draining that follows it (R158, R164, R165, R169). -/

namespace Sys2Proof.Machine

section
variable {s : State} {slot : Nat}

/-! ## The result of a DEFROST_NOW -/

theorem field16_tempField (t : Option Int) : field16 (tempField t) = tempField t := by
  have hsmall : tempField t < 65536 := by
    unfold tempField unsigned16
    omega
  exact if_pos hsmall

theorem putDefrostResult_eq (slot : Nat) (r : DefrostResult) (s : State) :
    putDefrostResult slot r s = putHalf slot 42 (tempField r.evap) (putHalf slot 40 r.seconds s) := by
  rw [putHalf, field16_tempField]
  rfl

theorem putDefrostResult_slots (hm : Memory.wf s.mem = true) (slot : Nat) (r : DefrostResult) :
    SlotsWritten s (putDefrostResult slot r s) [slot] 0 :=
  ((putSlot_slots hm (by omega) (by simp [leBytes_length])).trans
    (putSlot_slots (putHalf_wf hm slot 40 r.seconds) (by omega) (by simp [leBytes_length]))).mono (by simp) (by decide)

theorem putDefrostResult_shown (hm : Memory.wf s.mem = true) (slot : Nat) (r : DefrostResult) :
    (putDefrostResult slot r s).slotHalf slot 40 = field16 r.seconds ∧
      (putDefrostResult slot r s).slotHalf slot 42 = tempField r.evap := by
  have hshown := slotHalf_putHalf_putHalf hm slot 40 r.seconds (tempField r.evap)
  rwa [← putDefrostResult_eq, field16_tempField] at hshown

/-! ## The end of draining -/

/-- The draining is over, its card not yet answered (R158, R165). -/
def State.drainOver (s : State) : State :=
  { s.rested with defrost := { s.defrost with
      state := .notDue, drip := none,
      grace := if s.coolSet.recoveryGrace = 0 then none else some (s.now + 60000 * s.coolSet.recoveryGrace) } }

theorem endDraining_eq (s : State) : endDraining s = completeDefrostCard s.drainOver := rfl

theorem completeDefrostCard_of_none (h : s.defrost.card = none) : completeDefrostCard s = s := by
  simp only [completeDefrostCard, h]

theorem completeDefrostCard_of_some {r : DefrostResult} (hcard : s.defrost.card = some slot) (hresult : s.defrost.result = some r) :
    completeDefrostCard s =
      complete slot r.kind (putDefrostResult slot r { s with defrost := { s.defrost with card := none } }) := by
  simp only [completeDefrostCard, hcard, hresult]

/-- The completion of a held DEFROST_NOW leaves all but its card (R169). -/
theorem completeDefrostCard_keeps (s : State) :
    (completeDefrostCard s).now = s.now ∧ (completeDefrostCard s).evap = s.evap ∧ (completeDefrostCard s).comp = s.comp ∧
      (completeDefrostCard s).waiting = s.waiting ∧ (completeDefrostCard s).grants = s.grants ∧
      (completeDefrostCard s).defrost = { s.defrost with card := (completeDefrostCard s).defrost.card } := by
  unfold completeDefrostCard
  split
  · simp [putDefrostResult, putHalf]
  · exact ⟨rfl, rfl, rfl, rfl, rfl, rfl⟩

theorem endDraining_drained (hm : Memory.wf s.mem = true) (hready : s.ready = true) : drained s (endDraining s) := by
  rw [endDraining_eq]
  refine ⟨fun hcard => completeDefrostCard_of_none (s := s.drainOver) hcard, fun slot r hcard hresult => ?_⟩
  have hwritten := putDefrostResult_slots (s := { s.drainOver with defrost := { s.drainOver.defrost with card := none } }) hm slot r
  obtain ⟨hseconds, hevap⟩ := putDefrostResult_shown
    (s := { s.drainOver with defrost := { s.drainOver.defrost with card := none } }) hm slot r
  have hcompletes := completeDefrostCard_of_some (s := s.drainOver) hcard hresult
  rw [hcompletes]
  obtain ⟨hdone, hcode⟩ := complete_done hwritten.wf slot r.kind
  have hcompleted := hwritten.complete hready r.kind
  refine ⟨hcompleted.frame, hdone, hcode, (slotHalf_complete hwritten.wf _ (by omega)).trans hseconds,
    (slotHalf_complete hwritten.wf _ (by omega)).trans hevap, ?_⟩
  exact hcompleted.keeps fun other hother a ha => List.mem_singleton.mp hother ▸ ha

/-! ## The end of the defrost -/

/-- A broken last second counts or does not (R164, notes/assumptions/18.md). -/
theorem defrostSeconds_bounds (s : State) : 1000 * defrostSeconds s ≤ s.now - s.defrost.startedAt + 999 ∧
    s.now - s.defrost.startedAt < 1000 * (defrostSeconds s + 1) := by
  have hflag : flag (Config.defrostRoundsUp (s.now - s.defrost.startedAt)) ≤ 1 := by
    unfold flag
    split <;> omega
  unfold defrostSeconds
  dsimp only
  split <;> omega

/-- The heater's load is given up, and the coil drains (R164). -/
def State.defrostOver (byTime : Bool) (s : State) : State := ((s.drainFrom byTime).without .heater).reported byTime

theorem defrostOver_keeps (byTime : Bool) (s : State) :
    (s.defrostOver byTime).mem = s.mem ∧ (s.defrostOver byTime).ready = s.ready := by
  unfold State.defrostOver State.reported raise
  repeat' split
  all_goals exact ⟨rfl, rfl⟩

theorem endDefrost_alone (h : (s.without .heater).headStays) (byTime : Bool) : endDefrost judgeLoad byTime s =
    if s.coolSet.dripTime = 0 then endDraining (s.defrostOver byTime) else s.defrostOver byTime := by
  have hstands : judgeLoad ((s.drainFrom byTime).without .heater) = (s.drainFrom byTime).without .heater :=
    judgeLoad_of_full h
  have hdrip : (s.defrostOver byTime).coolSet.dripTime = s.coolSet.dripTime := by
    unfold State.defrostOver State.reported raise
    repeat' split
    all_goals rfl
  rw [endDefrost_eq, hstands, ← State.defrostOver, hdrip]

theorem judgeTermination_stands (h : ∀ f, s.evap.reading = some f → f < s.coolSet.termination) :
    judgeTermination judgeLoad s = s := by
  unfold judgeTermination
  split
  · rfl
  · next f hf => exact if_neg fun hends => absurd (h f hf) (by simp at hends; omega)

theorem judgeTermination_ends {f : Int} (hf : s.evap.reading = some f) (hwarm : s.coolSet.termination ≤ f)
    (hend : s.defrost.endable = true) : judgeTermination judgeLoad s = endDefrost judgeLoad false s := by
  simp only [judgeTermination, hf, hend, hwarm, decide_true, Bool.and_self, if_true]

theorem execDefrostTimerExpiry_of {m : Nat} (hworks : s.working = true) (hm : s.defrost.timer = some m)
    (hend : s.defrost.endable = true) : execDefrostTimerExpiry s = .next (endDefrost judgeLoad true (s.reach m)) := by
  simp only [execDefrostTimerExpiry, hm, hworks, hend, and_self, if_true]

theorem execDrainingEnd_of {m : Nat} (hworks : s.working = true) (hm : s.defrost.drip = some m)
    (hdraining : s.defrost.state = .draining) : execDrainingEnd s = .next (endDraining (s.reach m)) := by
  simp only [execDrainingEnd, hm, hworks, hdraining, and_self, if_true]

/-! ## A sample during a defrost -/

/-- Beside a compressor at rest the thermostat has nothing to judge (R157). -/
theorem thermostatJudged_of_rest (h : s.comp.state = .offResting) (a b e : BitVec 12) :
    thermostatJudged a b e s = s.read a b e := by
  have hcomp : (s.read a b e).comp.state = .offResting := by rw [read_frame]; exact h
  unfold thermostatJudged thermostat
  split
  · rfl
  · simp only [hcomp]

/-- A defrost that ends by temperature raises nothing (R164). -/
theorem defrostOver_false (s : State) : s.defrostOver false = (s.drainFrom false).without .heater := rfl

/-- A defrost has ended by the evaporator reading `f`, and `t` shows it (R164, R165). -/
structure EndedAt (s t : State) (f : Int) : Prop where
  clock : t.now = s.now ∧ t.evap = s.evap
  load : t.waiting = (s.without .heater).waiting ∧ t.grants = (s.without .heater).grants
  result : t.defrost.timeoutFlag = false ∧ t.defrost.timer = none ∧
    t.defrost.result = some ⟨.complete, defrostSeconds s, some f⟩
  drains : s.coolSet.dripTime ≠ 0 → t.defrost.state = .draining ∧
    t.defrost.drip = some (t.now + 60000 * s.coolSet.dripTime) ∧ t.comp = s.comp ∧ t.mem = s.mem
  rests : s.coolSet.dripTime = 0 → t.defrost.state = .notDue ∧
    t.comp = ⟨.offResting, some (t.now + 1000 * s.coolSet.minOff), none, none⟩ ∧
    ∀ slot, s.defrost.card = some slot → t.holder slot = .done ∧
      t.slotHalf slot 6 = CardOutcome.complete.code ∧ t.slotHalf slot 40 = field16 (defrostSeconds s) ∧
      t.slotHalf slot 42 = tempField (some f)

theorem endDraining_endedAt {f : Int} (hm : Memory.wf s.mem = true) (hready : s.ready = true) (hf : s.evap.reading = some f)
    (hdrip : s.coolSet.dripTime = 0) : EndedAt s (endDraining ((s.drainFrom false).without .heater)) f := by
  have hdrained : drained ((s.drainFrom false).without .heater) (endDraining ((s.drainFrom false).without .heater)) :=
    endDraining_drained hm hready
  obtain ⟨hnow, hevap, hcomp, hwaiting, hgrants, hdefrost⟩ :=
    completeDefrostCard_keeps ((s.drainFrom false).without .heater).drainOver
  rw [endDraining_eq] at hdrained ⊢
  generalize completeDefrostCard ((s.drainFrom false).without .heater).drainOver = t at *
  simp only [State.drainOver, State.rested, State.drainFrom, State.without, Bool.false_eq_true, if_false, hf]
    at hnow hevap hcomp hwaiting hgrants hdefrost
  refine ⟨⟨hnow, hevap⟩, ⟨hwaiting, hgrants⟩, by rw [hdefrost]; exact ⟨rfl, rfl, rfl⟩, fun h => absurd hdrip h,
    fun _ => ⟨by rw [hdefrost], by rw [hcomp, hnow], fun slot hcard => ?_⟩⟩
  obtain ⟨-, hdone, hcode, hseconds, hshown, -⟩ := hdrained.2 slot ⟨.complete, defrostSeconds s, some f⟩ hcard (by rw [← hf]; rfl)
  exact ⟨hdone, hcode, hseconds, hshown⟩

theorem endDefrost_endedAt {f : Int} (hm : Memory.wf s.mem = true) (hready : s.ready = true)
    (hstays : (s.without .heater).headStays) (hf : s.evap.reading = some f) :
    EndedAt s (endDefrost judgeLoad false s) f := by
  rw [endDefrost_alone hstays, defrostOver_false]
  by_cases hdrip : s.coolSet.dripTime = 0
  · rw [if_pos hdrip]
    exact endDraining_endedAt hm hready hf hdrip
  · rw [if_neg hdrip]
    exact ⟨⟨rfl, rfl⟩, ⟨rfl, rfl⟩, ⟨rfl, rfl, by rw [← hf]; rfl⟩, fun _ => ⟨rfl, rfl, rfl, rfl⟩, fun h => absurd h hdrip⟩

end

/-- Settles O49: the timer and the temperature by `endDefrost_alone`, the end of draining by `endDraining_drained`. -/
theorem aDefrostEndsAndDrains : Obligations.ADefrostEndsAndDrains := by
  intro s m hm hworks
  refine ⟨fun htimer hend hstays => ?_, fun a b e hsample hend hrests hstays => ?_,
    fun hdrip hdraining => ⟨_, execDrainingEnd_of hworks hdrip hdraining, endDraining_drained hm (working_ready hworks)⟩⟩
  · obtain ⟨hceil, hfloor⟩ := defrostSeconds_bounds (s.reach m)
    refine ⟨_, (s.reach m).defrostOver true, defrostSeconds (s.reach m), execDefrostTimerExpiry_of hworks htimer hend,
      raise_ready .cooling (working_ready hworks), hceil, hfloor, ?_⟩
    have hends := endDefrost_alone (s := s.reach m) hstays true
    by_cases hdrip : s.coolSet.dripTime = 0
    · rw [if_pos hdrip, hends.trans (if_pos hdrip)]
      obtain ⟨hmem, hready⟩ := defrostOver_keeps true (s.reach m)
      exact endDraining_drained (by rw [hmem]; exact hm) (hready.trans (working_ready hworks))
    · rw [if_neg hdrip, hends.trans (if_neg hdrip)]
  · obtain ⟨hnow, hready, hmem, hcool, hcomp, hdefrost, hwaiting, hgrants, hload⟩ := read_keeps a b e m s
    refine ⟨_, execSample_of hworks hsample a b e, ?_⟩
    rw [takeSample_eq, thermostatJudged_of_rest (s := s.sampling m) hrests]
    generalize (s.sampling m).read a b e = v at *
    obtain ⟨zone, exposure, notices, store, hzone⟩ := exists_judgeZone (judgeTermination judgeLoad v)
    rw [hzone]
    by_cases hends : ∃ f, v.evap.reading = some f ∧ v.coolSet.termination ≤ f
    · obtain ⟨f, hf, hwarm⟩ := hends
      have hstaysHere : (v.without .heater).headStays := by
        simpa only [State.headStays, State.without, State.granted, hwaiting, hgrants, hload] using hstays
      have hended := endDefrost_endedAt (by rw [hmem]; exact hm) (hready.trans (working_ready hworks)) hstaysHere hf
      rw [judgeTermination_ends hf hwarm (by rw [hdefrost]; exact hend)]
      generalize endDefrost judgeLoad false v = w at hended
      obtain ⟨⟨hclock, hevap⟩, ⟨hleft, hheld⟩, ⟨hflag, htimer, hresult⟩, hdrains, hrested⟩ := hended
      have hreading : w.evap.reading = some f := by rw [hevap]; exact hf
      have hwithout : (v.without .heater).waiting = (s.without .heater).waiting ∧
          (v.without .heater).grants = (s.without .heater).grants := by
        simp only [State.without, hwaiting, hgrants, and_self]
      obtain ⟨hceil, hfloor⟩ := defrostSeconds_bounds v
      rw [hcool] at hwarm hdrains hrested
      rw [hdefrost] at hceil hfloor hrested
      rw [hcomp, hmem] at hdrains
      refine ⟨fun hcold => absurd (hcold f hreading) (not_lt.mpr hwarm), fun f' hf' _ => ?_⟩
      obtain rfl : f = f' := Option.some.inj (hreading.symm.trans hf')
      exact ⟨defrostSeconds v, by rw [hclock]; exact hceil, by rw [hclock]; exact hfloor, hleft.trans hwithout.1,
        hheld.trans hwithout.2, hflag, htimer, hresult, hdrains, hrested⟩
    · have hcold : ∀ f, v.evap.reading = some f → f < v.coolSet.termination := fun f hf =>
        not_le.mp fun hwarm => hends ⟨f, hf, hwarm⟩
      rw [judgeTermination_stands hcold]
      refine ⟨fun _ => ⟨hdefrost, hcomp⟩, fun f hf hwarm => absurd (hcold f hf) ?_⟩
      rw [hcool]
      exact not_lt.mpr hwarm

end Sys2Proof.Machine

/-! Fallback cycling, the COOLING group, and a claim that alone waits (R145, R154, R159, R161, R168). -/

namespace Sys2Proof.Machine

section
variable {s : State}

/-! ## Fallback cycling -/

theorem contains_wanted (c : CompressorState) : [CompressorState.claiming, .starting, .running].contains c = c.wanted := by
  cases c <;> rfl

theorem reading_isNone_iff (c : TempChannel) : c.reading = none ↔ c.state ≠ .valid := by
  unfold TempChannel.reading
  split <;> simp [*]

/-- R159: fallback cycling is called for while neither cabinet channel is VALID or UNSEEDED. -/
theorem fallbackCalled_iff : s.fallbackCalled = true ↔
    s.cabA.state ≠ .valid ∧ s.cabB.state ≠ .valid ∧ s.cabA.state ≠ .unseeded ∧ s.cabB.state ≠ .unseeded := by
  have hcontrol : s.controlTemp.isNone = true ↔ s.cabA.state ≠ .valid ∧ s.cabB.state ≠ .valid := by
    rw [← reading_isNone_iff, ← reading_isNone_iff]
    unfold State.controlTemp
    cases s.cabA.reading <;> simp
  simp only [State.fallbackCalled, Bool.and_eq_true, hcontrol, bne_iff_ne, and_assoc]

theorem updateFallback_called (h : s.fallbackCalled = true) :
    (updateFallback s).fallback = some (s.fallback.getD ⟨s.comp.state.wanted, s.now + 900000⟩) := by
  unfold updateFallback
  cases hf : s.fallback <;> simp [h, hf]

theorem updateFallback_not_called (h : ¬ s.fallbackCalled = true) : (updateFallback s).fallback = none := by
  unfold updateFallback
  cases hf : s.fallback <;> simp [h, hf]

/-- Each start and each end raises COOLING (R159). -/
theorem updateFallback_notices (hready : s.ready = true) : (updateFallback s).noticePending =
    s.noticePending ||| if s.fallback.isSome = (updateFallback s).fallback.isSome then 0 else NoticeClass.cooling.bit := by
  unfold updateFallback
  cases hf : s.fallback <;> cases hc : s.fallbackCalled <;> simp [hf, raise_ready, hready]

/-! ## The COOLING group -/

/-- A change of the CAB_B enable, before fallback cycling is judged (R154, R168). -/
def coolingSwitched (s : State) (c : CoolingSettings) : State :=
  { s with
    coolSet := c, noticePending := s.noticePending ||| NoticeClass.cooling.bit,
    cabB := { s.cabB with state := if c.cabBEnable then .unseeded else .disabled, invalidCount := 0, validCount := 0 } }

theorem putCooling_of_change {c : CoolingSettings} (hready : s.ready = true) (h : c.cabBEnable ≠ s.coolSet.cabBEnable) :
    putCooling c s = updateFallback (coolingSwitched s c) := by
  have hstate : (if s.coolSet.cabBEnable then ChannelState.disabled else .unseeded) =
      if c.cabBEnable then .unseeded else .disabled := by
    revert h
    cases s.coolSet.cabBEnable <;> cases c.cabBEnable <;> simp
  refine (if_neg h).trans (congrArg updateFallback ((if_pos hready).trans ?_))
  dsimp only
  rw [hstate]
  rfl

/-- CAB_B is UNSEEDED or DISABLED after the change, so that CAB_A decides (R159). -/
theorem coolingSwitched_called (s : State) (c : CoolingSettings) : (coolingSwitched s c).fallbackCalled = true ↔
    c.cabBEnable = false ∧ s.cabA.state ≠ .valid ∧ s.cabA.state ≠ .unseeded := by
  rw [fallbackCalled_iff]
  cases hc : c.cabBEnable <;> simp [coolingSwitched, hc]

/-- The COOLING that the change has raised stands for the start or end of fallback too (R154, R159). -/
theorem coolingSwitched_notices {c : CoolingSettings} (hready : s.ready = true) :
    (updateFallback (coolingSwitched s c)).noticePending = s.noticePending ||| NoticeClass.cooling.bit := by
  rw [updateFallback_notices (s := coolingSwitched s c) hready]
  have hraised (p : Prop) [Decidable p] : s.noticePending ||| NoticeClass.cooling.bit |||
      (if p then 0 else NoticeClass.cooling.bit) = s.noticePending ||| NoticeClass.cooling.bit := by
    split
    · exact BitVec.or_zero
    · rw [BitVec.or_assoc, BitVec.or_self]
  exact hraised _

theorem putCooling_eq (hready : s.ready = true) (c : CoolingSettings) : putCooling c s = coolingApplied s c := by
  by_cases h : c.cabBEnable = s.coolSet.cabBEnable
  · exact (if_pos h).trans (if_pos h).symm
  · refine (putCooling_of_change hready h).trans (Eq.trans ?_ (if_neg h).symm)
    rw [updateFallback_frame, coolingSwitched_notices hready]
    by_cases hcalled : c.cabBEnable = false ∧ s.cabA.state ≠ .valid ∧ s.cabA.state ≠ .unseeded
    · rw [updateFallback_called ((coolingSwitched_called s c).mpr hcalled), if_pos hcalled, contains_wanted]
      rfl
    · rw [updateFallback_not_called (mt (coolingSwitched_called s c).mp hcalled), if_neg hcalled]
      rfl

/-! ## A claim that alone waits -/

theorem judgeLoad_heater {n : Nat} (hwaiting : s.waiting = [⟨.heater, n⟩]) : judgeLoad s =
    if s.pfail = .clear ∧ s.granted + n ≤ s.loadSet.budget then
      heaterGranted { s with waiting := [], grants := s.grants ++ [⟨.heater, n⟩] }
    else s := by
  simp only [judgeLoad, hwaiting, List.length_singleton, judgeHead, onGrant]

theorem judgeLoad_compressor {n : Nat} (hwaiting : s.waiting = [⟨.compressor, n⟩]) : judgeLoad s =
    if s.pfail = .clear ∧ s.granted + n ≤ s.loadSet.budget then
      compressorGranted { s with waiting := [], grants := s.grants ++ [⟨.compressor, n⟩] }
    else s := by
  simp only [judgeLoad, hwaiting, List.length_singleton, judgeHead, onGrant]

/-- A heater's claim at the tail is granted at once or waits, and writes no card either way (R163). -/
theorem judgeLoad_heater_quiet {w : List Claim} {n : Nat} (hstays : State.headStays { s with waiting := w })
    (hwaiting : s.waiting = w ++ [⟨.heater, n⟩]) :
    (judgeLoad s).mem = s.mem ∧ (judgeLoad s).intake = s.intake ∧ (judgeLoad s).ready = s.ready := by
  cases w with
  | nil =>
    rw [judgeLoad_heater hwaiting]
    split <;> exact ⟨rfl, rfl, rfl⟩
  | cons head rest =>
    have hstands : judgeLoad s = s := judgeLoad_of_full (by simpa [State.headStays, State.granted, hwaiting] using hstays)
    rw [hstands]
    exact ⟨rfl, rfl, rfl⟩

/-- A defrost that starts alone writes no card (R162). -/
theorem defrostBegun_quiet (hstays : (s.without .compressor).headStays) :
    (defrostBegun s).mem = s.mem ∧ (defrostBegun s).intake = s.intake ∧ (defrostBegun s).ready = s.ready := by
  unfold defrostBegun
  dsimp only
  split
  · exact ⟨rfl, rfl, rfl⟩
  · exact judgeLoad_heater_quiet (w := (s.without .compressor).waiting) hstays rfl

/-! ## The card -/

/-- A card that completes OK shows it, whatever stands in the state beside it. -/
theorem completeOk_done {slot : Nat} (hm : Memory.wf s.mem = true) :
    (completeOk slot s).holder slot = .done ∧ (completeOk slot s).slotHalf slot 6 = CardOutcome.ok.code := by
  obtain ⟨hdone, hcode⟩ := complete_done hm slot .ok
  have hmem : (completeOk slot s).mem = (complete slot .ok s).mem := by simp [completeOk]
  exact ⟨by simpa only [State.holder, State.slotByte, hmem] using hdone,
    by simpa only [State.slotHalf, State.slotByte, hmem] using hcode⟩

/-- A judgement of the interval that lets no claim in writes no card (R161, R162). -/
theorem judgeDue_quiet (hstays : (s.without .compressor).headStays) :
    (judgeDue judgeLoad s).mem = s.mem ∧ (judgeDue judgeLoad s).intake = s.intake ∧
      (judgeDue judgeLoad s).ready = s.ready := by
  obtain ⟨hcalled, hstarts, hstands⟩ := judgeDue_judged s
  have hbegun := defrostBegun_quiet hstays
  by_cases hreached : s.dueByTime
  · by_cases hruns : s.compressorRuns
    · by_cases hnotDue : s.defrost.state = .notDue
      · rw [(hcalled hreached hnotDue).1 hruns]
        exact ⟨rfl, rfl, rfl⟩
      · rw [hstands (.inr ⟨hnotDue, fun _ => hruns⟩)]
        exact ⟨rfl, rfl, rfl⟩
    · by_cases hnotDue : s.defrost.state = .notDue
      · rwa [(hcalled hreached hnotDue).2 hruns hstays]
      · by_cases hdue : s.defrost.state = .due
        · rwa [hstarts hreached hdue hruns hstays]
        · rw [hstands (.inr ⟨hnotDue, fun h => absurd h hdue⟩)]
          exact ⟨rfl, rfl, rfl⟩
  · rw [hstands (.inl hreached)]
    exact ⟨rfl, rfl, rfl⟩

/-- The change of the group leaves the card and the arbiter as they are (R168). -/
theorem coolingApplied_keeps (s : State) (c : CoolingSettings) :
    (coolingApplied s c).mem = s.mem ∧ (coolingApplied s c).intake = s.intake ∧ (coolingApplied s c).ready = s.ready ∧
      (((coolingApplied s c).without .compressor).headStays ↔ (s.without .compressor).headStays) := by
  unfold coolingApplied
  split <;> exact ⟨rfl, rfl, rfl, Iff.rfl⟩

/-- What a SET_COOLING comes to before its card completes (R168, notes/assumptions/40.md). -/
def coolingJudged (s : State) (c : CoolingSettings) : State :=
  if c.defrostInterval = s.coolSet.defrostInterval then coolingApplied s c else judgeDue judgeLoad (coolingApplied s c)

theorem applyCooling_eq (hready : s.ready = true) (slot : Nat) (c : CoolingSettings) :
    applyCooling slot c s = completeOk slot (coolingJudged s c) := by
  rw [applyCooling, putCooling_eq hready]
  rfl

theorem coolingJudged_quiet (hstays : (s.without .compressor).headStays) (c : CoolingSettings) :
    (coolingJudged s c).mem = s.mem ∧ (coolingJudged s c).intake = s.intake ∧ (coolingJudged s c).ready = s.ready := by
  obtain ⟨hmem, hintake, hready, hhead⟩ := coolingApplied_keeps s c
  unfold coolingJudged
  split
  · exact ⟨hmem, hintake, hready⟩
  · obtain ⟨hmem', hintake', hready'⟩ := judgeDue_quiet (hhead.mpr hstays)
    exact ⟨hmem'.trans hmem, hintake'.trans hintake, hready'.trans hready⟩

theorem coolingJudged_wf (hm : Memory.wf s.mem = true) (c : CoolingSettings) : Memory.wf (coolingJudged s c).mem = true := by
  have happlied : Memory.wf (coolingApplied s c).mem = true := by rwa [(coolingApplied_keeps s c).1]
  unfold coolingJudged
  split
  · exact happlied
  · exact (judgeDue_written judgeLoad_writesCards .none).wf happlied

end

/-- Settles O23: the group by `putCooling_eq`, the interval by `judgeDue_judged`. -/
theorem aSetCoolingAppliesItsGroup : Obligations.ASetCoolingAppliesItsGroup := by
  intro s slot hhead
  have htaken : takeHead slot s = { s with intake := s.intake.tail, mem := (takeHead slot s).mem } := by
    rw [takeHead_mem, takeHead_eq, List.drop_one]
  have hready : (takeHead slot s).ready = true := by rw [takeHead_eq]; exact hhead.ready
  refine ⟨_, exec_setCooling hhead, (applyCooling_coolSet _ _ _).1, ?_⟩
  rw [applyCooling_eq hready]
  obtain ⟨hdone, hcode⟩ :=
    completeOk_done (slot := slot) (coolingJudged_wf (takeHead_wf hhead.wf slot) (s.coolingRequest slot))
  have hinterval : (takeHead slot s).coolSet = s.coolSet := by rw [takeHead_eq]
  refine ⟨hdone, hcode, fun hstays => ⟨coolingJudged (takeHead slot s) (s.coolingRequest slot), ?_, ?_⟩⟩
  · have hstaysTaken : ((takeHead slot s).without .compressor).headStays := by
      simpa only [takeHead_eq, State.headStays, State.without, State.granted] using hstays
    obtain ⟨hmem, hintake, hreadyHere⟩ := coolingJudged_quiet hstaysTaken (s.coolingRequest slot)
    have htail : (takeHead slot s).intake = s.intake.tail := by rw [takeHead_eq, List.drop_one]
    rw [htail] at hintake
    generalize coolingJudged (takeHead slot s) (s.coolingRequest slot) = w at hmem hintake hreadyHere ⊢
    have hresult : withResult s slot [] w = w := by rw [withResult_nil, ← hintake, ← hmem]
    have happlied := completeOk_applied (s := s) (u := w) (slot := slot) (result := []) hhead.wf (hreadyHere.trans hready) (by simp)
    rwa [hresult] at happlied
  · dsimp only
    rw [← htaken, coolingJudged, hinterval]
    refine ⟨fun hsame => if_pos hsame, fun hother => ?_⟩
    rw [if_neg hother]
    exact judgeDue_judged _

end Sys2Proof.Machine

/-! What a machine that acts on a grant, on the thermostat or on the end of a defrost leaves of the sensors, and that it
raises notices and clears none (R41, R145, R152). -/

namespace Sys2Proof.Machine

/-! ## The sensors -/

/-- The clock, the temperature front end, the zone monitor, the port and the records that no machine writes. -/
structure Sensors where
  now : Nat
  ready : Bool
  nextSample : Option Nat
  channels : TempChannel × TempChannel × TempChannel
  thermostat : Thermostat
  airflow : Bool × Nat × Nat
  fallback : Option Fallback
  zone : ZoneState × Nat
  coolSet : CoolingSettings
  port : Supervision × DoorState × MoneySettings × Vector Channel 6

def State.sensors (s : State) : Sensors :=
  { now := s.now, ready := s.ready, nextSample := s.nextSample, channels := (s.cabA, s.cabB, s.evap),
    thermostat := s.thermostat, airflow := (s.airflow, s.aboveCount, s.withinCount), fallback := s.fallback,
    zone := (s.zone, s.exposure), coolSet := s.coolSet, port := (s.sup, s.door, s.moneySet, s.channels) }

/-- From `s` to `t` no sensor moves, and no notice is cleared. -/
structure Unsensed (s t : State) : Prop where
  sensors : t.sensors = s.sensors
  notices : s.noticePending ||| t.noticePending = t.noticePending

section
variable {s t u : State}

theorem Unsensed.of_frame (h : t.sensors = s.sensors) (hn : t.noticePending = s.noticePending) : Unsensed s t :=
  ⟨h, by rw [hn]; exact BitVec.or_self⟩

theorem Unsensed.refl (s : State) : Unsensed s s := .of_frame rfl rfl

theorem Unsensed.trans (h : Unsensed s t) (h' : Unsensed t u) : Unsensed s u :=
  ⟨h'.sensors.trans h.sensors, or_trans h.notices h'.notices⟩

/-- An operation behind a change of other fields. -/
theorem Unsensed.after (h : Unsensed t u) (hs : t.sensors = s.sensors) (hn : t.noticePending = s.noticePending) :
    Unsensed s u := (Unsensed.of_frame hs hn).trans h

theorem ite_unsensed {c : Prop} [Decidable c] (hs : Unsensed s t) (hu : Unsensed s u) :
    Unsensed s (if c then t else u) := by
  split
  · exact hs
  · exact hu

/-! ## The ends of flights and payouts -/

theorem raise_unsensed (c : NoticeClass) (s : State) : Unsensed s (raise c s) :=
  ⟨by simp [State.sensors], or_raise c s⟩

theorem complete_unsensed (slot : Nat) (o : CardOutcome) (s : State) : Unsensed s (complete slot o s) :=
  ⟨by simp [State.sensors], or_complete slot o s⟩

theorem completeVendAtOnce_unsensed (card : Option AttachedCard) (s : State) : Unsensed s (completeVendAtOnce card s) := by
  unfold completeVendAtOnce
  split
  · exact complete_unsensed _ _ _
  · exact .refl s

theorem requestReturn_unsensed (origin : Origin) (card : Option AttachedCard) (s : State) :
    Unsensed s (requestReturn origin card s) := by
  unfold requestReturn
  split
  · split
    · exact .refl s
    · exact .of_frame rfl rfl
    · exact complete_unsensed _ _ _
    · exact complete_unsensed _ _ _
  · refine ite_unsensed (.of_frame rfl rfl) ?_
    split
    · exact complete_unsensed _ _ _
    · exact (completeVendAtOnce_unsensed _ _).after rfl rfl

theorem closeBasket_unsensed (s : State) : Unsensed s (closeBasket s) := by
  unfold closeBasket
  repeat' split
  · exact .refl s
  · exact (complete_unsensed _ _ _).after rfl rfl
  · exact .refl s

theorem endItem_unsensed (slot : Nat) (basket : Option Nat) (o : CardOutcome) (s : State) :
    Unsensed s (endItem slot basket o s) := by
  unfold endItem
  repeat' split
  · exact complete_unsensed _ _ _
  · exact (closeBasket_unsensed _).after rfl rfl
  · exact (complete_unsensed _ _ _).trans (closeBasket_unsensed _)

theorem afterVerdict_unsensed (f : Flight) (o : CardOutcome) (s : State) : Unsensed s (afterVerdict f o s) :=
  ite_unsensed (requestReturn_unsensed _ _ _) (endItem_unsensed _ _ _ _)

theorem settleMoney_unsensed (f : Flight) (o : CardOutcome) (s : State) : Unsensed s (settleMoney f o s) := by
  obtain ⟨hframe, hnotices, -⟩ := settleMoney_eq f o s
  exact ⟨by rw [hframe]; rfl, hnotices⟩

theorem recordEnd_unsensed (i : Fin 80) (twin : Bool) (o : CardOutcome) (s : State) : Unsensed s (recordEnd i twin o s) := by
  obtain ⟨hframe, hnotices⟩ := recordEnd_eq i twin o s
  exact ⟨by rw [hframe]; rfl, hnotices⟩

theorem auditVerdict_unsensed (f : Flight) (o : CardOutcome) (s : State) : Unsensed s (auditVerdict f o s) := by
  rw [(auditVerdict_eq f o s).1]
  exact .of_frame rfl rfl

theorem putPayoutResult_unsensed (p : Payout) (retained : Nat) (card : AttachedCard) (s : State) :
    Unsensed s (putPayoutResult p retained card s) := by
  rw [(putPayoutResult_eq p retained card s).1]
  exact .of_frame rfl rfl

section
variable {judge : State → State} (hj : ∀ s, Unsensed s (judge s))
include hj

theorem giveUp_unsensed (c : Claimant) (s : State) : Unsensed s (giveUp judge c s) := (hj _).after rfl rfl

theorem placeClaim_unsensed (c : Claimant) (size : Nat) (s : State) : Unsensed s (placeClaim judge c size s) :=
  (hj _).after rfl rfl

theorem verdict_unsensed (o : CardOutcome) (s : State) : Unsensed s (verdict judge o s) := by
  cases hf : s.flight with
  | none =>
    simp only [verdict, hf]
    exact .refl s
  | some f =>
    rw [verdict_some hf]
    have hgiven : Unsensed s (giveUp judge .drive { s with rev := none }) := (giveUp_unsensed hj _ _).after rfl rfl
    have hended := hgiven.trans ((settleMoney_unsensed f o _).trans
      ((recordEnd_unsensed f.spiral f.twin o _).trans (auditVerdict_unsensed f o _)))
    exact hended.trans ((afterVerdict_unsensed f o _).after rfl rfl)

theorem motorStart_unsensed (s : State) : Unsensed s (motorStart judge s) := by
  unfold motorStart
  split
  · exact .refl s
  · exact ite_unsensed (verdict_unsensed hj _ _) (.of_frame rfl rfl)

theorem endPayoutWith_unsensed (o : CardOutcome) (s : State) : Unsensed s (endPayoutWith judge o s) := by
  cases hp : s.payout with
  | none =>
    simp only [endPayoutWith, hp]
    exact .refl s
  | some p =>
    have hgiven : Unsensed s (setBusy false (giveUp judge .payout s)) := (giveUp_unsensed hj _ s).trans (.of_frame rfl rfl)
    have hraised {v : State} (hv : Unsensed s v) : Unsensed s (raise .money { v with payout := none }) :=
      hv.trans ((raise_unsensed _ _).after rfl rfl)
    have hanswered {v : State} (hv : Unsensed s v) (retained : Nat) (card : AttachedCard) (o : CardOutcome) :
        Unsensed s (complete card.slot o (putPayoutResult p retained card v)) :=
      hv.trans ((putPayoutResult_unsensed p retained card v).trans (complete_unsensed _ _ _))
    simp only [endPayoutWith, hp]
    generalize setBusy false (giveUp judge .payout s) = u at hgiven ⊢
    have hcounted : Unsensed s (if p.entry.form = .creditReturn then count .retained (retainedAmount p u) u
        else count .manualPayout p.paid u) :=
      hgiven.trans (ite_unsensed (.of_frame rfl rfl) (.of_frame rfl rfl))
    split
    · exact hraised hcounted
    · exact hanswered (hraised hcounted) _ _ _

theorem endPayout_unsensed (s : State) : Unsensed s (endPayout judge s) := by
  unfold endPayout
  split
  · exact .refl s
  · exact endPayoutWith_unsensed hj _ _

theorem ejectNext_unsensed (s : State) : Unsensed s (ejectNext judge s) := by
  unfold ejectNext
  split
  · exact .refl s
  · split
    · exact (endPayout_unsensed hj _).after rfl rfl
    · exact ite_unsensed (.of_frame rfl rfl) ((endPayout_unsensed hj _).after rfl rfl)

theorem onGrant_unsensed (c : Claimant) (s : State) : Unsensed s (onGrant judge c s) := by
  cases c with
  | compressor => exact .of_frame rfl rfl
  | heater => exact .of_frame rfl rfl
  | drive => exact motorStart_unsensed hj s
  | payout => exact ejectNext_unsensed hj s

end

theorem judgeHead_unsensed : ∀ (n : Nat) (s : State), Unsensed s (judgeHead n s)
  | 0, s => .refl s
  | n + 1, s => by
    unfold judgeHead
    split
    · exact .refl s
    · next w rest _ =>
      have hacts : Unsensed s (onGrant (judgeHead n) w.claimant { s with waiting := rest, grants := s.grants ++ [w] }) :=
        (onGrant_unsensed (judgeHead_unsensed n) _ _).after rfl rfl
      exact ite_unsensed (hacts.trans (judgeHead_unsensed n _)) (.refl s)

theorem judgeLoad_unsensed (s : State) : Unsensed s (judgeLoad s) := judgeHead_unsensed _ s

/-! ## The compressor and the defrost -/

theorem claimStart_unsensed (s : State) : Unsensed s (claimStart judgeLoad s) :=
  (placeClaim_unsensed judgeLoad_unsensed _ _ _).after rfl rfl

theorem withdrawStart_unsensed (s : State) : Unsensed s (withdrawStart judgeLoad s) :=
  (giveUp_unsensed judgeLoad_unsensed _ _).after rfl rfl

theorem startDefrost_unsensed (s : State) : Unsensed s (startDefrost judgeLoad s) := by
  have hunloaded : Unsensed s (judgeLoad s.unloaded) := (judgeLoad_unsensed _).after rfl rfl
  rw [startDefrost_eq, defrostStarts]
  split
  · exact hunloaded.trans (.of_frame rfl rfl)
  · exact hunloaded.trans ((placeClaim_unsensed judgeLoad_unsensed _ _ _).after rfl rfl)

theorem settleRun_unsensed (s : State) : Unsensed s (settleRun s) := by
  rw [settleRun_eq]
  exact .of_frame rfl rfl

theorem cutOut_unsensed (s : State) : Unsensed s (cutOut judgeLoad s) :=
  (settleRun_unsensed s).trans (ite_unsensed (startDefrost_unsensed _)
    ((giveUp_unsensed judgeLoad_unsensed _ _).after rfl rfl))

theorem thermostat_unsensed (s : State) : Unsensed s (thermostat judgeLoad s) := by
  unfold thermostat
  split
  · exact ite_unsensed (claimStart_unsensed s) (.refl s)
  · exact ite_unsensed (.refl s) (withdrawStart_unsensed s)
  · exact ite_unsensed (cutOut_unsensed s) (.refl s)
  · exact .refl s
  · exact .refl s

theorem completeDefrostCard_unsensed (s : State) : Unsensed s (completeDefrostCard s) := by
  unfold completeDefrostCard
  split
  · exact (complete_unsensed _ _ _).after rfl rfl
  · exact .refl s

theorem endDraining_unsensed (s : State) : Unsensed s (endDraining s) :=
  (completeDefrostCard_unsensed _).after rfl rfl

theorem endDefrost_unsensed (byTime : Bool) (s : State) : Unsensed s (endDefrost judgeLoad byTime s) := by
  have hgiven : Unsensed s (judgeLoad ((s.drainFrom byTime).without .heater)) :=
    (judgeLoad_unsensed _).after rfl rfl
  have hreported (u : State) : Unsensed u (u.reported byTime) := ite_unsensed (raise_unsensed _ u) (.refl u)
  rw [endDefrost_eq]
  have hended := hgiven.trans (hreported _)
  exact ite_unsensed (hended.trans (endDraining_unsensed _)) hended

theorem judgeTermination_unsensed (s : State) : Unsensed s (judgeTermination judgeLoad s) := by
  unfold judgeTermination
  split
  · exact .refl s
  · exact ite_unsensed (endDefrost_unsensed _ s) (.refl s)

end

end Sys2Proof.Machine

/-! A sample in the words of its tables: the channels, the zone, the airflow flag and fallback cycling (R152 to R159, R171 to
R174). -/

namespace Sys2Proof.Machine

section
variable {s : State}

/-! ## The channels (R152 to R154) -/

theorem convert_of_valid {code : BitVec 12} (h : 16 ≤ code.toNat ∧ code.toNat ≤ 4079) (trim : Int) :
    convert code trim = some (Int.fdiv ((code.toNat : Int) * 1500) 4096 - 400 + trim) := by
  have hfloor : Int.fdiv ((code.toNat : Int) * 1500) 4096 = (code.toNat : Int) * 1500 / 4096 :=
    Int.fdiv_eq_ediv_of_nonneg _ (by decide)
  rw [convert, if_pos h, hfloor]
  exact congrArg some (by omega)

theorem convert_of_invalid {code : BitVec 12} (h : ¬ (16 ≤ code.toNat ∧ code.toNat ≤ 4079)) (trim : Int) :
    convert code trim = none := if_neg h

theorem filterStep_eq (k : Nat) (filter t : Int) : filterStep k filter t = filter + Int.fdiv (16 * t - filter) (2 ^ k) := by
  rw [filterStep, Int.fdiv_eq_ediv_of_nonneg _ (by positivity)]
  push_cast
  rfl

theorem channelSampled_sampled (k : Nat) (trim : Int) (code : BitVec 12) (c : TempChannel) :
    channelSampled k trim code c (c.sampled k (convert code trim)) := by
  unfold channelSampled TempChannel.sampled
  by_cases hvalid : 16 ≤ code.toNat ∧ code.toNat ≤ 4079
  · rw [convert_of_valid hvalid]
    simp only [hvalid, and_self, if_true, filterStep_eq]
    cases hc : c.state <;> simp only
    split <;> rfl
  · rw [convert_of_invalid hvalid]
    simp only [hvalid, if_false]
    cases hc : c.state <;> simp only
    all_goals split <;> rfl

/-- A change of a channel's state raises COOLING (R154). -/
theorem sampleChannels_notices (hready : s.ready = true) {a b e : BitVec 12}
    (h : (sampleChannels a b e s).cabA.state ≠ s.cabA.state ∨ (sampleChannels a b e s).cabB.state ≠ s.cabB.state ∨
      (sampleChannels a b e s).evap.state ≠ s.evap.state) :
    (sampleChannels a b e s).noticePending &&& NoticeClass.cooling.bit ≠ 0 := by
  rw [sampleChannels_frame] at h
  have hchanged : ¬ ((s.cabA.sampled s.coolSet.filterK (convert a s.coolSet.trimA)).state = s.cabA.state ∧
      (s.cabB.sampled s.coolSet.filterK (convert b s.coolSet.trimB)).state = s.cabB.state ∧
      (s.evap.sampled s.coolSet.filterK (convert e s.coolSet.trimEvap)).state = s.evap.state) := by
    rintro ⟨ha, hb, he⟩
    exact h.elim (· ha) (·.elim (· hb) (· he))
  have hraised : sampleChannels a b e s = raise .cooling { s with
      cabA := s.cabA.sampled s.coolSet.filterK (convert a s.coolSet.trimA)
      cabB := s.cabB.sampled s.coolSet.filterK (convert b s.coolSet.trimB)
      evap := s.evap.sampled s.coolSet.filterK (convert e s.coolSet.trimEvap) } := if_neg hchanged
  rw [hraised, raise_ready .cooling (by exact hready)]
  exact raised _ _

/-! ## The airflow flag (R156) -/

theorem setAirflow_raises (b : Bool) (s : State) :
    s.noticePending ||| (setAirflow b s).noticePending = (setAirflow b s).noticePending := by
  unfold setAirflow
  split
  · exact BitVec.or_self
  · exact or_raise_of_eq .cooling rfl

theorem setAirflow_notices (hready : s.ready = true) {b : Bool} (h : b ≠ s.airflow) :
    (setAirflow b s).noticePending &&& NoticeClass.cooling.bit ≠ 0 := by
  rw [setAirflow, if_neg (Ne.symm h), raise_ready .cooling (by exact hready)]
  exact raised _ _

/-- The spread `d` of two VALID cabinet channels is judged by the limit (R156). -/
def spreadJudged (d : Nat) (s : State) : State :=
  if s.coolSet.spreadLimit < d then
    if min 600 (s.aboveCount + 1) = 600 then
      setAirflow true { s with aboveCount := min 600 (s.aboveCount + 1), withinCount := 0 }
    else { s with aboveCount := min 600 (s.aboveCount + 1), withinCount := 0 }
  else
    if min 600 (s.withinCount + 1) = 600 then
      setAirflow false { s with withinCount := min 600 (s.withinCount + 1), aboveCount := 0 }
    else { s with withinCount := min 600 (s.withinCount + 1), aboveCount := 0 }

theorem judgeSpread_of_valid {x y : Int} (hx : s.cabA.reading = some x) (hy : s.cabB.reading = some y) :
    judgeSpread s = spreadJudged (x - y).natAbs s := by
  simp only [judgeSpread, hx, hy, spreadJudged]

theorem judgeSpread_of_invalid (h : s.cabA.state ≠ .valid ∨ s.cabB.state ≠ .valid) :
    judgeSpread s = { s with aboveCount := 0, withinCount := 0 } := by
  unfold judgeSpread
  rcases h with h | h
  · simp only [(reading_isNone_iff _).mpr h]
  · cases s.cabA.reading <;> simp only [(reading_isNone_iff _).mpr h]

theorem spreadJudged_above {d : Nat} (h : s.coolSet.spreadLimit < d) :
    (spreadJudged d s).aboveCount = min 600 (s.aboveCount + 1) ∧ (spreadJudged d s).withinCount = 0 ∧
      (spreadJudged d s).airflow = ((spreadJudged d s).aboveCount == 600 || s.airflow) := by
  rw [spreadJudged, if_pos h]
  split
  · next hfull =>
    rw [setAirflow_frame]
    exact ⟨rfl, rfl, by simp [hfull]⟩
  · next hfull => exact ⟨rfl, rfl, by simp [hfull]⟩

theorem spreadJudged_within {d : Nat} (h : ¬ s.coolSet.spreadLimit < d) :
    (spreadJudged d s).withinCount = min 600 (s.withinCount + 1) ∧ (spreadJudged d s).aboveCount = 0 ∧
      (spreadJudged d s).airflow = ((spreadJudged d s).withinCount != 600 && s.airflow) := by
  rw [spreadJudged, if_neg h]
  split
  · next hfull =>
    rw [setAirflow_frame]
    exact ⟨rfl, rfl, by simp [hfull]⟩
  · next hfull => exact ⟨rfl, rfl, by simp [hfull]⟩

/-- The spread raises COOLING where it moves the flag, and clears no notice (R156). -/
theorem judgeSpread_raises (hready : s.ready = true) :
    s.noticePending ||| (judgeSpread s).noticePending = (judgeSpread s).noticePending ∧
      ((judgeSpread s).airflow ≠ s.airflow → (judgeSpread s).noticePending &&& NoticeClass.cooling.bit ≠ 0) := by
  have hstands {u : State} (hn : u.noticePending = s.noticePending) (hflag : u.airflow = s.airflow) :
      s.noticePending ||| u.noticePending = u.noticePending ∧
        (u.airflow ≠ s.airflow → u.noticePending &&& NoticeClass.cooling.bit ≠ 0) :=
    ⟨by rw [hn]; exact BitVec.or_self, fun h => absurd hflag h⟩
  have hset (b : Bool) {u : State} (hn : u.noticePending = s.noticePending) (hflag : u.airflow = s.airflow)
      (hu : u.ready = true) : s.noticePending ||| (setAirflow b u).noticePending = (setAirflow b u).noticePending ∧
        ((setAirflow b u).airflow ≠ s.airflow → (setAirflow b u).noticePending &&& NoticeClass.cooling.bit ≠ 0) := by
    rw [← hn, ← hflag]
    refine ⟨setAirflow_raises b u, fun h => setAirflow_notices hu ?_⟩
    rwa [setAirflow_frame] at h
  unfold judgeSpread
  dsimp only
  repeat' split
  · exact hset true rfl rfl hready
  · exact hstands rfl rfl
  · exact hset false rfl rfl hready
  · exact hstands rfl rfl
  · exact hstands rfl rfl

/-! ## Fallback cycling (R159) -/

theorem updateFallback_raises (hready : s.ready = true) :
    s.noticePending ||| (updateFallback s).noticePending = (updateFallback s).noticePending ∧
      (s.fallback.isSome ≠ (updateFallback s).fallback.isSome →
        (updateFallback s).noticePending &&& NoticeClass.cooling.bit ≠ 0) := by
  rw [updateFallback_notices hready]
  refine ⟨by rw [← BitVec.or_assoc, BitVec.or_self], fun h => ?_⟩
  rw [if_neg h]
  exact raised _ _

/-! ## The zone (R171 to R174) -/

theorem putZone_raises (hready : s.ready = true) (z : ZoneState) (e : Nat) :
    s.noticePending ||| (putZone z e s).noticePending = (putZone z e s).noticePending ∧
      (z ≠ s.zone → (putZone z e s).noticePending &&& NoticeClass.zone.bit ≠ 0) := by
  unfold putZone
  dsimp only
  split
  · next hsame => exact ⟨BitVec.or_self, fun h => absurd hsame h⟩
  · rw [raise_ready .zone (by exact hready)]
    exact ⟨by rw [← BitVec.or_assoc, BitVec.or_self], fun _ => raised _ _⟩

/-- What the judgement of the zone shows of itself: its table, its notice and the save at a lock (R172 to R174). -/
structure ZoneJudged (s t : State) : Prop where
  table : (t.zone, t.exposure) = zoneSampled s.zone s.exposure s.coolSet.allowedExposure s.warm s.paused
  raises : s.noticePending ||| t.noticePending = t.noticePending
  notice : t.zone ≠ s.zone → t.noticePending &&& NoticeClass.zone.bit ≠ 0
  save : t.zone = .locked → s.zone ≠ .locked →
    t.store.state = .saving ∧ t.store.capture = some t.image ∧ t.store.ends = some (t.now + 200)

theorem putZone_judged (hready : s.ready = true) {z : ZoneState} {e : Nat} (hz : z ≠ .locked)
    (htable : (z, e) = zoneSampled s.zone s.exposure s.coolSet.allowedExposure s.warm s.paused) :
    ZoneJudged s (putZone z e s) := by
  obtain ⟨hraises, hnotice⟩ := putZone_raises hready z e
  exact ⟨by rwa [putZone_zone, putZone_exposure], hraises, by rwa [putZone_zone], fun h => absurd (by rwa [putZone_zone] at h) hz⟩

theorem zone_stands (htable : (s.zone, s.exposure) = zoneSampled s.zone s.exposure s.coolSet.allowedExposure s.warm s.paused) :
    ZoneJudged s s := ⟨htable, BitVec.or_self, fun h => absurd rfl h, fun h hne => absurd h hne⟩

theorem expose_judged (hready : s.ready = true) (hz : s.zone = .unverified ∨ s.zone = .exposed) (hwarm : s.warm = true)
    (hpaused : s.paused = false) : ZoneJudged s (expose s.zone s) := by
  have htable : zoneSampled s.zone s.exposure s.coolSet.allowedExposure s.warm s.paused =
      (if s.coolSet.allowedExposure ≤ min 65535 (s.exposure + 1) then .locked else s.zone, min 65535 (s.exposure + 1)) := by
    rw [hwarm, hpaused]
    rcases hz with hz | hz <;> rw [hz] <;> rfl
  unfold expose
  dsimp only
  split
  · next hfull =>
    rw [if_pos hfull] at htable
    obtain ⟨hraises, hnotice⟩ := putZone_raises hready .locked (min 65535 (s.exposure + 1))
    have hzone := putZone_zone .locked (min 65535 (s.exposure + 1)) s
    have hexposure := putZone_exposure .locked (min 65535 (s.exposure + 1)) s
    unfold lockZone
    generalize putZone .locked (min 65535 (s.exposure + 1)) s = u at hraises hnotice hzone hexposure
    refine ⟨?_, hraises, fun h => hnotice ?_, fun _ _ => ⟨rfl, rfl, rfl⟩⟩
    · rw [htable, ← hzone, ← hexposure]
      rfl
    · rcases hz with hz | hz <;> simp [hz]
  · next hfull =>
    rw [if_neg hfull] at htable
    exact putZone_judged hready (by rcases hz with hz | hz <;> simp [hz]) htable.symm

/-- A zone that is not cold yet becomes SAFE, stands while paused, and is exposed otherwise (R172, R173). -/
theorem unsafeZone_judged (hready : s.ready = true) (hz : s.zone = .unverified ∨ s.zone = .exposed) :
    ZoneJudged s (if !s.warm then putZone .safe 0 s else if s.paused then s else expose s.zone s) := by
  have htable : zoneSampled s.zone s.exposure s.coolSet.allowedExposure s.warm s.paused =
      if !s.warm then (.safe, 0) else if s.paused then (s.zone, s.exposure)
      else (if s.coolSet.allowedExposure ≤ min 65535 (s.exposure + 1) then .locked else s.zone, min 65535 (s.exposure + 1)) := by
    rcases hz with hz | hz <;> rw [hz] <;> cases s.warm <;> cases s.paused <;> rfl
  by_cases hwarm : s.warm = true
  · have hcold : ¬ (!s.warm) = true := by simp [hwarm]
    rw [if_neg hcold] at htable ⊢
    by_cases hpaused : s.paused = true
    · rw [if_pos hpaused] at htable ⊢
      exact zone_stands htable.symm
    · rw [if_neg hpaused]
      exact expose_judged hready hz hwarm (Bool.eq_false_iff.mpr hpaused)
  · have hcold : (!s.warm) = true := by simp [hwarm]
    rw [if_pos hcold] at htable ⊢
    exact putZone_judged hready nofun htable.symm

theorem safeZone_judged (hready : s.ready = true) (hz : s.zone = .safe) :
    ZoneJudged s (if s.warm && !s.paused then putZone .exposed 1 s else s) := by
  have htable : zoneSampled s.zone s.exposure s.coolSet.allowedExposure s.warm s.paused =
      if s.warm && !s.paused then (.exposed, 1) else (s.zone, s.exposure) := by
    rw [hz]
    cases s.warm <;> cases s.paused <;> rfl
  split
  · next hwarm =>
    rw [if_pos hwarm] at htable
    exact putZone_judged hready nofun htable.symm
  · next hstays =>
    rw [if_neg hstays] at htable
    exact zone_stands htable.symm

theorem judgeZone_judged (hready : s.ready = true) : ZoneJudged s (judgeZone s) := by
  cases hz : s.zone with
  | unverified =>
    have hjudged := unsafeZone_judged hready (.inl hz)
    rw [hz] at hjudged
    simpa only [judgeZone, hz] using hjudged
  | safe =>
    have hjudged := safeZone_judged hready hz
    simpa only [judgeZone, hz] using hjudged
  | exposed =>
    have hjudged := unsafeZone_judged hready (.inr hz)
    rw [hz] at hjudged
    simpa only [judgeZone, hz] using hjudged
  | locked =>
    have hstands : judgeZone s = s := by simp only [judgeZone, hz]
    rw [hstands]
    refine zone_stands ?_
    rw [hz]
    rfl

/-! ## The whole sample -/

theorem thermostatJudged_unsensed (a b e : BitVec 12) (s : State) : Unsensed (s.read a b e) (thermostatJudged a b e s) :=
  ite_unsensed (.refl _) (thermostat_unsensed _)

/-- From the judgement of fallback cycling up to the zone a sample moves no sensor (R152). -/
theorem sample_unsensed (a b e : BitVec 12) (s : State) :
    Unsensed (s.read a b e) (judgeTermination judgeLoad (thermostatJudged a b e s)) :=
  (thermostatJudged_unsensed a b e s).trans (judgeTermination_unsensed _)

end

end Sys2Proof.Machine

/-! The sample's statements (R152 to R159, R168, R171 to R174). -/

namespace Sys2Proof.Machine

section
variable {s : State}

theorem read_sensors (a b e : BitVec 12) (m : Nat) (s : State) : ((s.sampling m).read a b e).sensors =
    { now := max s.now m, ready := s.ready, nextSample := some (m + 1000),
      channels := (s.cabA.sampled s.coolSet.filterK (convert a s.coolSet.trimA),
        s.cabB.sampled s.coolSet.filterK (convert b s.coolSet.trimB),
        s.evap.sampled s.coolSet.filterK (convert e s.coolSet.trimEvap)),
      thermostat := { setpoint := s.coolSet.setpoint, differential := s.coolSet.differential },
      airflow := (((s.sampling m).sensed a b e).airflow, ((s.sampling m).sensed a b e).aboveCount,
        ((s.sampling m).sensed a b e).withinCount),
      fallback := ((s.sampling m).read a b e).fallback, zone := (s.zone, s.exposure), coolSet := s.coolSet,
      port := (s.sup, s.door, s.moneySet, s.channels) } := by
  rw [read_frame]
  rfl

/-- But for the zone a sample shows what it has read (R152). -/
theorem takeSample_sensors (a b e : BitVec 12) (s : State) :
    { (takeSample judgeLoad a b e s).sensors with zone := (s.read a b e).sensors.zone } = (s.read a b e).sensors := by
  rw [takeSample_eq, ← (sample_unsensed a b e s).sensors]
  obtain ⟨zone, exposure, notices, store, hzone⟩ :=
    exists_judgeZone (judgeTermination judgeLoad (thermostatJudged a b e s))
  rw [hzone]
  rfl

/-- The conditions of the zone stand after the sample as they are judged (R171). -/
theorem judgeZone_conditions (s : State) : (judgeZone s).warm = s.warm ∧ (judgeZone s).paused = s.paused := by
  obtain ⟨zone, exposure, notices, store, hzone⟩ := exists_judgeZone s
  rw [hzone]
  exact ⟨rfl, rfl⟩

/-- The notices of a sample that have been raised when fallback cycling is judged stand after it (R41). -/
theorem takeSample_raises (hready : s.ready = true) (a b e : BitVec 12) :
    (s.read a b e).noticePending ||| (takeSample judgeLoad a b e s).noticePending =
      (takeSample judgeLoad a b e s).noticePending := by
  have hunsensed := sample_unsensed a b e s
  have hreadyHere : (judgeTermination judgeLoad (thermostatJudged a b e s)).ready = true := by
    have hsame := congrArg Sensors.ready hunsensed.sensors
    exact hsame.trans (by rw [read_frame]; exact hready)
  exact or_trans hunsensed.notices (judgeZone_judged hreadyHere).raises

/-- The zone after a sample, by its table (R172 to R174). -/
theorem takeSample_zone (hready : s.ready = true) (a b e : BitVec 12) (m : Nat) {t : State}
    (ht : takeSample judgeLoad a b e (s.sampling m) = t) :
    (t.zone, t.exposure) = zoneSampled s.zone s.exposure s.coolSet.allowedExposure t.warm t.paused ∧
      (t.zone ≠ s.zone → t.noticePending &&& NoticeClass.zone.bit ≠ 0) ∧
      (t.zone = .locked → s.zone ≠ .locked →
        t.store.state = .saving ∧ t.store.capture = some t.image ∧ t.store.ends = some (t.now + 200)) := by
  have hsensors := (sample_unsensed a b e (s.sampling m)).sensors
  rw [read_sensors] at hsensors
  rw [takeSample_eq] at ht
  generalize judgeTermination judgeLoad (thermostatJudged a b e (s.sampling m)) = w at hsensors ht
  simp only [State.sensors, Sensors.mk.injEq, Prod.mk.injEq] at hsensors
  obtain ⟨-, hreadyHere, -, -, -, -, -, ⟨hzone, hexposure⟩, hcool, -⟩ := hsensors
  obtain ⟨hwarm, hpaused⟩ := judgeZone_conditions w
  obtain ⟨htable, -, hnotice, hsave⟩ := judgeZone_judged (hreadyHere.trans hready)
  rw [ht] at hwarm hpaused htable hnotice hsave
  rw [hzone, hexposure, hcool, ← hwarm, ← hpaused] at htable
  rw [hzone] at hnotice hsave
  exact ⟨htable, hnotice, hsave⟩

/-- A change of a channel's state raises COOLING, and it stands after the sample (R154). -/
theorem takeSample_channelNotice (hready : s.ready = true) (a b e : BitVec 12)
    (h : (s.read a b e).cabA.state ≠ s.cabA.state ∨ (s.read a b e).cabB.state ≠ s.cabB.state ∨
      (s.read a b e).evap.state ≠ s.evap.state) :
    (takeSample judgeLoad a b e s).noticePending &&& NoticeClass.cooling.bit ≠ 0 := by
  have hsampled : (sampleChannels a b e (takeSetpoint s)).noticePending &&& NoticeClass.cooling.bit ≠ 0 := by
    refine sampleChannels_notices (s := takeSetpoint s) hready ?_
    rw [read_frame] at h
    rw [sampleChannels_frame]
    exact h
  have hready' : (sampleChannels a b e (takeSetpoint s)).ready = true := by
    rw [sampleChannels_frame]
    exact hready
  have hreadySensed : (s.sensed a b e).ready = true := by
    rw [sensed_frame]
    exact hready
  exact pending_of_or (takeSample_raises hready a b e)
    (pending_of_or (updateFallback_raises hreadySensed).1 (pending_of_or (judgeSpread_raises hready').1 hsampled))

/-! ## The airflow flag -/

/-- What the spread of a sample makes of the counts and of the flag, from those of `s` (R156). -/
structure SpreadShown (s t : State) : Prop where
  above : ∀ x y, t.cabA.reading = some x → t.cabB.reading = some y → (s.coolSet.spreadLimit : Int) < |x - y| →
    t.aboveCount = min 600 (s.aboveCount + 1) ∧ t.withinCount = 0 ∧ t.airflow = (t.aboveCount == 600 || s.airflow)
  within : ∀ x y, t.cabA.reading = some x → t.cabB.reading = some y → |x - y| ≤ s.coolSet.spreadLimit →
    t.withinCount = min 600 (s.withinCount + 1) ∧ t.aboveCount = 0 ∧ t.airflow = (t.withinCount != 600 && s.airflow)
  invalid : t.cabA.state ≠ .valid ∨ t.cabB.state ≠ .valid →
    t.aboveCount = 0 ∧ t.withinCount = 0 ∧ t.airflow = s.airflow

theorem judgeSpread_shown (s : State) : SpreadShown s (judgeSpread s) := by
  have hcabA : (judgeSpread s).cabA = s.cabA := by rw [judgeSpread_frame]
  have hcabB : (judgeSpread s).cabB = s.cabB := by rw [judgeSpread_frame]
  refine ⟨fun x y hx hy hd => ?_, fun x y hx hy hd => ?_, fun h => ?_⟩
  · rw [hcabA] at hx
    rw [hcabB] at hy
    rw [Int.abs_eq_natAbs] at hd
    rw [judgeSpread_of_valid hx hy]
    exact spreadJudged_above (by omega)
  · rw [hcabA] at hx
    rw [hcabB] at hy
    rw [Int.abs_eq_natAbs] at hd
    rw [judgeSpread_of_valid hx hy]
    exact spreadJudged_within (by omega)
  · rw [hcabA, hcabB] at h
    rw [judgeSpread_of_invalid h]
    exact ⟨rfl, rfl, rfl⟩

/-- The channels of a sample move none of what the spread starts from. -/
theorem sensed_shown (a b e : BitVec 12) (s : State) : SpreadShown s (s.sensed a b e) := by
  have hshown := judgeSpread_shown (sampleChannels a b e (takeSetpoint s))
  have hframe := sampleChannels_frame a b e (takeSetpoint s)
  have hlimit : (sampleChannels a b e (takeSetpoint s)).coolSet = s.coolSet := by rw [hframe]; rfl
  have habove : (sampleChannels a b e (takeSetpoint s)).aboveCount = s.aboveCount := by rw [hframe]; rfl
  have hwithin : (sampleChannels a b e (takeSetpoint s)).withinCount = s.withinCount := by rw [hframe]; rfl
  have hflag : (sampleChannels a b e (takeSetpoint s)).airflow = s.airflow := by rw [hframe]; rfl
  obtain ⟨hovers, hwithins, hinvalid⟩ := hshown
  rw [hlimit, habove, hflag] at hovers
  rw [hlimit, hwithin, hflag] at hwithins
  rw [hflag] at hinvalid
  exact ⟨hovers, hwithins, hinvalid⟩

theorem SpreadShown.congr {t u : State} (h : SpreadShown s t) (hA : u.cabA = t.cabA) (hB : u.cabB = t.cabB)
    (hflag : u.airflow = t.airflow) (habove : u.aboveCount = t.aboveCount) (hwithin : u.withinCount = t.withinCount) :
    SpreadShown s u := by
  obtain ⟨hovers, hwithins, hinvalid⟩ := h
  constructor
  all_goals rw [hA, hB, hflag, habove, hwithin]
  · exact hovers
  · exact hwithins
  · exact hinvalid

theorem read_shown (a b e : BitVec 12) (s : State) : SpreadShown s (s.read a b e) := by
  refine (sensed_shown a b e s).congr ?_ ?_ ?_ ?_ ?_
  all_goals rw [State.read, updateFallback_frame]

/-- A change of the flag raises COOLING, and it stands after the sample (R156). -/
theorem takeSample_airflowNotice (hready : s.ready = true) (a b e : BitVec 12) (h : (s.read a b e).airflow ≠ s.airflow) :
    (takeSample judgeLoad a b e s).noticePending &&& NoticeClass.cooling.bit ≠ 0 := by
  have hready' : (sampleChannels a b e (takeSetpoint s)).ready = true := by
    rw [sampleChannels_frame]
    exact hready
  have hreadySensed : (s.sensed a b e).ready = true := by
    rw [sensed_frame]
    exact hready
  have hflag : (sampleChannels a b e (takeSetpoint s)).airflow = s.airflow := by rw [sampleChannels_frame]; rfl
  have hread : (s.read a b e).airflow = (s.sensed a b e).airflow := by rw [State.read, updateFallback_frame]
  exact pending_of_or (takeSample_raises hready a b e) (pending_of_or (updateFallback_raises hreadySensed).1
    ((judgeSpread_raises hready').2 (by rwa [hflag, ← State.sensed, ← hread])))

/-! ## Fallback cycling -/

/-- Fallback cycling after a sample (R159). -/
theorem read_fallback (a b e : BitVec 12) (s : State) :
    let v := s.read a b e
    let called := v.cabA.state ≠ .valid ∧ v.cabB.state ≠ .valid ∧ v.cabA.state ≠ .unseeded ∧ v.cabB.state ≠ .unseeded
    (called → v.fallback = some (s.fallback.getD ⟨[CompressorState.claiming, .starting, .running].contains s.comp.state,
      v.now + 900000⟩)) ∧ (¬ called → v.fallback = none) := by
  intro v called
  have hcalled : (s.sensed a b e).fallbackCalled = true ↔ called := by
    have hA : (s.read a b e).cabA = (s.sensed a b e).cabA := by rw [State.read, updateFallback_frame]
    have hB : (s.read a b e).cabB = (s.sensed a b e).cabB := by rw [State.read, updateFallback_frame]
    rw [fallbackCalled_iff, ← hA, ← hB]
  have hnow : v.now = (s.sensed a b e).now := by
    change (s.read a b e).now = _
    rw [State.read, updateFallback_frame]
  have hfallback : (s.sensed a b e).fallback = s.fallback := by rw [sensed_frame]
  have hcomp : (s.sensed a b e).comp = s.comp := by rw [sensed_frame]
  refine ⟨fun h => ?_, fun h => updateFallback_not_called (mt hcalled.mp h)⟩
  rw [contains_wanted, hnow, ← hfallback, ← hcomp]
  exact updateFallback_called (hcalled.mpr h)

theorem takeSample_fallbackNotice (hready : s.ready = true) (a b e : BitVec 12)
    (h : s.fallback.isSome ≠ (s.read a b e).fallback.isSome) :
    (takeSample judgeLoad a b e s).noticePending &&& NoticeClass.cooling.bit ≠ 0 := by
  have hreadySensed : (s.sensed a b e).ready = true := by
    rw [sensed_frame]
    exact hready
  have hfallback : (s.sensed a b e).fallback = s.fallback := by rw [sensed_frame]
  exact pending_of_or (takeSample_raises hready a b e)
    ((updateFallback_raises hreadySensed).2 (by rw [hfallback]; exact h))

/-- The thermostat does not judge a sample at which fallback cycling begins, is active or ends (R159). -/
theorem thermostatJudged_of_fallback {a b e : BitVec 12} (h : s.fallback.isSome = true ∨ (s.read a b e).fallback.isSome = true) :
    thermostatJudged a b e s = s.read a b e := by
  have hfallback : (s.sensed a b e).fallback = s.fallback := by rw [sensed_frame]
  rw [thermostatJudged, hfallback]
  exact if_pos (Bool.or_eq_true_iff.mpr h)

theorem judgeTermination_of_not_endable (h : s.defrost.endable = false) : judgeTermination judgeLoad s = s := by
  unfold judgeTermination
  split
  · rfl
  · exact if_neg (by simp [h])

end

/-- Settles O44: the channels by `channelSampled_sampled`, the zone by `takeSample_zone`. -/
theorem aSampleJudgesChannelsAndZone : Obligations.ASampleJudgesChannelsAndZone := by
  intro a b e s m hworks hm
  have hready := working_ready hworks
  have hkept := takeSample_sensors a b e (s.sampling m)
  have hnotice := takeSample_channelNotice (s := s.sampling m) hready a b e
  rw [read_sensors] at hkept
  rw [read_frame] at hnotice
  refine ⟨_, execSample_of hworks hm a b e, ?_⟩
  generalize ht : takeSample judgeLoad a b e (s.sampling m) = t at hkept hnotice
  obtain ⟨htable, hzone, hsave⟩ := takeSample_zone hready a b e m ht
  simp only [State.sensors, Sensors.mk.injEq, Prod.mk.injEq] at hkept
  obtain ⟨hnow, -, hnext, ⟨ha, hb, he⟩, hthermostat, -, -, -, hcool, hsup, hdoor, hmoney, hchannels⟩ := hkept
  refine ⟨hnow, hnext, ?_, ?_, ?_, hthermostat, htable, hzone, hsave, ?_, hcool, hchannels, hsup, hdoor, hmoney⟩
  · rw [ha]
    exact channelSampled_sampled _ _ _ _
  · rw [hb]
    exact channelSampled_sampled _ _ _ _
  · rw [he]
    exact channelSampled_sampled _ _ _ _
  · rw [ha, hb, he]
    exact hnotice

/-- Settles O45: the spread by `sensed_shown`, fallback cycling by `read_fallback`. -/
theorem aSampleJudgesAirflowAndFallback : Obligations.ASampleJudgesAirflowAndFallback := by
  intro a b e s m hworks hm
  have hready := working_ready hworks
  obtain ⟨hcalled, hended⟩ := read_fallback a b e (s.sampling m)
  have hairflow := takeSample_airflowNotice (s := s.sampling m) hready a b e
  have hstarts := takeSample_fallbackNotice (s := s.sampling m) hready a b e
  have hkept := takeSample_sensors a b e (s.sampling m)
  simp only [State.sensors, Sensors.mk.injEq, Prod.mk.injEq] at hkept
  obtain ⟨hnow, -, -, ⟨hA, hB, -⟩, -, ⟨hflag, habove, hwithin⟩, hfallback, -⟩ := hkept
  obtain ⟨hovers, hwithins, hinvalid⟩ := (read_shown a b e (s.sampling m)).congr hA hB hflag habove hwithin
  rw [← hA, ← hB, ← hfallback, ← hnow] at hcalled
  rw [← hA, ← hB, ← hfallback] at hended
  rw [← hflag] at hairflow
  rw [← hfallback] at hstarts
  refine ⟨_, execSample_of hworks hm a b e, hovers, hwithins, hinvalid, hairflow, hcalled, hended, hstarts, fun h hend => ?_⟩
  rw [hfallback] at h
  obtain ⟨-, -, -, -, hcomp, hdefrost, hwaiting, hgrants, -⟩ := read_keeps a b e m s
  obtain ⟨zone, exposure, notices, store, hzone⟩ := exists_judgeZone ((s.sampling m).read a b e)
  rw [takeSample_eq, thermostatJudged_of_fallback (s := s.sampling m) h,
    judgeTermination_of_not_endable (by rw [hdefrost]; exact hend), hzone]
  exact ⟨hcomp, hwaiting, hgrants, hdefrost⟩

end Sys2Proof.Machine

/-! The thermostat at a sample outside fallback and defrost (R155, R157, R161, R162). -/

namespace Sys2Proof.Machine

section
variable {s : State}

/-! ## What a sample hands to the thermostat -/

/-- While there is a control temperature fallback cycling is not active (R159). -/
theorem read_fallback_of_control {a b e : BitVec 12} {f : Int} (h : (s.read a b e).controlTemp = some f) :
    (s.read a b e).fallback = none := by
  refine (read_fallback a b e s).2 fun ⟨hA, hB, _⟩ => ?_
  rw [State.controlTemp, (reading_isNone_iff _).mpr hA, (reading_isNone_iff _).mpr hB] at h
  cases h

theorem thermostatJudged_of_none {a b e : BitVec 12} (hnone : s.fallback = none) (h : (s.read a b e).fallback = none) :
    thermostatJudged a b e s = thermostat judgeLoad (s.read a b e) := by
  have hsensed : (s.sensed a b e).fallback = none := by rw [sensed_frame]; exact hnone
  rw [thermostatJudged, hsensed, h]
  rfl

theorem thermostatJudged_stands {a b e : BitVec 12} (h : thermostat judgeLoad (s.read a b e) = s.read a b e) :
    thermostatJudged a b e s = s.read a b e := by
  unfold thermostatJudged
  split
  · rfl
  · exact h

/-! ## The thermostat by the stage of the compressor (R157) -/

theorem thermostat_of_idle (h : s.comp.state = .offIdle) :
    thermostat judgeLoad s = if s.cutInReached then claimStart judgeLoad s else s := by
  simp only [thermostat, h]

theorem thermostat_of_claiming (h : s.comp.state = .claiming) :
    thermostat judgeLoad s = if s.cutInReached then s else withdrawStart judgeLoad s := by
  simp only [thermostat, h]

theorem thermostat_of_running (h : s.comp.state = .running) :
    thermostat judgeLoad s = if s.comp.minOn.isNone && s.cutOutReached then cutOut judgeLoad s else s := by
  simp only [thermostat, h]

theorem thermostat_of_other (h : s.comp.state = .offResting ∨ s.comp.state = .starting) : thermostat judgeLoad s = s := by
  rcases h with h | h <;> simp only [thermostat, h]

/-! ## What the thermostat does while no other claim waits -/

/-- The start claim is granted at once where it fits the budget (R145, R157). -/
theorem claimStart_alone (hwaiting : s.waiting = []) (hpfail : s.pfail = .clear) :
    claimStart judgeLoad s =
      if s.granted + s.loadSet.startSize ≤ s.loadSet.budget then
        compressorGranted { s with comp := { s.comp with state := .claiming }, waiting := [],
                                   grants := s.grants ++ [⟨.compressor, s.loadSet.startSize⟩] }
      else { s with comp := { s.comp with state := .claiming }, waiting := [⟨.compressor, s.loadSet.startSize⟩] } := by
  have hplaced : claimStart judgeLoad s = judgeLoad { s with
      comp := { s.comp with state := .claiming }, waiting := [⟨.compressor, s.loadSet.startSize⟩] } := by
    rw [claimStart, placeClaim]
    dsimp only
    rw [hwaiting]
    rfl
  rw [hplaced, judgeLoad_compressor rfl]
  exact if_congr (and_iff_right hpfail) rfl rfl

theorem withdrawStart_alone {size : Nat} (hwaiting : s.waiting = [⟨.compressor, size⟩]) :
    withdrawStart judgeLoad s = State.without { s with comp := { s.comp with state := .offIdle } } .compressor := by
  refine judgeLoad_of_empty ?_
  dsimp only
  rw [hwaiting]
  rfl

theorem without_hasGrant (s : State) (c : Claimant) : (s.without c).hasGrant c = false := by
  simp [State.hasGrant, State.without]

/-- The state of a heater claim that waits alone (R162). -/
def State.heaterWaiting (s : State) : State :=
  { s.unloaded.defrostFrom .claimingHeat with waiting := [⟨.heater, s.loadSet.heaterSize⟩] }

theorem defrostBegun_of_heater (htype : s.coolSet.defrostType = .heater) (hwaiting : s.waiting = []) :
    defrostBegun s = judgeLoad s.heaterWaiting := by
  have hempty : (s.without .compressor).waiting = [] := by simp [State.without, hwaiting]
  unfold defrostBegun
  dsimp only
  rw [htype, hempty]
  rfl

theorem defrostBegun_of_offCycle (htype : s.coolSet.defrostType = .offCycle) :
    defrostBegun s = s.unloaded.defrostFrom .offCycle := by
  unfold defrostBegun
  dsimp only
  rw [htype]
  rfl

theorem heaterWaiting_granted (s : State) : s.heaterWaiting.granted = (s.without .compressor).granted := by
  simp only [State.granted, State.heaterWaiting, State.unloaded, State.stopped, State.defrostFrom, State.without]

theorem heaterWaiting_grants (s : State) : s.heaterWaiting.grants = (s.without .compressor).grants := by
  simp only [State.heaterWaiting, State.unloaded, State.stopped, State.defrostFrom, State.without]

theorem heaterWaiting_frame (s : State) : s.heaterWaiting.pfail = s.pfail ∧ s.heaterWaiting.loadSet = s.loadSet ∧
    s.heaterWaiting.comp = ⟨.offResting, none, none, none⟩ ∧ s.heaterWaiting.runTime = 0 ∧
    s.heaterWaiting.defrost.startedAt = s.now ∧
    s.heaterWaiting.defrost.timer = some (s.now + 60000 * s.coolSet.maxDuration) ∧
    s.heaterWaiting.defrost.state = .claimingHeat := by
  simp only [State.heaterWaiting, State.unloaded, State.stopped, State.defrostFrom, State.without, and_self]

/-- A defrost that starts while no claim waits: the heater is granted where it fits the budget (R162, R163). -/
theorem defrostBegun_alone (hwaiting : s.waiting = []) (hpfail : s.pfail = .clear) :
    (defrostBegun s).comp = ⟨.offResting, none, none, none⟩ ∧ (defrostBegun s).hasGrant .compressor = false ∧
      (defrostBegun s).runTime = 0 ∧ (defrostBegun s).defrost.startedAt = s.now ∧
      (defrostBegun s).defrost.timer = some (s.now + 60000 * s.coolSet.maxDuration) ∧
      (defrostBegun s).defrost.state = match s.coolSet.defrostType with
        | .offCycle => .offCycle
        | .heater =>
          if (s.without .compressor).granted + s.loadSet.heaterSize ≤ s.loadSet.budget then .heating else .claimingHeat := by
  have hreleased := without_hasGrant s .compressor
  cases htype : s.coolSet.defrostType with
  | offCycle =>
    rw [defrostBegun_of_offCycle htype]
    exact ⟨rfl, hreleased, rfl, rfl, rfl, rfl⟩
  | heater =>
    obtain ⟨hp, hload, hcomp, hrun, hstarted, htimer, hstate⟩ := heaterWaiting_frame s
    have hgrants : s.heaterWaiting.hasGrant .compressor = false := by
      rw [State.hasGrant, heaterWaiting_grants]
      exact hreleased
    have hwaits : s.heaterWaiting.waiting = ⟨.heater, s.loadSet.heaterSize⟩ :: [] := rfl
    rw [defrostBegun_of_heater htype hwaiting, judgeLoad_heater hwaits, hp, hload, heaterWaiting_granted]
    generalize s.heaterWaiting = w at *
    by_cases hfits : (s.without .compressor).granted + s.loadSet.heaterSize ≤ s.loadSet.budget
    · rw [if_pos (And.intro hpfail hfits)]
      simp only [if_pos hfits]
      refine ⟨hcomp, ?_, hrun, hstarted, htimer, rfl⟩
      change (w.grants ++ [Claim.mk .heater s.loadSet.heaterSize]).any _ = false
      rw [List.any_append]
      exact (Bool.or_false _).trans hgrants
    · rw [if_neg fun h => hfits h.2]
      simp only [if_neg hfits]
      exact ⟨hcomp, hgrants, hrun, hstarted, htimer, hstate⟩

/-! ## The count of a run -/

theorem runCounted_notDue (h : (runCounted s).defrost.state = .notDue) : (runCounted s).defrost = s.defrost := by
  rw [runCounted_def] at h ⊢
  split at h
  · next hnone => rw [if_pos hnone]
  · next hsome =>
    rw [if_neg hsome]
    split at h
    · cases h
    · next hfree =>
      rw [if_neg hfree]
      rfl

/-- The count reads the clock, the accumulator, the defrost and its interval alone (R161). -/
theorem runCounted_congr {t : State} (hnow : t.now = s.now) (htime : t.runTime = s.runTime) (hsecond : t.runSecond = s.runSecond)
    (hdefrost : t.defrost = s.defrost) (hcool : t.coolSet = s.coolSet) :
    (runCounted t).runTime = (runCounted s).runTime ∧ (runCounted t).defrost = (runCounted s).defrost := by
  have hdue : t.secondsDue = s.secondsDue := by simp only [State.secondsDue, hnow, hsecond]
  have hreached : t.secondsCounted.dueByTime ↔ s.secondsCounted.dueByTime := by
    simp only [State.dueByTime, State.secondsCounted, hdue, htime, hcool]
  have hstate : t.secondsCounted.defrost = s.secondsCounted.defrost := by simp only [State.secondsCounted, hdefrost]
  have hcount : t.secondsCounted.runTime = s.secondsCounted.runTime := by simp only [State.secondsCounted, htime, hdue]
  simp only [runCounted_def, hdue, hreached, hstate, hnow]
  split
  · exact ⟨htime, hdefrost⟩
  · split
    · exact ⟨hcount, rfl⟩
    · exact ⟨hcount, hstate⟩

/-! ## The cut-out (R157, R161, R162) -/

theorem thermostat_of_cutOut (h : s.comp.state = .running) (hmin : s.comp.minOn = none) (hreached : s.coldReached) :
    thermostat judgeLoad s = cutOut judgeLoad s := by
  rw [thermostat_of_running h, hmin]
  exact if_pos (by rw [cutOutReached_iff.mpr hreached]; rfl)

/-- While no claim waits and no defrost is due the compressor rests, its run counted (R157, R161). -/
theorem cutOut_rests (hwaiting : s.waiting = []) (h : (runCounted s).defrost.state = .notDue) :
    (cutOut judgeLoad s).runTime = (runCounted s).runTime ∧ (cutOut judgeLoad s).runSecond = none ∧
      (cutOut judgeLoad s).comp = ⟨.offResting, some (s.now + 1000 * s.coolSet.minOff), none, none⟩ ∧
      (cutOut judgeLoad s).hasGrant .compressor = false ∧ (cutOut judgeLoad s).defrost = s.defrost := by
  have hempty : ((runCounted s).rested.without .compressor).waiting = [] := by
    rw [runCounted_frame]
    simp [State.without, State.rested, hwaiting]
  rw [cutOut_of_not_due (by simp [h]), judgeLoad_of_empty hempty]
  refine ⟨rfl, rfl, ?_, without_hasGrant _ _, runCounted_notDue h⟩
  rw [runCounted_frame]
  rfl

theorem cutOut_defrosts (hwaiting : s.waiting = []) (h : (runCounted s).defrost.state = .due) :
    cutOut judgeLoad s = defrostBegun s :=
  cutOut_of_due h (headStays_of_empty (by simp [State.without, hwaiting]))

/-! ## The machines of a sample -/

/-- `t` shows the compressor, the defrost and the arbiter of `w`. -/
structure SameMachines (w t : State) : Prop where
  comp : t.comp = w.comp
  grants : t.grants = w.grants
  waiting : t.waiting = w.waiting
  runTime : t.runTime = w.runTime
  runSecond : t.runSecond = w.runSecond
  defrost : t.defrost = w.defrost

theorem SameMachines.hasGrant {w t : State} (h : SameMachines w t) (c : Claimant) : t.hasGrant c = w.hasGrant c := by
  rw [State.hasGrant, h.grants, State.hasGrant]

theorem judgeZone_machines (s : State) : SameMachines s (judgeZone s) := by
  obtain ⟨zone, exposure, notices, store, hzone⟩ := exists_judgeZone s
  rw [hzone]
  exact ⟨rfl, rfl, rfl, rfl, rfl, rfl⟩

/-- A sample whose thermostat leaves `w`, from which no defrost ends (R157, R164). -/
theorem takeSample_machines {a b e : BitVec 12} {w : State} (hjudged : thermostatJudged a b e s = w)
    (hlasts : judgeTermination judgeLoad w = w) : SameMachines w (takeSample judgeLoad a b e s) := by
  rw [takeSample_eq, hjudged, hlasts]
  exact judgeZone_machines w

/-- `v` holds the machines, the settings and the supply of `s`: what a sample hands to its thermostat. -/
structure ReadFrom (s v : State) : Prop extends SameMachines s v where
  coolSet : v.coolSet = s.coolSet
  loadSet : v.loadSet = s.loadSet
  pfail : v.pfail = s.pfail

theorem read_readFrom (a b e : BitVec 12) (m : Nat) (s : State) : ReadFrom s ((s.sampling m).read a b e) := by
  rw [read_frame]
  exact ⟨⟨rfl, rfl, rfl, rfl, rfl, rfl⟩, rfl, rfl, rfl⟩

theorem ReadFrom.granted {v : State} (h : ReadFrom s v) : v.granted = s.granted := by
  rw [State.granted, h.grants, State.granted]

theorem ReadFrom.granted_without {v : State} (h : ReadFrom s v) (c : Claimant) :
    (v.without c).granted = (s.without c).granted := by
  simp only [State.granted, State.without, h.grants]

theorem ReadFrom.runCounted {v : State} (h : ReadFrom s v) :
    (Machine.runCounted v).runTime = (Machine.runCounted { s with now := v.now }).runTime ∧
      (Machine.runCounted v).defrost = (Machine.runCounted { s with now := v.now }).defrost :=
  runCounted_congr rfl h.runTime h.runSecond h.defrost h.coolSet

/-- A sample shows the readings by which its thermostat has judged (R155, R157). -/
theorem takeSample_readings (a b e : BitVec 12) (s : State) :
    (takeSample judgeLoad a b e s).now = (s.read a b e).now ∧
      (takeSample judgeLoad a b e s).fallback = (s.read a b e).fallback ∧
      (takeSample judgeLoad a b e s).evap = (s.read a b e).evap ∧
      ((takeSample judgeLoad a b e s).coldNeeded ↔ (s.read a b e).coldNeeded) ∧
      ((takeSample judgeLoad a b e s).coldReached ↔ (s.read a b e).coldReached) := by
  have hkept := takeSample_sensors a b e s
  simp only [State.sensors, Sensors.mk.injEq, Prod.mk.injEq] at hkept
  obtain ⟨hnow, -, -, ⟨hA, hB, he⟩, hthermostat, -, hfallback, -⟩ := hkept
  refine ⟨hnow, hfallback, he, ?_, ?_⟩
  · rw [State.coldNeeded, State.coldNeeded, State.controlTemp, State.controlTemp, hA, hB, hthermostat]
  · rw [State.coldReached, State.coldReached, State.controlTemp, State.controlTemp, hA, hB, hthermostat]

/-! ## What each act of the thermostat comes to -/

/-- The start claim of a sample: granted at once where it fits, or waiting (R145, R157). -/
theorem ReadFrom.claimStart {v t : State} (hread : ReadFrom s v) (hshows : SameMachines (Machine.claimStart judgeLoad v) t)
    (hwaiting : s.waiting = []) (hpfail : s.pfail = .clear) :
    if s.granted + s.loadSet.startSize ≤ s.loadSet.budget then
      t.comp = ⟨.starting, s.comp.minOff, some (v.now + 1000 * s.coolSet.minOn),
        some (v.now + 1000 * s.coolSet.startWindow)⟩ ∧
      t.grants = s.grants ++ [⟨.compressor, s.loadSet.startSize⟩] ∧ t.waiting = []
    else t.comp = { s.comp with state := .claiming } ∧ t.waiting = [⟨.compressor, s.loadSet.startSize⟩] := by
  rw [claimStart_alone (hread.waiting.trans hwaiting) (hread.pfail.trans hpfail), hread.granted, hread.loadSet,
    hread.comp, hread.grants] at hshows
  split at hshows
  · next hfits =>
    rw [if_pos hfits, hshows.comp, hshows.grants, hshows.waiting, ← hread.coolSet]
    exact ⟨rfl, rfl, rfl⟩
  · next hfull =>
    rw [if_neg hfull, hshows.comp, hshows.waiting]
    exact ⟨rfl, rfl⟩

theorem ReadFrom.withdrawStart {v t : State} {size : Nat} (hread : ReadFrom s v)
    (hshows : SameMachines (Machine.withdrawStart judgeLoad v) t) (hwaiting : s.waiting = [⟨.compressor, size⟩]) :
    t.comp = { s.comp with state := .offIdle } ∧ t.waiting = [] := by
  rw [withdrawStart_alone (hread.waiting.trans hwaiting), hread.comp] at hshows
  rw [hshows.comp, hshows.waiting, State.without, hread.waiting, hwaiting]
  exact ⟨rfl, rfl⟩

/-- A cut-out of a sample with no defrost due (R157, R161). -/
theorem ReadFrom.cutOut_rests {v t : State} (hread : ReadFrom s v) (hshows : SameMachines (cutOut judgeLoad v) t)
    (hwaiting : s.waiting = []) (hnotDue : (Machine.runCounted { s with now := v.now }).defrost.state = .notDue) :
    t.runTime = (Machine.runCounted { s with now := v.now }).runTime ∧ t.runSecond = none ∧
      t.comp = ⟨.offResting, some (v.now + 1000 * s.coolSet.minOff), none, none⟩ ∧ t.hasGrant .compressor = false ∧
      t.defrost = s.defrost := by
  obtain ⟨hcount, hdue⟩ := hread.runCounted
  obtain ⟨htime, hsecond, hcomp, hgrant, hdefrost⟩ :=
    Machine.cutOut_rests (hread.waiting.trans hwaiting) (by rw [hdue]; exact hnotDue)
  rw [hread.coolSet] at hcomp
  exact ⟨hshows.runTime.trans (htime.trans hcount), hshows.runSecond.trans hsecond, hshows.comp.trans hcomp,
    (hshows.hasGrant _).trans hgrant, hshows.defrost.trans (hdefrost.trans hread.defrost)⟩

/-- A cut-out of a sample at which a defrost is due (R162). -/
theorem ReadFrom.defrostBegun {v t : State} (hread : ReadFrom s v) (hshows : SameMachines (Machine.defrostBegun v) t)
    (hwaiting : s.waiting = []) (hpfail : s.pfail = .clear) :
    t.comp = ⟨.offResting, none, none, none⟩ ∧ t.hasGrant .compressor = false ∧ t.runTime = 0 ∧
      t.defrost.startedAt = v.now ∧ t.defrost.timer = some (v.now + 60000 * s.coolSet.maxDuration) ∧
      t.defrost.state = match s.coolSet.defrostType with
        | .offCycle => .offCycle
        | .heater =>
          if (s.without .compressor).granted + s.loadSet.heaterSize ≤ s.loadSet.budget then .heating else .claimingHeat := by
  have hbegun := defrostBegun_alone (hread.waiting.trans hwaiting) (hread.pfail.trans hpfail)
  rw [hread.coolSet, hread.loadSet, hread.granted_without] at hbegun
  rw [hshows.comp, hshows.hasGrant, hshows.runTime, hshows.defrost]
  exact hbegun

theorem endable_of_notDue_or_due (h : s.defrost.state = .notDue ∨ s.defrost.state = .due) : s.defrost.endable = false := by
  rcases h with h | h <;> simp only [Defrost.endable, h]

/-- While no other claim waits a start claim moves no defrost (R157). -/
theorem claimStart_defrost (hwaiting : s.waiting = []) (hpfail : s.pfail = .clear) :
    (claimStart judgeLoad s).defrost = s.defrost := by
  rw [claimStart_alone hwaiting hpfail]
  split <;> rfl

theorem withdrawStart_defrost {size : Nat} (hwaiting : s.waiting = [⟨.compressor, size⟩]) :
    (withdrawStart judgeLoad s).defrost = s.defrost := by
  rw [withdrawStart_alone hwaiting]
  rfl

/-- A defrost that starts at a sample does not end there while the evaporator is below the termination temperature (R164). -/
theorem judgeTermination_of_judged {a b e : BitVec 12} {w : State} (hjudged : thermostatJudged a b e s = w)
    (hbelow : ∀ f, (s.read a b e).evap.reading = some f → f < (s.read a b e).coolSet.termination) :
    judgeTermination judgeLoad w = w := by
  have hkept := (thermostatJudged_unsensed a b e s).sensors
  simp only [hjudged, State.sensors, Sensors.mk.injEq, Prod.mk.injEq] at hkept
  obtain ⟨-, -, -, ⟨-, -, hevap⟩, -, -, -, -, hcool, -⟩ := hkept
  exact judgeTermination_stands (by rw [hevap, hcool]; exact hbelow)

end

/-- Settles O46: what the thermostat does in each stage of the compressor, shown by the sample as `takeSample_machines` says. -/
theorem theThermostatJudgesASample : Obligations.TheThermostatJudgesASample := by
  intro a b e s m size hworks hm hwaiting hfallback hdefrost
  have hpfail := working_pfail hworks
  have hread := read_readFrom a b e m s
  have hempty : s.comp.state ≠ .claiming → s.waiting = [] := fun h => by rw [hwaiting, if_neg h]
  obtain ⟨hnow, hcalm, hevap, hneeded, hreached⟩ := takeSample_readings a b e (s.sampling m)
  have hcontrol : ∀ f, ((s.sampling m).read a b e).controlTemp = some f → ((s.sampling m).read a b e).fallback = none :=
    fun f => read_fallback_of_control
  have hjudged := thermostatJudged_of_none (s := s.sampling m) (a := a) (b := b) (e := e) hfallback
  have hstands := thermostatJudged_stands (s := s.sampling m) (a := a) (b := b) (e := e)
  have hbelow := fun w => judgeTermination_of_judged (s := s.sampling m) (a := a) (b := b) (e := e) (w := w)
  have hshows := fun w => takeSample_machines (s := s.sampling m) (a := a) (b := b) (e := e) (w := w)
  have hlasts : ∀ w : State, w.defrost = s.defrost → judgeTermination judgeLoad w = w := fun w h =>
    judgeTermination_of_not_endable (by rw [h]; exact endable_of_notDue_or_due hdefrost)
  refine ⟨_, execSample_of hworks hm a b e, ?_⟩
  rw [hnow, hcalm, hevap, hneeded, hreached]
  generalize takeSample judgeLoad a b e (s.sampling m) = t at *
  generalize (s.sampling m).read a b e = v at *
  have hrest (h : thermostat judgeLoad v = v) : t.comp = s.comp ∧ t.waiting = s.waiting := by
    have hsame := hshows v (hstands h) (hlasts v hread.defrost)
    exact ⟨hsame.comp.trans hread.comp, hsame.waiting.trans hread.waiting⟩
  refine ⟨fun hidle hcold => ?_, fun hidle hwarm => ?_, fun hclaiming hcold => ?_, fun hclaiming hwarm hnone => ?_,
    fun hrunning hmin hcold hnotDue => ?_, fun hrunning hmin hcold hdue hcooled => ?_, fun hrunning hrun => ?_, fun hother => ?_⟩
  · obtain ⟨f, hf, -⟩ := id hcold
    have hclaims := (hjudged (hcontrol f hf)).trans
      ((thermostat_of_idle (by rw [hread.comp, hidle])).trans (if_pos (cutInReached_iff.mpr hcold)))
    have hnone := hempty (by simp [hidle])
    exact hread.claimStart (hshows _ hclaims (hlasts _ ((claimStart_defrost (hread.waiting.trans hnone)
      (hread.pfail.trans hpfail)).trans hread.defrost))) hnone hpfail
  · obtain ⟨hcomp, hkept⟩ := hrest
      ((thermostat_of_idle (by rw [hread.comp, hidle])).trans (if_neg (mt cutInReached_iff.mp hwarm)))
    exact ⟨hcomp, hkept.trans (hempty (by simp [hidle]))⟩
  · exact hrest ((thermostat_of_claiming (by rw [hread.comp, hclaiming])).trans (if_pos (cutInReached_iff.mpr hcold)))
  · have hwithdraws := (hjudged hnone).trans
      ((thermostat_of_claiming (by rw [hread.comp, hclaiming])).trans (if_neg (mt cutInReached_iff.mp hwarm)))
    rw [if_pos hclaiming] at hwaiting
    exact hread.withdrawStart (hshows _ hwithdraws (hlasts _ ((withdrawStart_defrost (hread.waiting.trans hwaiting)).trans
      hread.defrost))) hwaiting
  · obtain ⟨f, hf, -⟩ := id hcold
    have hcuts := (hjudged (hcontrol f hf)).trans
      (thermostat_of_cutOut (by rw [hread.comp, hrunning]) (by rw [hread.comp, hmin]) hcold)
    have hnone := hempty (by simp [hrunning])
    obtain ⟨-, -, -, -, hkept⟩ := cutOut_rests (hread.waiting.trans hnone) (by rw [hread.runCounted.2]; exact hnotDue)
    exact hread.cutOut_rests (hshows _ hcuts (hlasts _ (hkept.trans hread.defrost))) hnone hnotDue
  · obtain ⟨f, hf, -⟩ := id hcold
    have hnone := hempty (by simp [hrunning])
    have hbegins := (hjudged (hcontrol f hf)).trans
      ((thermostat_of_cutOut (by rw [hread.comp, hrunning]) (by rw [hread.comp, hmin]) hcold).trans
        (cutOut_defrosts (hread.waiting.trans hnone) (by rw [hread.runCounted.2]; exact hdue)))
    exact hread.defrostBegun (hshows _ hbegins (hbelow _ hbegins (by rw [hread.coolSet]; exact hcooled))) hnone hpfail
  · refine (hrest ((thermostat_of_running (by rw [hread.comp, hrunning])).trans (if_neg ?_))).1
    rw [hread.comp, Bool.and_eq_true, cutOutReached_iff, Option.isNone_iff_eq_none]
    rintro ⟨hmin, hcold⟩
    exact hrun.elim (fun h => by simp [hmin] at h) fun h => h hcold
  · exact (hrest (thermostat_of_other (by rw [hread.comp]; exact hother))).1

end Sys2Proof.Machine
